-- ==== Sys2Proof/Word.lean ====
section
/-!
DEFINITION. The words of the module and their plainest arithmetic: bytes, 32-bit register words, 64-bit values
(R7, R8), little-endian packing, and bit fields of natural numbers.
-/
namespace Sys2Proof

/-- A byte. -/
abbrev Byte := BitVec 8

/-- A BAR0 register word (R8). -/
abbrev Word := BitVec 32

/-- The value of a byte string, first byte least significant (R7). -/
def leNat : List Byte → Nat
  | [] => 0
  | b :: bs => b.toNat + 256 * leNat bs

/-- The n low bytes of a value, least significant first (R7). -/
def leBytes : Nat → Nat → List Byte
  | 0, _ => []
  | n + 1, v => BitVec.ofNat 8 v :: leBytes n (v / 256)

/-- The n low bytes of a value, most significant first. -/
def beBytes (n v : Nat) : List Byte := (leBytes n v).reverse

/-- Bits lo to lo + len - 1 of a natural number. -/
def bits (v lo len : Nat) : Nat := (v / 2 ^ lo) % 2 ^ len

/-- One bit of a natural number. -/
def bit (v i : Nat) : Bool := v.testBit i

/-- A Bool as 0 or 1. -/
def b2n (b : Bool) : Nat := if b then 1 else 0

/-- The field of `len` bytes at offset `off` of a record (R7). -/
def fieldOf (bs : List Byte) (off len : Nat) : Nat := leNat ((bs.drop off).take len)

/-- Two's complement value of the low `w` bits. -/
def signed (w v : Nat) : Int :=
  let x := v % 2 ^ w
  if x < 2 ^ (w - 1) then (x : Int) else (x : Int) - 2 ^ w

/-- The low `w` bits of an integer in two's complement. -/
def unsigned (w : Nat) (v : Int) : Nat := (v % (2 ^ w : Int)).toNat

/-- Ceiling of a quotient; 0 when the divisor is 0. -/
def ceilDiv (a b : Nat) : Nat := if b = 0 then 0 else (a + b - 1) / b

/-- (a - b) mod 2^w on naturals. -/
def subMod (w a b : Nat) : Nat := (a + (2 ^ w - b % 2 ^ w)) % 2 ^ w

/-- `n` zero bytes. -/
def zeros (n : Nat) : List Byte := List.replicate n 0

/-- Put the bytes `v` at offset `off` of `bs`. -/
def setBytes (bs : List Byte) (off : Nat) (v : List Byte) : List Byte :=
  bs.take off ++ v ++ bs.drop (off + v.length)

/-- Are all bytes zero? -/
def allZero (bs : List Byte) : Bool := bs.all (· == 0)

end Sys2Proof
end

