-- ==== Sys2Proof/Machine/EventTypes.lean ====
section
/-!
DEFINITION. Types that commands carry: where a tile comes from, memory requesters and their verdicts, flits, the records
of a negative, and what a steward instruction does when it retires.
-/
namespace Sys2Proof.Machine

/-- Where a tile came from. -/
inductive TileSrc where
  /-- Tile k of the host command with that queue and index. -/
  | host (queue index k : Nat)
  /-- A steward list entry of a steward core and hart (R119). -/
  | steward (s hart : Nat)
  /-- A fill tile made for the tile with that uid (R20, R107). -/
  | fill (parent : Nat)
  deriving DecidableEq, Repr

/-- A flit (R211); `body` holds its valid payload bytes. -/
structure Flit where
  pos : Nat              -- position in its run, 0 to 15
  ty : Nat               -- 0 IDLE, 1 DATA, 2 CTRL, 3 TICK, 4 AUTH, 5 PROOF, 6 TRAIN, 7 to 15 reserved
  first : Bool
  last : Bool
  sched : Bool
  seqNo : Nat
  ack : Nat
  ackValid : Bool
  nak : Bool
  hops : Nat
  slot : Nat
  dst : Nat
  src : Nat
  entry : Nat            -- DATA: schedule entry; CTRL: kind
  body : List Byte
  deriving DecidableEq, Repr

/-- A write that changes what MSI-X of a function may send (R342): a vector unmasked, or Message Control written, with MSI-X
Enable and Function Mask. -/
inductive MsixWrite where
  | vector (vec : Nat)
  | control (enable mask : Bool)
  deriving DecidableEq, Repr

/-- Whose read of a tier-2 or tier-3 page fails (R163): a GATHER on a core, or the pull or demotion of a page of a sequence; or, on the
same path, the read of the twin's line that a tile waits for (R383). -/
inductive PageReader where
  | gather (core : Nat)
  | copy (id page : Nat)
  | repair (uid : Nat)
  deriving DecidableEq, Repr

/-- Who made a memory request (R129, R382). -/
inductive Requester where
  /-- A tile op on a transfer engine of a core (code 1), through an object slot whose memory object is precious or not. -/
  | tile (core eng : Nat) (precious : Bool)
  /-- A tile body load (code 2). -/
  | body (uid : Nat)
  /-- A steward hart (code 3). -/
  | steward (s hart : Nat)
  /-- A GATHER page (code 4): core, transfer engine and sequence. -/
  | gather (core eng seq : Nat)
  /-- A sequence engine copy (code 5): sequence and page. -/
  | seqCopy (seq page : Nat)
  /-- A migration copy (code 5): register set i of die d, as d * 2 + i. -/
  | migrate (i : Nat)
  /-- The host through a BAR (code 6). -/
  | host
  /-- A reduction engine (code 7): port and collective. -/
  | reduce (port coll : Nat)
  /-- Patrol scrub. -/
  | scrub
  /-- Timeline access of a core, for dependencies and signals (R144). -/
  | timeline (core : Nat)
  /-- Control traffic of the module: object-table access, completion writes, error-log ring writes, clearing (R144, R200). -/
  | control
  deriving DecidableEq, Repr

/-- An event that a detection mechanism of R373 finds where no other command of the table brings it. -/
inductive Detected where
  /-- A residue, accumulator, plate or op store error of a core, with the plate line of a plate error. -/
  | core (c cause line : Nat)
  /-- A correctable plate error of a core. -/
  | plateCe (c : Nat)
  /-- An uncorrectable error in a replay buffer of a port. -/
  | replay (p : Nat)
  /-- An uncorrectable error in the reduction staging of a port, in the space of a collective. -/
  | staging (p coll : Nat)
  /-- Any other event, by the fields of its record. -/
  | other (cls cause sub unitType unit : Nat) (part ctx : Option Nat) (detail : Nat)
  deriving DecidableEq, Repr

/-- A record of a negative (R315). -/
inductive NegRec where
  /-- A tile of the lists: context, class, label, stream object, offset, core, attempts ended by overruns and by errors, hold count. -/
  | list (ctx : Nat) (be : Bool) (label stream offset core overruns errors hold : Nat)
  | queue (q index : Nat)
  | cmd (q index left : Nat)
  | timeline (tl value : Nat)
  | context (c state cause : Nat)
  | seq (id : Nat) (rec : List Byte)
  | ref (objType id count : Nat)
  deriving DecidableEq, Repr

/-- The trailer of a negative (R315). -/
structure NegTrailer where
  mwrites : Nat
  bytes : Nat
  digest : List Byte
  wasBound : Bool
  deriving DecidableEq, Repr

/-- What the SECDED code of a TCM read found (R111, R373). -/
inductive ReadCheck where
  /-- No error. -/
  | clean
  /-- Corrected by the code. -/
  | corrected
  /-- The first read failed, the immediate second read did not. -/
  | secondOk
  /-- Both reads failed. -/
  | failed
  deriving DecidableEq, Repr

/-- The errors that one 64-byte line of a 256-byte line shows on its channel (R133, R134, R373): how many symbols of the HBM
word, or devices of the DDR5 access, are in error at the first read and at the immediate second one; and, where so many are
that the code takes them for another word and reports nothing, the 64 bytes that it then gives. Lines 0 to 3 are the data;
line 4 of a DDR5 granule is the line that holds its tag. -/
structure LineErr where
  line : Nat
  first : Nat
  again : Nat
  firstAs : Option (List Byte)
  againAs : Option (List Byte)
  deriving DecidableEq, Repr

/-- What a read of device memory meets on its channel: the errors of its lines, and for DDR5 the ciphertext and tag that the
DIMM gives at the first and at the second read where they are not the ones that the module wrote (R138, R139). -/
structure ReadErrs where
  lines : List LineErr
  dimm : List (List Byte × List Byte)
  deriving DecidableEq, Repr

/-- A read that meets no error. -/
def ReadErrs.clean : ReadErrs := { lines := [], dimm := [] }

/-- An atomic operation of the A extension on a memory word. -/
inductive AmoOp where
  | swap | add | xor | and_ | or_ | min_ | max_ | minu | maxu
  /-- Load reserved and store conditional. -/
  | lr | sc
  deriving DecidableEq, Repr

/-- A piece of a memory access by virtual address: address, length, and byte position in the register or register group. -/
structure StwPiece where
  va : Nat
  len : Nat
  pos : Nat
  deriving DecidableEq, Repr

/-- What a steward core does when a hart's turn comes (R111 to R114): the instruction at the hart's pc, or an act of the
supervisor's firmware, whose images no chapter gives. -/
inductive StwEffect where
  /-- The instruction at the pc issues, `ns` into the frame; `check` is what ECC finds where it reads data from TCM, and
  `served` what the supervisor puts into registers for an environment call that it serves. -/
  | retire (ns : Nat) (check : ReadCheck) (served : Option (List (Nat × Nat)))
  /-- A TCM read of the supervisor (its code, data and page tables) and what its checks found. -/
  | supRead (off : Nat) (check : ReadCheck)
  /-- A TCM write of the supervisor, in its own region (page tables among it) or where it loads a program. -/
  | supWrite (off : Nat) (data : List Byte)
  /-- The supervisor writes a supervisor or hypervisor CSR of a hart. -/
  | supCsr (hart num value : Nat)
  /-- The supervisor's SFENCE.VMA: the hart's TLB is empty. -/
  | supFence (hart : Nat)
  /-- The supervisor starts a program of a context on a hart, with its translation root. -/
  | start (hart ctx pc satp : Nat)
  /-- The supervisor ends the program of a hart. -/
  | stop (hart : Nat)
  deriving DecidableEq, Repr

/-- The activity of a rail in the microsecond that begins, by kind and count (R404): what gating does not touch, and what issue
at full duty makes. Kinds are numbered as log entry 86 says. -/
structure RailSample where
  rail : Nat
  rest : List (Nat × Nat)
  load : List (Nat × Nat)
  deriving DecidableEq, Repr

/-- What the power controller finds at the start of a microsecond. The input in 0.01 V and 0.01 A. -/
structure PowerSample where
  rails : List RailSample
  volts : Nat
  amps : Nat
  cool : Bool              -- coolant at or below 40 °C and 8 L/min (R402)
  deriving DecidableEq, Repr

/-- What step 7 of the release order finds on a DDR5 channel: the SPD of its DIMM, and whether training succeeded within
its two attempts. Capacity in GiB. -/
structure DimmFact where
  ch : Nat
  gib : Nat
  speed : Nat
  x8 : Bool
  serial : Nat
  ok : Bool
  deriving DecidableEq, Repr

/-- What a release-order step found (R460): milliseconds since the release, signature verdicts by key (0 to 3 profiles,
16 + 2 part + slot firmware) as ECDSA and HSS, PROFILE_SEL, the HBM stacks that failed twice, and the DIMMs. -/
structure StepFacts where
  ms : Nat
  sigs : List (Nat × Bool × Bool)
  pins : Nat
  failed : List Nat
  dimms : List DimmFact
  deriving DecidableEq, Repr

/-- What a register write calls for besides its value: verdicts of the signature check it starts, the 16 bytes that the
random source gives, and the upstream's present frame number. -/
structure WriteFacts where
  ecdsa : Bool
  hss : Bool
  rnd : List Byte
  up : Nat
  deriving DecidableEq, Repr

/-- An abstract command of the RISC-V Debug Module as R487 names it: a hart register (x 0 to 31, f 32 to 63, v 64 to 95, pc
96) or memory at a local offset, read or written. -/
inductive DebugCmd where
  | readReg (hart r : Nat)
  | writeReg (hart r value : Nat)
  | readMem (off len : Nat)
  | writeMem (off : Nat) (data : List Byte)
  deriving DecidableEq, Repr

/-- A management command (R487). -/
inductive MgmtCmd where
  | getStatus
  | readReg (off : Nat)
  | writeReg (off value : Nat) (facts : WriteFacts)
  | memRead (off len : Nat)
  | memWrite (off : Nat) (data : List Byte)
  | reset
  | token (bytes : List Byte) (ecdsa hss : Bool)
  | debug (s : Nat) (cmd : DebugCmd)
  | traceRead (core len : Nat)
  | setProfile (k : Nat) (clear : Bool)
  | writeSlot (part slot off : Nat) (data : List Byte) (last ecdsa hss : Bool)
  | formatJournal
  /-- A command code that R487 does not list, or a command of bad length. -/
  | bad (code : Nat)
  /-- A response to a command of this module. -/
  | response
  deriving DecidableEq, Repr

/-- SPDM algorithms, each a set of bits of DSP0274: asymmetric, hash, measurement hash, DHE group and AEAD (R430). -/
structure SpdmAlgs where
  asym : Nat
  hash : Nat
  meas : Nat
  dhe : Nat
  aead : Nat
  deriving DecidableEq, Repr

end Sys2Proof.Machine
end

