-- ==== Sys2Proof/Machine/TileTypes.lean ====
section
/-!
DEFINITION. The parsed form of a tile: its header (R78), input descriptors (R80) and ops (R83 to R95).
Counts written "less one" in the encoding (R83) are held here as the counts themselves.
-/
namespace Sys2Proof.Machine

/-- An input descriptor (R80). -/
structure InputDesc where
  tag : Nat
  plateLine : Nat
  lines : Nat
  offset : Nat
  slot : Nat
  path : Nat
  deriving DecidableEq, Repr

/-- A tile header (R78); only the used entries of cand, dep, obj and inp are held. -/
structure Header where
  nOps : Nat
  declared : Nat
  anyCore : Bool
  fill : Bool
  streamId : Nat
  cand : List Nat
  deps : List (Nat × Nat)
  objs : List Nat
  inps : List InputDesc
  deriving DecidableEq, Repr

/-- Fields of ANCHOR and ACC_CLEAR (R84). -/
structure AnchorOp where
  mode : Nat
  fmtA : Nat
  fmtB : Nat
  smode : Nat
  anchor : Int
  aLine : Nat
  bLine : Nat
  saLine : Nat
  sbLine : Nat
  kb : Nat
  row0 : Nat
  m : Nat
  col0 : Nat
  n : Nat
  deriving DecidableEq, Repr

/-- Fields of MMA (R86). -/
structure MmaOp where
  fmtA : Nat
  fmtB : Nat
  smode : Nat
  aLine : Nat
  bLine : Nat
  saLine : Nat
  sbLine : Nat
  kb : Nat
  row0 : Nat
  m : Nat
  col0 : Nat
  n : Nat
  deriving DecidableEq, Repr

/-- Fields of ACC_READ (R87). -/
structure AccReadOp where
  fmtOut : Nat
  ieee : Bool
  sr : Bool
  raw : Bool
  mx : Bool
  mxDim : Nat
  afxSame : Bool
  outLine : Nat
  auxLine : Nat
  alphaLine : Nat
  betaLine : Nat
  row0 : Nat
  m : Nat
  col0 : Nat
  n : Nat
  anchorOut : Int
  deriving DecidableEq, Repr

/-- Fields of VOP (R88). -/
structure VopOp where
  fn : Nat
  fmtIn : Nat
  fmtOut : Nat
  aLine : Nat
  bLine : Nat
  cLine : Nat
  dLine : Nat
  n : Nat
  immB : Nat
  immC : Nat
  ieee : Bool
  sr : Bool
  deriving DecidableEq, Repr

/-- Fields of VRED (R89). -/
structure VredOp where
  fn : Nat
  fmtIn : Nat
  srcLine : Nat
  dstLine : Nat
  n : Nat
  groups : Nat
  deriving DecidableEq, Repr

/-- Fields of CONVERT (R90). -/
structure ConvOp where
  fmtIn : Nat
  fmtOut : Nat
  ieee : Bool
  sr : Bool
  mxIn : Bool
  mxOut : Bool
  srcLine : Nat
  dstLine : Nat
  scaleIn : Nat
  scaleOut : Nat
  n : Nat
  rowLen : Nat
  anchor : Int
  deriving DecidableEq, Repr

/-- Fields of XFER_IN and XFER_OUT (R91). -/
structure XferOp where
  engine : Nat
  both : Bool
  path : Nat
  slot : Nat
  plateLine : Nat
  lines : Nat
  offset : Nat
  tag : Nat
  rows : Nat
  stride : Nat
  deriving DecidableEq, Repr

/-- Fields of PEER_PUSH (R92). -/
structure PushOp where
  engine : Nat
  dstCore : Nat
  srcLine : Nat
  dstLine : Nat
  lines : Nat
  tag : Nat
  deriving DecidableEq, Repr

/-- Fields of GATHER (R93). -/
structure GatherOp where
  engine : Nat
  both : Bool
  seqId : Nat
  dstLine : Nat
  firstPage : Nat
  pages : Nat
  pageOff : Nat
  bpp : Nat
  tag : Nat
  deriving DecidableEq, Repr

/-- Fields of REDUCE_POST (R94). -/
structure PostOp where
  engine : Nat
  port : Nat
  fmt : Nat
  srcLine : Nat
  lines : Nat
  anchor : Int
  collId : Nat
  chunk : Nat
  deriving DecidableEq, Repr

/-- Fields of PRED (R95). -/
structure PredOp where
  pdst : Nat
  kind : Nat
  sel : Nat
  word : Nat
  line : Nat
  imm : Nat
  pa : Nat
  pb : Nat
  lop : Nat
  deriving DecidableEq, Repr

/-- The op proper, one constructor for each opcode of R83. -/
inductive OpBody where
  | nop (cycles : Nat)
  | endOp
  | anchor (o : AnchorOp)
  | accClear (o : AnchorOp)
  | mma (o : MmaOp)
  | accRead (o : AccReadOp)
  | vop (o : VopOp)
  | vred (o : VredOp)
  | convert (o : ConvOp)
  | copy (src dst lines : Nat)
  | fill (dst lines pattern : Nat)
  | xferIn (o : XferOp)
  | xferOut (o : XferOp)
  | peerPush (o : PushOp)
  | gather (o : GatherOp)
  | reducePost (o : PostOp)
  | wait (timeline value charge : Nat)
  | signal (timeline value : Nat)
  | pred (o : PredOp)
  | srset (seed idxBase idxStride : Nat)
  | fence
  deriving DecidableEq, Repr

/-- An op with its predicate control (R83). -/
structure TileOp where
  psel : Nat
  pen : Bool
  pinv : Bool
  body : OpBody
  deriving DecidableEq, Repr

end Sys2Proof.Machine
end

