-- ==== Sys2Proof/Syntax.lean ====
section
/-!
DEFINITION. The commands of the module, one constructor per row of spec/opcode_table.json, with what each carries:
where it acts, and what the surroundings decide (a verdict, a message's contents, a measured time).
-/
namespace Sys2Proof

/-- A command: an event at the module, a write of software, a message, or a step of one of its engines. -/
inductive Instr where
  /-- SHUTTER_WINDOW (R27). -/
  | shutterWindow (visits : Nat) (bad : List Nat)
  /-- PICKUP_CUTOFF (R30). -/
  | pickupCutoff
  /-- SHUTTER_EDGE (R14). -/
  | shutterEdge
  /-- TILE_READY (R15). -/
  | tileReady (c ac : Nat)
  /-- BUDGET_OVERRUN (R23). -/
  | budgetOverrun (c ac : Nat)
  /-- NOP (R94). -/
  | nop (c : Nat)
  /-- END (R95). -/
  | tileEnd (c : Nat)
  /-- ANCHOR (R84). -/
  | anchor (c : Nat)
  /-- ACC_CLEAR (R84). -/
  | accClear (c : Nat)
  /-- MMA (R86). -/
  | mma (c : Nat)
  /-- ACC_READ (R87). -/
  | accRead (c : Nat)
  /-- VOP (R88). -/
  | vop (c : Nat)
  /-- VRED (R89). -/
  | vred (c : Nat)
  /-- CONVERT (R90). -/
  | convert (c : Nat)
  /-- COPY (R94). -/
  | copy (c : Nat)
  /-- FILL (R94). -/
  | fill (c : Nat)
  /-- XFER_IN (R91). -/
  | xferIn (c : Nat)
  /-- XFER_OUT (R91). -/
  | xferOut (c : Nat)
  /-- PEER_PUSH (R92). -/
  | peerPush (c : Nat)
  /-- GATHER (R93). -/
  | gather (c : Nat)
  /-- REDUCE_POST (R94). -/
  | reducePost (c : Nat)
  /-- POST_STAGING_FREE (R247). -/
  | postStagingFree (c : Nat)
  /-- WAIT (R100). -/
  | wait (c : Nat)
  /-- WAIT_RESUME (R100). -/
  | waitResume (c : Nat)
  /-- SIGNAL (R95). -/
  | signal (c : Nat)
  /-- PRED (R95). -/
  | pred (c : Nat)
  /-- SRSET (R94). -/
  | srset (c : Nat)
  /-- FENCE (R100). -/
  | fence (c : Nat)
  /-- OP_COMPLETE (R98). -/
  | opComplete (c k held : Nat)
  /-- INJ_RESIDUE (R110). -/
  | injResidue (c : Nat)
  /-- INJ_PLATE_CE (R110). -/
  | injPlateCe (c : Nat)
  /-- INJ_PLATE_UE (R110). -/
  | injPlateUe (c : Nat)
  /-- INJ_ACC_PARITY (R110). -/
  | injAccParity (c : Nat)
  /-- TAG_FLUSH (R110). -/
  | tagFlush (c : Nat)
  /-- STEWARD_INSTRUCTION (R111). -/
  | stewardInstruction (s0 h : Nat) (e : Machine.StwEffect) (fetch : Machine.ReadCheck)
  /-- TLCOMMIT (R117). -/
  | tlcommit (s0 h rd n ns : Nat)
  /-- EDGEWAIT (R120). -/
  | edgewait (s0 h rd : Nat)
  /-- EDGEWAIT_RESUME (R120). -/
  | edgewaitResume (s0 h : Nat)
  /-- STEWARD_READ_DONE (R111). -/
  | stewardReadDone (s0 h : Nat)
  /-- INJ_TCM (R123). -/
  | injTcm (s0 : Nat)
  /-- MEM_REQUEST (R129). -/
  | memRequest (write : Bool) (part off len cls : Nat) (req : Machine.Requester) (data : List Byte) (errs : Machine.ReadErrs) (at_ done : Nat)
  /-- ENLARGER_ENTRY_CLOSE (R141). -/
  | enlargerEntryClose (die line : Nat)
  /-- MEM_READ_RETURN (R135). -/
  | memReadReturn (line k : Nat) (errs : Machine.ReadErrs) (now : Nat)
  /-- SCRUB_READ (R136). -/
  | scrubRead (ch : Nat) (errs : Machine.ReadErrs)
  /-- FILL_REPORT (R146). -/
  | fillReport (l : List (Nat × Nat × Nat))
  /-- CLEARING_DONE (R131). -/
  | clearingDone (ch gib : Nat)
  /-- CHANNEL_ZEROED (R132). -/
  | channelZeroed (ch : Nat)
  /-- INJ_HBM_CE (R149). -/
  | injHbmCe (d : Nat)
  /-- INJ_HBM_UE (R149). -/
  | injHbmUe (d : Nat)
  /-- INJ_DDR_CE (R149). -/
  | injDdrCe (d : Nat)
  /-- INJ_DDR_UE (R149). -/
  | injDdrUe (d : Nat)
  /-- INJ_DDR_MAC (R149). -/
  | injDdrMac (d : Nat)
  /-- MEM_LAT_RC_READ (R149). -/
  | memLatRcRead (die n cls : Nat)
  /-- OPEN (R154). -/
  | seqOpen
  /-- APPEND (R154). -/
  | seqAppend
  /-- PULL (R156). -/
  | seqPull
  /-- DEMOTE (R154). -/
  | seqDemote
  /-- REMAP (R154). -/
  | seqRemap
  /-- TRUNCATE (R165). -/
  | seqTruncate
  /-- CLOSE (R154). -/
  | seqClose
  /-- OFFER (R168). -/
  | seqOffer
  /-- RENEW (R154). -/
  | seqRenew
  /-- RECLAIM (R169). -/
  | seqReclaim
  /-- PULL_COMPLETE (R157). -/
  | pullComplete (id page : Nat)
  /-- DEMOTE_COMPLETE (R157). -/
  | demoteComplete (id page : Nat)
  /-- HOLD_LIMIT (R159). -/
  | holdLimit (uid : Nat)
  /-- TIER2_READ_FAIL (R163). -/
  | tier2ReadFail (x : Machine.PageReader)
  /-- LEASE_EXPIRY (R166). -/
  | leaseExpiry (id : Nat)
  /-- LEASE_OFFER_RECEIVED (R168). -/
  | leaseOfferReceived (sender seg epoch commitSeq expiry : Nat)
  /-- LEASE_ACCEPT_RECEIVED (R168). -/
  | leaseAcceptReceived (sender seg epoch commitSeq expiry : Nat)
  /-- LEASE_RELEASE_RECEIVED (R168). -/
  | leaseReleaseReceived (sender seg epoch commitSeq expiry : Nat)
  /-- LEASE_EPOCH_RECEIVED (R166). -/
  | leaseEpochReceived (sender seg epoch commitSeq expiry : Nat)
  /-- SEQ_POOL_WRITE (R171). -/
  | seqPoolWrite (k : Nat) (pages : Bool) (value : Nat)
  /-- TRANSLATION_COMPLETION (R180). -/
  | translationCompletion (fn pasid page : Nat) (ok : Bool) (pa sizeLog : Nat) (rd wr : Bool)
  /-- PRG_RESPONSE (R185). -/
  | prgResponse (fn prg code : Nat)
  /-- PRI_TIMEOUT (R186). -/
  | priTimeout (fn pasid page : Nat)
  /-- INVALIDATE_REQUEST (R187). -/
  | invalidateRequest (fn : Nat) (pasid : Option Nat) (base size tag : Nat)
  /-- XLAT_FLUSH (R189). -/
  | xlatFlush (value : Nat)
  /-- SEAM_CRC_FAIL (R202). -/
  | seamCrcFail (d k dir g : Nat) (again : Bool)
  /-- SEAM_INJ_CRC (R205). -/
  | seamInjCrc (d k : Nat)
  /-- RUN_RECEIVED (R217). -/
  | runReceived (p sess skip : Nat) (resent : List Nat) (raws : List (List Byte))
  /-- NAK_RECEIVED (R214). -/
  | nakReceived (p sess ack : Nat)
  /-- ACK_TIMEOUT (R214). -/
  | ackTimeout (p sess : Nat)
  /-- LANE_DROP_DONE (R209). -/
  | laneDropDone (p : Nat) (trips : List (Nat × Nat × Nat × Nat))
  /-- LINK_TRAINED (R238). -/
  | linkTrained (p rate width : Nat) (trips : List (Nat × Nat × Nat × Nat)) (chal : List (List Byte))
  /-- TRAIN_FAIL (R373). -/
  | trainFail (p : Nat)
  /-- AUTH_RECEIVED (R218). -/
  | authReceived (p sess mid port code : Nat) (serial : List Byte) (epoch : Nat) (challenge chal : List Byte)
  /-- PROOF_RECEIVED (R218). -/
  | proofReceived (p sess : Nat) (tag : List Byte)
  /-- AUTH_RETRY (R219). -/
  | authRetry (p sess : Nat) (chal : List Byte)
  /-- RUN_COUNTER_END (R221). -/
  | runCounterEnd (p sess : Nat) (chal : List Byte)
  /-- TICK_MARK_RECEIVED (R237). -/
  | tickMarkReceived (p frame root tree hop launch : Nat) (arrival : Int)
  /-- TICK_MARK_TIMEOUT (R34). -/
  | tickMarkTimeout
  /-- HOLDOVER_ENTER (R38). -/
  | holdoverEnter
  /-- SLOTS_HELD (R39). -/
  | slotsHeld
  /-- RELOCK (R40). -/
  | relock
  /-- TICK_ORPHAN (R41). -/
  | tickOrphan
  /-- TICK_RELOCK_REQUEST (R41). -/
  | tickRelockRequest (up : Nat)
  /-- SKEW_EXCEEDED (R37). -/
  | skewExceeded
  /-- TICK_REF_PULSE (R499). -/
  | tickRefPulse (off : Int)
  /-- TICK_REF_LOST (R35). -/
  | tickRefLost
  /-- PTP_SYNC_RECEIVED (R36). -/
  | ptpSyncReceived (p domain seqNo : Nat) (twoStep : Bool) (origin corr rx : Int)
  /-- PTP_FOLLOW_UP_RECEIVED (R36). -/
  | ptpFollowUpReceived (p domain seqNo : Nat) (origin corr : Int)
  /-- PTP_DELAY_REQ_RECEIVED (R36). -/
  | ptpDelayReqReceived (p domain seqNo ident : Nat) (corr rx : Int)
  /-- PTP_DELAY_RESP_RECEIVED (R36). -/
  | ptpDelayRespReceived (p domain seqNo : Nat) (t4 corr : Int)
  /-- PTP_SYNC_SEND (R36). -/
  | ptpSyncSend (p : Nat)
  /-- PTP_DELAY_REQ_SEND (R36). -/
  | ptpDelayReqSend (p : Nat) (tx : Int)
  /-- PTP_SYNC_TIMEOUT (R38). -/
  | ptpSyncTimeout
  /-- SLOT_START (R229). -/
  | slotStart (p slot launch : Nat)
  /-- MESSAGE_ROUTE (R233). -/
  | messageRoute
  /-- ETH_FRAME_RECEIVED (R223). -/
  | ethFrameReceived (p : Nat) (frame : List Byte)
  /-- ETH_FRAME_TIMEOUT (R225). -/
  | ethFrameTimeout (p sess : Nat)
  /-- PORT_DOWN (R235). -/
  | portDown (p cause : Nat)
  /-- LINK_ENABLE_WRITE (R240). -/
  | linkEnableWrite (p : Nat) (on : Bool)
  /-- LINK_RETRAIN (R240). -/
  | linkRetrain (p : Nat)
  /-- LINK_INJ_CRC (R240). -/
  | linkInjCrc (p : Nat)
  /-- LINK_INJ_TAG (R240). -/
  | linkInjTag (p : Nat)
  /-- RECALIBRATION_SLICE (R481). -/
  | recalibrationSlice (port : Bool) (k : Nat)
  /-- DEFINE (R243). -/
  | collDefine
  /-- DESTROY (R243). -/
  | collDestroy
  /-- CHUNK_RECEIVED (R253). -/
  | chunkReceived (port entry src : Nat)
  /-- INSTANCE_COMPLETE (R254). -/
  | instanceComplete (port id : Nat)
  /-- COLL_TIMEOUT (R259). -/
  | collTimeout (port id : Nat)
  /-- COLL_ABORT_RECEIVED (R259). -/
  | collAbortReceived (src id inst : Nat)
  /-- SUBMIT_IMAGE (R269). -/
  | submitImage (slot k : Nat)
  /-- STORE_PROFILE (R281). -/
  | storeProfile (slot k : Nat)
  /-- APPLY_PROFILE (R282). -/
  | applyProfile (slot k : Nat)
  /-- CANCEL (R278). -/
  | cancel (slot k : Nat)
  /-- VALIDATION_DONE (R271). -/
  | validationDone (slot : Nat) (ecdsa hss : Bool)
  /-- PROFILE_COMMITTED (R473). -/
  | profileCommitted (slot : Nat)
  /-- SLOT_RELEASE (R285). -/
  | slotRelease (slot : Nat)
  /-- ARM_FIRE (R301). -/
  | armFire (relay : Bool) (nDest : Nat)
  /-- ARM_RECEIVED (R300). -/
  | armReceived (id : Nat)
  /-- STATUS_RECEIVED (R302). -/
  | statusReceived (state code id : Nat)
  /-- TALLY_RESET (R305). -/
  | tallyReset (id : Nat)
  /-- MIG_START (R294). -/
  | migStart (d i : Nat)
  /-- MIG_RELEASE (R298). -/
  | migRelease (d i : Nat)
  /-- MIG_CANCEL (R299). -/
  | migCancel (d i : Nat)
  /-- MIG_SLICE_DONE (R295). -/
  | migSliceDone (d i : Nat) (errs : List (Nat × Machine.ReadErrs))
  /-- HELLO (R306). -/
  | hello (frame mid claimed : Nat) (serial claimedSerial : List Byte) (period : Nat) (digest : List Byte)
  /-- JOIN (R307). -/
  | join (j : Nat) (echo : Bool)
  /-- BEAT (R308). -/
  | beat
  /-- NEG (R316). -/
  | neg (vd f : Nat) (recs : List Machine.NegRec) (trailer : Option Machine.NegTrailer)
  /-- MWRITE (R316). -/
  | mwrite (vd f off : Nat) (data : List Byte)
  /-- PRINT (R322). -/
  | print (vd f print flags tiles : Nat)
  /-- SYNC (R321). -/
  | sync (vd : Nat) (digest : List Byte) (counts : List (Nat × Nat))
  /-- FAILED (R309). -/
  | failed
  /-- DETACH (R327). -/
  | detach
  /-- RESET_REQ (R326). -/
  | resetReq
  /-- SWAP (R319). -/
  | swap (vd f : Nat)
  /-- SEED_COPY_DONE (R317). -/
  | seedCopyDone (vd : Nat)
  /-- TWIN_VD_SWAP (R319). -/
  | twinVdSwap (vd : Nat)
  /-- TWIN_VD_CLEAR (R324). -/
  | twinVdClear (vd f : Nat)
  /-- TWIN_INJ_PRINT (R328). -/
  | twinInjPrint
  /-- TWIN_INJ_BEAT_STOP (R328). -/
  | twinInjBeatStop
  /-- PCIE_LINK_CHANGE (R332). -/
  | pcieLinkChange (gen lanes : Nat)
  /-- VF_ENABLE_WRITE (R335). -/
  | vfEnableWrite (en ari : Bool) (numVfs bar : Nat)
  /-- VF_MBOX_SEND (R340). -/
  | vfMboxSend (v : Nat)
  /-- VF_MBOX_IN_ACK (R340). -/
  | vfMboxInAck (v : Nat)
  /-- PF_MBOX_ACK (R340). -/
  | pfMboxAck
  /-- PF_MBOX_SEND (R340). -/
  | pfMboxSend
  /-- WINDOW_ACCESS (R337). -/
  | windowAccess (fn : Nat) (write : Bool) (off len : Nat) (data : List Byte)
  /-- ATOMIC_OP_RECEIVED (R330). -/
  | atomicOpReceived
  /-- MSIX_UNMASK (R342). -/
  | msixUnmask (fn : Nat) (w : Machine.MsixWrite)
  /-- IDE_INSECURE (R344). -/
  | ideInsecure (stream : Nat)
  /-- TAIL (R354). -/
  | tail (fn slot v upper : Nat)
  /-- REF (R366). -/
  | ref (fn slot value upper : Nat)
  /-- UNREF (R367). -/
  | unref (fn slot value upper : Nat)
  /-- ABORT (R363). -/
  | abort (fn slot i upper : Nat)
  /-- QC_HEAD (R355). -/
  | qcHead (fn slot v : Nat)
  /-- HOST_REF_WRITE (R366). -/
  | hostRefWrite (value upper : Nat)
  /-- HOST_ENABLE (R348). -/
  | hostEnable
  /-- HOST_LOCK (R372). -/
  | hostLock
  /-- EXEC (R357). -/
  | execCommand
  /-- SIGNAL_COMMAND (R356). -/
  | signalCommand
  /-- CREATE (R358). -/
  | create
  /-- MOVE_CTX (R358). -/
  | moveCtx
  /-- LOSE_CTX (R358). -/
  | loseCtx
  /-- BAD_KIND_COMMAND (R359). -/
  | badKindCommand
  /-- ERROR_LOG_RECORD (R390). -/
  | errorLogRecord (e : Machine.Detected)
  /-- LOG_DRAIN (R392). -/
  | logDrain (die : Nat)
  /-- RING_HEAD_WRITE (R392). -/
  | ringHeadWrite (v : Nat)
  /-- HISTORY_WINDOW_CLOSE (R375). -/
  | historyWindowClose (row unit : Nat)
  /-- MORAINE_REMOVE (R389). -/
  | moraineRemove
  /-- FAULT_REPORT_SEND (R393). -/
  | faultReportSend
  /-- FAULT_REPORT_RECEIVED (R394). -/
  | faultReportReceived (cls cause ut unit subject frame reporter : Nat)
  /-- DAMPER_UPDATE (R395). -/
  | damperUpdate (cls ut unit subject : Nat)
  /-- DAMPER_ENTRY_CLOSE (R395). -/
  | damperEntryClose (cls ut unit subject : Nat)
  /-- DAMPER_OVERFLOW_REPORT (R395). -/
  | damperOverflowReport
  /-- POWER_ESTIMATE (R404). -/
  | powerEstimate (x : Machine.PowerSample)
  /-- BE_RESUME (R412). -/
  | beResume
  /-- CALIBRATION (R405). -/
  | calibration (l : List (Nat × Nat))
  /-- CLAMP_TRIP (R406). -/
  | clampTrip (rail : Nat)
  /-- CLAMP_RELEASE (R406). -/
  | clampRelease (rail held : Nat)
  /-- RAIL_FAULT (R406). -/
  | railFault (rail : Nat)
  /-- INPUT_OUT_OF_RANGE (R397). -/
  | inputOutOfRange (removed : Bool)
  /-- CONVERTER_FAIL (R398). -/
  | converterFail (conv : Nat)
  /-- TEMP_SAMPLE (R416). -/
  | tempSample (l : List (Nat × Nat))
  /-- THERMTRIP (R416). -/
  | thermtrip
  /-- PWR_CAP_WRITE (R410). -/
  | pwrCapWrite (w : Nat)
  /-- PWR_PEAK_WRITE (R410). -/
  | pwrPeakWrite (w : Nat)
  /-- CAP_IN_FORCE (R411). -/
  | capInForce
  /-- SET_NUMERIC_EFFECTER_VALUE (R486). -/
  | setNumericEffecterValue (id value : Nat)
  /-- GET_SENSOR_READING (R486). -/
  | getSensorReading (id : Nat)
  /-- GET_STATE_SENSOR_READINGS (R486). -/
  | getStateSensorReadings (id : Nat)
  /-- REVOCATION_SUBMIT (R427). -/
  | revocationSubmit (ecdsa hss : Bool)
  /-- GET_VERSION (R430). -/
  | getVersion (tr : Nat)
  /-- GET_CAPABILITIES (R430). -/
  | getCapabilities (tr : Nat)
  /-- NEGOTIATE_ALGORITHMS (R430). -/
  | negotiateAlgorithms (tr : Nat) (offer : Machine.SpdmAlgs)
  /-- GET_DIGESTS (R430). -/
  | getDigests (tr : Nat) (sess : Option Nat)
  /-- GET_CERTIFICATE (R430). -/
  | getCertificate (tr : Nat) (sess : Option Nat) (slot off len : Nat)
  /-- CHALLENGE (R430). -/
  | challenge (tr slot : Nat)
  /-- GET_MEASUREMENTS (R431). -/
  | getMeasurements (tr : Nat) (sess : Option Nat) (idx : Nat) (sign : Bool)
  /-- KEY_EXCHANGE (R430). -/
  | keyExchange (tr : Nat)
  /-- FINISH (R430). -/
  | finish (k : Nat) (ok : Bool)
  /-- KEY_UPDATE (R430). -/
  | keyUpdate (k : Nat)
  /-- END_SESSION (R430). -/
  | endSession (k : Nat)
  /-- GET_HSS_ENDORSEMENT (R432). -/
  | getHssEndorsement (tr : Nat) (sess : Option Nat)
  /-- GET_HSS_SIGNATURE (R432). -/
  | getHssSignature (tr : Nat) (sess : Option Nat)
  /-- IDE_KM_QUERY (R343). -/
  | ideKmQuery (sess : Nat)
  /-- IDE_KM_KEY_PROG (R343). -/
  | ideKmKeyProg (sess stream set lo hi : Nat)
  /-- IDE_KM_K_SET_GO (R343). -/
  | ideKmKSetGo (sess stream set : Nat)
  /-- IDE_KM_K_SET_STOP (R343). -/
  | ideKmKSetStop (sess stream set : Nat)
  /-- LCS_TOKEN_GO (R444). -/
  | lcsTokenGo (ecdsa hss : Bool)
  /-- NEW_CHALLENGE (R445). -/
  | newChallenge (rnd : List Byte)
  /-- DEBUG_RELOCK (R450). -/
  | debugRelock
  /-- FUSE_PULSE_DONE (R446). -/
  | fusePulseDone (rev ok : Bool)
  /-- POWER_ON (R466). -/
  | powerOn (cleared : Bool)
  /-- RAILS_IN_REGULATION (R466). -/
  | railsInRegulation
  /-- PWR_EN_LOW (R466). -/
  | pwrEnLow
  /-- RST_N_ASSERT (R453). -/
  | rstNAssert
  /-- PERST_ASSERT (R453). -/
  | perstAssert
  /-- PERST_DEASSERT (R457). -/
  | perstDeassert
  /-- HOT_RESET (R453). -/
  | hotReset
  /-- PF_FLR (R459). -/
  | pfFlr
  /-- VF_FLR (R458). -/
  | vfFlr (v : Nat)
  /-- HOST_RESET_COMPLETE (R459). -/
  | hostResetComplete
  /-- MODULE_RESET (R464). -/
  | moduleReset (w : Nat)
  /-- HOLDOFF_START (R455). -/
  | holdoffStart (program : Bool)
  /-- INTERNAL_RESET_ASSERT (R455). -/
  | internalResetAssert (us : Nat)
  /-- INTERNAL_RESET_RELEASE (R457). -/
  | internalResetRelease (slot : Nat)
  /-- BRINGUP_STEP_END (R460). -/
  | bringupStepEnd (f : Machine.StepFacts)
  /-- WATCHDOG_EXPIRY (R463). -/
  | watchdogExpiry
  /-- SWRST_COUNTERS (R464). -/
  | swrstCounters (blk i : Nat)
  /-- SWRST_UNIT (R464). -/
  | swrstUnit (blk i : Nat)
  /-- SWRST_UNIT_DONE (R464). -/
  | swrstUnitDone
  /-- JOURNAL_COMMIT (R470). -/
  | journalCommit
  /-- FLASH_PROGRAM_DONE (R470). -/
  | flashProgramDone (copy ok : Bool)
  /-- FLASH_ERASE_DONE (R474). -/
  | flashEraseDone
  /-- FW_ACTIVATE (R478). -/
  | fwActivate (part slot : Nat) (ecdsa hss : Bool)
  /-- FW_READY (R478). -/
  | fwReady (part : Nat)
  /-- FW_TRIAL_TIMEOUT (R478). -/
  | fwTrialTimeout (part : Nat) (ecdsa hss : Bool)
  /-- REQUEST_UPDATE (R479). -/
  | requestUpdate
  /-- PASS_COMPONENT_TABLE (R479). -/
  | passComponentTable (ids : List Nat)
  /-- UPDATE_COMPONENT (R479). -/
  | updateComponent (id : Nat)
  /-- TRANSFER_COMPLETE (R479). -/
  | transferComplete (data : List Byte) (ecdsa hss : Bool)
  /-- VERIFY_COMPLETE (R479). -/
  | verifyComplete
  /-- APPLY_COMPLETE (R479). -/
  | applyComplete
  /-- ACTIVATE_FIRMWARE (R479). -/
  | activateFirmware (selfContained : Bool) (sigs : List (Nat × Bool × Bool))
  /-- DDR_OFFLINE (R482). -/
  | ddrOffline (ch : Nat)
  /-- DDR_ONLINE (R483). -/
  | ddrOnline (ch : Nat)
  /-- DIMM_POWER_WAIT_DONE (R483). -/
  | dimmPowerWaitDone (gib speed : Nat) (x8 : Bool) (serial : Nat)
  /-- DDR_TRAINING_DONE (R483). -/
  | ddrTrainingDone (ok : Bool)
  /-- DDR_INIT_DONE (R483). -/
  | ddrInitDone
  /-- GET_STATUS (R487). -/
  | getStatus (tag : Nat)
  /-- READ_REG (R487). -/
  | readReg (tag off : Nat)
  /-- WRITE_REG (R487). -/
  | writeReg (tag off value : Nat) (facts : Machine.WriteFacts)
  /-- MGMT_MEM_READ (R487). -/
  | mgmtMemRead (tag off len : Nat)
  /-- MGMT_MEM_WRITE (R487). -/
  | mgmtMemWrite (tag off : Nat) (data : List Byte)
  /-- MGMT_RESET (R453). -/
  | mgmtReset (tag : Nat)
  /-- TOKEN (R444). -/
  | token (tag : Nat) (bytes : List Byte) (ecdsa hss : Bool)
  /-- DEBUG (R487). -/
  | debugCommand (tag s0 : Nat) (cmd : Machine.DebugCmd)
  /-- TRACE_READ (R487). -/
  | traceRead (tag core len : Nat)
  /-- SET_PROFILE (R487). -/
  | setProfile (tag k : Nat) (clear : Bool)
  /-- WRITE_SLOT (R488). -/
  | writeSlot (tag part slot off : Nat) (data : List Byte) (last ecdsa hss : Bool)
  /-- FORMAT_JOURNAL (R488). -/
  | formatJournal (tag : Nat)
  /-- MGMT_CTRL_RECEIVED (R489). -/
  | mgmtCtrlReceived (src tag : Nat) (cmd : Machine.MgmtCmd)
  /-- I3C_ENTDAA (R498). -/
  | i3cEntdaa (addr : Nat)
  /-- TWIN_PRESENT_CHANGE (R496). -/
  | twinPresentChange (present : Bool)
  /-- REGISTER_WRITE (R8). -/
  | registerWrite (space off len : Nat) (write : Bool) (value : Nat) (facts : Machine.WriteFacts)
  /-- PRI_ENABLE_WRITE (R185). -/
  | priEnableWrite (fn alloc : Nat)
  /-- MCTP_CONTROL (R486). -/
  | mctpControl (cmd : Nat) (data : List Byte)
  deriving DecidableEq, Repr

end Sys2Proof
end

