-- ==== Sys2Proof/Decode.lean ====
section
/-!
DEFINITION. Decoding of table words. The opcode table gives no row any bits: a command of this block is an event with
operands, so no word spells one.
-/
namespace Sys2Proof

/-- The command that a word spells by the table's bits: none, for every row of the table has none. -/
def decodeTableWord (_nbits _w : Nat) : Option Instr := none

end Sys2Proof
end

