-- ==== Sys2Proof/Config.lean ====
section
/-!
DEFINITION. The free values: constants without a body for what the chapters call undefined while the machine goes on, and
for the facts of one part that they do not give. Nothing in Lean can evaluate them, so a claim holds whatever they are
(log entries 6 and 7).
-/
namespace Sys2Proof.Config

/-- A free number: `n` counts the uses (the model's own counter), `i` the place in one use. -/
opaque freeNat (n i : Nat) : Nat

/-- A fixed fact of the part that the chapters do not give (its certificate chain, its public keys): fact `k`, place `i`. -/
opaque fixedNat (k i : Nat) : Nat

/-- The coefficients that R404 has fused for each part, with no values given: the current of a rail for one count of a kind of
activity, in units of 0.1 A / 16,384. -/
opaque coefficient (rail kind : Nat) : Nat

/-- Leakage of a rail (R404), in units of 0.1 A, at a voltage in mV and a temperature in °C. -/
opaque leakage (rail mv temp : Nat) : Nat

/-- Voltage in mV of a rail other than CORE; the chapters give none. -/
opaque railMillivolts (rail : Nat) : Nat

/-- Conversion efficiency (R404), in units of 0.1%, when the rails draw `w` watts. -/
opaque efficiency (w : Nat) : Nat

/-- A 256-bit secret of the part or the fleet (R420): 0 the fleet link key, 1 the memory encryption key, 2 the identity
key. No chapter gives a value, and no register shows one. -/
opaque secret (k : Nat) : Nat

end Sys2Proof.Config
end

