-- ==== Sys2Proof/Machine/State.lean ====
section
/-!
DEFINITION. The state of the module as plain data: every register, table, queue, buffer and mode the chapters give it
(the inventory lists each with its rule), the reasons a command can stop, and the state after reset.
-/
namespace Sys2Proof.Machine

/-! ### Sparse tables -/

/-- A sparse map from addresses to values: keys strictly rising, no entry equal to what an unlisted key reads as. -/
abbrev SMap (α : Type) := List (Nat × α)

/-- A table of records by identifier: keys strictly rising, an absent key holds no record. -/
abbrev Tbl (α : Type) := List (Nat × α)

/-- Byte-addressed memory in canonical form (R127); an unlisted byte reads 0, as the zeroing of R132 leaves it. -/
abbrev Mem := List Host.Cell

/-! ### Outputs: what the module sends to its surroundings, oldest first (the model's own record of them) -/

/-- One thing the module sent. -/
inductive Out where
  /-- An MSI-X message of a function and vector (R342). -/
  | msix (fn vector : Nat)
  /-- An ATS Translation Request (R173, R179). -/
  | atsRequest (fn pasid va : Nat) (write : Bool)
  /-- A PRI Page Request (R184). -/
  | pageRequest (fn pasid va : Nat) (write : Bool) (prg : Nat)
  /-- An Invalidation Completion (R187). -/
  | invalCompletion (fn tag : Nat)
  /-- A flit sent on a port in direct mode: what it carries, and its 256 bytes on the wire (R211, R229). -/
  | flit (port sess : Nat) (f : Flit) (raw : List Byte)
  /-- An Ethernet frame sent with the flits of a session, and its bytes (R223, R225). -/
  | ethFrame (port sess : Nat) (fs : List Flit) (raw : List Byte)
  /-- A PTP message sent (R36, R226): message type and sequence number, and the bytes of its frame. -/
  | ptp (port kind seqNo : Nat) (raw : List Byte)
  /-- Read data delivered to a requester (R135). -/
  | memData (req : Requester) (off : Nat) (data : List Byte)
  /-- A response to a host, management, SPDM or PLDM request: status and payload. -/
  | response (status : Nat) (payload : List Byte)
  /-- A pin driven: name code and level. -/
  | pin (name level : Nat)
  deriving DecidableEq, Repr

/-! ### Frame and tick (R6 to R43) -/

/-- The states of the tick (R42). -/
inductive TickState where
  | freeRun | acquiring | locked | holdover | orphan
  deriving DecidableEq, Repr

/-- Where the module stands in the frame (R27, R30). -/
inductive Phase where
  /-- Before the window opens. -/
  | open_
  /-- In the window, step 7 still picking up. -/
  | picking
  /-- In the window, after step 7 stopped. -/
  | cutoff
  deriving DecidableEq, Repr

/-- Tick generation and distribution. -/
structure Tick where
  frame : Nat            -- F, 48 bits (R14)
  ns : Nat               -- time of the last timed event of the frame, ns into it (TICK_PHASE)
  phase : Phase
  state : TickState
  role : Nat             -- TICK_STATUS.role (R43)
  ptpMode : Bool         -- the tree it follows is followed by PTP (TICK_STATUS.mode)
  onBackup : Bool
  extRef : Bool
  depth : Nat            -- hops from the root of the tree it follows
  otherHop : Nat         -- hops from the root of the other tree (R237)
  slotsHeld : Bool
  offsetNs : Int         -- last measured offset (R37)
  holdoverUs : Nat       -- time in HOLDOVER or ORPHAN (R38)
  missed : Nat           -- consecutive frames without a valid mark on the tree it follows (R34)
  missedBackup : Nat     -- and on the other tree
  toBackup : Bool        -- moves to the backup tree at the coming edge (R34)
  beyond : Nat           -- consecutive frames with the offset beyond the share (R37)
  refMissed : Nat        -- frames without a reference pulse (R35)
  markSeen : Bool        -- a valid mark arrived in this frame on the tree it follows
  backupSeen : Bool      -- and on the other tree
  nextShift : Int        -- pending correction of the coming edge in ns (R40)
  jump : Option Nat      -- frame number to take at the coming edge (R41, R42)
  changeFrame : Nat      -- Fc of the last change point (R37)
  changeSec : Nat        -- Tc seconds
  changeNs : Nat         -- Tc nanoseconds
  ptpSeq : Nat           -- sequence number of the next message sent
  ptpPendSeq : Option Nat -- two-step Sync waiting for its Follow_Up (R36)
  ptpPendRx : Int        -- receive time of that Sync, ns
  ptpT1 : Int            -- origin time of the last Sync
  ptpT2 : Int            -- its receive time
  ptpT3 : Int            -- send time of the last Delay_Req
  ptpDelay : Int         -- end-to-end delay (R36)
  syncSeen : Bool
  deriving DecidableEq, Repr

/-! ### Tiles and cores (R15 to R30, R73 to R110) -/

/-- A line that a tile waits for, to be repaired from the twin (R383). -/
structure Repair where
  line : Nat             -- its local offset
  seq : Option Nat       -- the sequence a GATHER read it for
  frame : Nat            -- frame in which the error was found
  deriving DecidableEq, Repr

/-- A tile in the module's lists. -/
structure Tile where
  uid : Nat
  ctx : Nat
  be : Bool
  label : Nat
  src : TileSrc
  stream : Nat           -- memory object handle that holds the tile
  offset : Nat           -- byte offset of the header in that object
  vd : Nat               -- device it was placed for
  hdr : Header
  ops : List TileOp
  core : Nat
  loaded : Bool          -- body in the op store and checked (R81)
  joined : Bool          -- in the lists of the frame
  held : Bool            -- a GATHER holds it back in the window that takes it (R158)
  overruns : Nat         -- attempts ended by an overrun (R25)
  errEnds : Nat          -- attempts ended by a detected error (R380)
  lastErr : Nat          -- cause of the last error-ended attempt (R377)
  lastErrCore : Nat
  ueLine : Option Nat    -- plate line of an uncorrectable error (R381)
  hold : Nat             -- frames held by a GATHER (R158)
  tagSpans : List (Nat × Nat × Nat) -- XFER index, first line, lines recorded by a split fill (R107)
  waitRepair : Option Repair -- line being repaired from the twin
  candBad : Bool         -- its candidate fields fail, so no core can be chosen (R82)
  noCore : Bool          -- no candidate core is bound to its device in this window (R21)
  deriving DecidableEq, Repr

/-- Arithmetic status flags (R66, R97). -/
structure Flags where
  ovf : Bool
  afault : Bool
  inv : Bool
  sat : Bool
  nanLost : Bool
  deriving DecidableEq, Repr

/-- Class of an accumulator element (R52, R87). -/
inductive AccClass where
  | finite | nan | posInf | negInf
  deriving DecidableEq, Repr

/-- One accumulator element (R51, R52): a 144-bit register as an integer multiple of its lsb, with class and flags. -/
structure AccCell where
  val : Int
  cls : AccClass
  afault : Bool
  inv : Bool
  ksteps : Nat           -- K steps since the element was cleared (R53)
  deriving DecidableEq, Repr

/-- The accumulator store: anchor, scale mode of the MMAs under it, and the non-zero elements by row * 128 + col. -/
structure Acc where
  anchor : Int
  bad : List Nat         -- elements whose residue check is made to fail (R108, R110)
  mode : Option Nat      -- scale mode of the MMAs under this anchor
  cells : SMap AccCell
  deriving DecidableEq, Repr

/-- A residency entry of a plate (R105), least recently used first in the list. -/
structure ResEntry where
  vd : Nat
  tag : Nat
  first : Nat
  lines : Nat
  deriving DecidableEq, Repr

/-- An op that has issued and not ended (R98). -/
structure InFlight where
  idx : Nat
  on : Bool              -- false when predicated off (R96)
  flags : Flags          -- to be ORed into the status at its end (R97)
  moved : Bool           -- its data effect has taken place; false while translations (R183) or staging (R247) are missing
  deriving DecidableEq, Repr

/-- A post staged by REDUCE_POST, visible at END (R94, R247). -/
structure Post where
  port : Nat
  collId : Nat
  chunk : Nat
  fmt : Nat
  anchor : Int
  ctx : Nat
  core : Nat
  lines : Nat
  data : List Byte
  deriving DecidableEq, Repr

/-- What a running tile waits for beside hazards. -/
inductive Stall where
  | none
  /-- A WAIT on a timeline (R100). -/
  | timeline (tl value : Nat)
  deriving DecidableEq, Repr

/-- Bytes that a tile op wrote at a local offset or host address. -/
structure OpWrite where
  op : Nat               -- index of the op in the tile
  addr : Nat
  data : List Byte
  deriving DecidableEq, Repr

/-- A running tile (R16, R95). -/
structure Running where
  tile : Tile
  startAc : Nat
  next : Nat             -- index of the next op to issue
  inflight : List InFlight
  status : Flags
  preds : Nat            -- p0 to p3 in bits 0 to 3
  seed : Nat             -- SRSET values (R69)
  idxBase : Nat
  idxStride : Nat
  signals : List (Nat × Nat)
  posts : List Post
  stall : Stall
  depLost : Bool         -- a WAIT met a lost timeline (R371)
  held : Nat             -- held cycles of the attempt (R22)
  writes : List OpWrite  -- what the attempt wrote to memory, for the contact print (R322)
  deriving DecidableEq, Repr

/-- A core (R73). -/
structure Core where
  plate : SMap (BitVec 512)    -- line to contents (R74)
  tags : List ResEntry
  run : Option Running
  acc : Option Acc             -- none: undefined since the tile started (R84)
  injResidue : Bool
  injPlateCe : Bool
  injPlateUe : Bool
  injAccParity : Bool
  lastCtx : Option Nat         -- CORE_CTX (R110)
  clearing : Bool              -- zeroed during this frame (R287)
  deriving DecidableEq, Repr

/-! ### Object records (R348 to R351) -/

/-- State of an object record. -/
inductive ObjState where
  | free | live | releasing
  deriving DecidableEq, Repr

/-- Context record. -/
structure Ctx where
  state : ObjState
  lost : Bool
  be : Bool
  label : Nat
  cause : Nat
  part : Nat             -- 0 to 63, or 0xFF
  pasid : Nat
  vd : Nat
  fn : Nat
  queues : Nat
  hostCount : Nat
  devCount : Nat
  lostFrame : Nat
  stale : Nat
  tiles : Nat
  lastError : List Byte  -- 16 bytes (R391)
  unrefAt : List (Nat × Nat) -- queue and tail at the UNREF that made it RELEASING (R367)
  deriving DecidableEq, Repr

/-- An abort reply waiting for a completion entry (R363). -/
structure Reply where
  index : Nat
  status : Nat
  detail : Nat
  deriving DecidableEq, Repr

/-- Queue record. -/
structure Queue where
  state : ObjState
  dbSlot : Nat
  ctx : Nat
  cmdVa : Nat
  cplVa : Nat
  log2 : Nat
  vector : Nat
  tail : Nat
  picked : Nat
  written : Nat
  head : Nat
  hostCount : Nat
  devCount : Nat
  cswBase : Nat
  tailSeen : Nat         -- tail when the window opened: what step 7 may reach (R31)
  cmdBad : Bool          -- the command ring's translation failed: the entry at picked cannot be read
  cplBad : Bool          -- the completion ring's translation failed: the next record is not stored
  replies : List Reply
  tags : Tbl (Nat × Nat) -- by ring entry: index and tag of the command last picked up there
  unrefAt : List (Nat × Nat)
  deriving DecidableEq, Repr

/-- Memory object record. -/
structure MemObj where
  state : ObjState
  read : Bool
  write : Bool
  precious : Bool
  ctx : Nat
  va : Nat
  size : Nat
  hostCount : Nat
  devCount : Nat
  gen : Nat
  unrefAt : List (Nat × Nat)
  deriving DecidableEq, Repr

/-- Timeline record. -/
structure Timeline where
  state : ObjState
  lost : Bool
  exhausted : Bool
  ctx : Nat
  value : Nat
  shadowVa : Nat
  hostCount : Nat
  devCount : Nat
  unrefAt : List (Nat × Nat)
  deriving DecidableEq, Repr

/-- A picked-up command whose completion record is not yet written (R360 to R365). -/
structure Cmd where
  queue : Nat
  index : Nat
  kind : Nat
  ctx : Nat
  irq : Bool
  labelOvr : Bool
  sig : Bool
  label : Nat
  tag : Nat
  sigTl : Nat
  sigValue : Nat
  body : List Byte       -- the 64 bytes of the header entry
  payload : List Byte    -- the second entry of SEQ and COLL
  objs : List Nat        -- memory object indices whose device count it holds (R366)
  tls : List Nat         -- timelines whose device count it holds
  ended : Nat            -- tiles that reached END
  flags : Nat            -- arithmetic status of the command (R97)
  result : Nat
  atEdge : Bool          -- takes effect at the edge ending the frame
  deriving DecidableEq, Repr

/-- A completing update whose record waits for step 2 (R362). -/
structure Done where
  queue : Nat
  index : Nat
  status : Nat
  detail : Nat
  deriving DecidableEq, Repr

/-- Host objects and their queues. -/
structure Objects where
  running : Bool         -- HOST_STATUS.running (R348)
  ctxs : Tbl Ctx
  queues : Tbl Queue
  mos : Tbl MemObj
  tls : Tbl Timeline
  gens : SMap Nat        -- generation last used by a memory object index (R349), 0 never
  csw : SMap Word        -- command state words by pool index (R361)
  cmds : List Cmd
  done : List Done
  lastQueue : Nat        -- last queue from which a window picked up (R30)
  release : List (Nat × Nat) -- releases decided in step 5: object type and identifier (R367)
  toLose : List (Nat × Nat) -- context and cause found during the frame (R369)
  lostNow : List Nat     -- contexts marked LOST in this window (R371)
  lost8 : List Nat       -- those of them that step 8 marked (R371)
  reached : List Nat     -- queues that step 7 of this window reached (R360)
  stopPickup : Bool      -- no command is picked up until reset (R384)
  qcHead : SMap Nat      -- last QC_HEAD value by function * 2^16 + slot (R355)
  deriving DecidableEq, Repr

/-! ### Translation (R172 to R191) -/

/-- A translation cache entry (R177). -/
structure XEntry where
  die : Nat
  fn : Nat
  pasid : Nat
  vbase : Nat
  pbase : Nat
  pageLog : Nat          -- 12, 21 or 30
  k : Nat                -- covers 2^k pages
  read : Bool
  write : Bool
  pins : List Nat        -- tiles that pin it (R182)
  used : Nat             -- stamp of the last use (R178)
  deriving DecidableEq, Repr

/-- Who needs a translation. -/
inductive Joiner where
  /-- The prefetch of a tile of a context (R181). -/
  | tile (uid ctx : Nat)
  /-- The load of a tile's body (R81). -/
  | body (uid ctx : Nat)
  /-- The op of a tile for which an engine of a core has stalled (R183). -/
  | core (c uid op : Nat)
  /-- The command ring of a queue (R352). -/
  | ring (queue : Nat)
  /-- The completion ring of a queue (R352). -/
  | cpl (queue : Nat)
  /-- A stream read at pick-up (R357). -/
  | stream (queue : Nat)
  /-- The tile of an entry of a context, at the head of a hart's ring (R119). -/
  | entry (s h ctx : Nat)
  /-- A timeline's shadow write (R368). -/
  | shadow (tl value : Nat)
  /-- A tier-2 page of a sequence (R163). -/
  | seqPage (seq page : Nat)
  /-- The seeding copy of a device (R317). -/
  | seed (vd : Nat)
  deriving DecidableEq, Repr

/-- A received invalidation or a flush (R187, R189). -/
structure Inval where
  fn : Nat
  pasid : Option Nat     -- none: every PASID
  base : Nat
  size : Nat             -- 0: everything
  tag : Nat
  flush : Bool
  deriving DecidableEq, Repr

/-- Who waits for a translation: the joiner, whether it needs write access, and whether it asks again after a PRG Success (R185). -/
structure Need where
  who : Joiner
  write : Bool
  retry : Bool
  deriving DecidableEq, Repr

/-- An outstanding ATS Translation Request (R179). -/
structure AtsReq where
  fn : Nat
  pasid : Nat
  page : Nat             -- virtual address of the 4 KiB page
  write : Bool
  joiners : List Need
  after : List Inval     -- invalidations received since it was sent (R180)
  sent : Bool            -- false: waits for room among the 256
  deriving DecidableEq, Repr

/-- An outstanding or waiting Page Request (R184). -/
structure PageReq where
  fn : Nat
  pasid : Nat
  page : Nat
  write : Bool
  joiners : List Need
  sent : Bool
  prg : Nat              -- names its Page Request Group: each request is its own
  deriving DecidableEq, Repr

/-- Translation caches and requests. -/
structure Xlat where
  entries : List XEntry
  ats : List AtsReq
  pages : List PageReq
  invals : List Inval
  failed : List Nat      -- functions after a Response Failure (R185)
  oneShot : List (Joiner × XEntry) -- translations that could not be installed, for the request that fetched them (R178)
  prgNext : Nat          -- group of the next Page Request
  alloc : Tbl Nat        -- Outstanding Page Request Allocation of each function that software has set (R184)
  pageFails : List (Nat × Nat) -- sequence pages whose translation failed, to be acted on (R163)
  stamp : Nat
  deriving DecidableEq, Repr

/-! ### Device memory (R124 to R149) -/

/-- State of a DDR5 channel (R149). -/
inductive DdrState where
  | absent | training | init | online | offline | retired
  deriving DecidableEq, Repr

/-- A DDR5 channel and its DIMM (R126, R482 to R485). -/
structure DdrCh where
  state : DdrState
  speed : Nat
  gib : Nat              -- data capacity in GiB
  dimm : Nat             -- capacity of the DIMM in GiB, 0 none
  x8 : Bool
  serial : Option Nat    -- serial in the channel's last DIMM record (R484)
  powered : Bool         -- DPWR_EN
  deriving DecidableEq, Repr

/-- What a channel read brought back: the 256 bytes, and the lines of 64 bytes that are lost, by index. -/
structure LineBack where
  data : List Byte
  lost : List Nat
  deriving DecidableEq, Repr

/-- An open enlarger entry (R141). -/
structure EnlEntry where
  line : Nat             -- local offset of the 256-byte line
  joiners : Nat
  opened : Nat           -- t0, in ac at 1,000 MHz
  read : Nat             -- number of its channel read
  back : Option LineBack -- what that read brought, once it has returned
  tab : List Byte        -- what the object tables held of the line when the entry opened
  deriving DecidableEq, Repr

/-- A request that waits for a channel read. -/
structure MemRead where
  offset : Nat
  len : Nat
  part : Nat
  req : Requester
  cls : Nat
  at_ : Nat              -- arrival at the die, in ac at 1,000 MHz (R148)
  assured : Bool         -- its mark (R145, R198)
  deriving DecidableEq, Repr

/-- A channel read of a 256-byte line on its way (R141, R142). -/
structure ChanRead where
  id : Nat
  die : Nat
  line : Nat             -- local offset at the channel
  data : List Byte       -- the line as it was when the read was ordered
  lost : List Nat        -- lines of it, by index, that were uncorrectable then
  wrote : List (Nat × Nat) -- offset and length of the writes of it since
  badTag : Bool          -- its tag failed then
  reqs : List MemRead
  deriving DecidableEq, Repr

/-- The token bucket of a requester and class (R145). -/
structure Bucket where
  assured : Nat          -- tokens earned within the floor
  surplus : Nat          -- tokens earned beyond it
  press : Nat            -- F of R146: the largest fill reported last for the channels that it addressed
  at_ : Nat              -- when it was last filled, in ac at 1,000 MHz
  since : Nat            -- ac it has been filled for since the last report
  req : Nat              -- FLOOR requester of the last request: a transfer engine runs LC (0) and BE (1) tiles
  path : Nat             -- its path: 0 HBM, 1 DDR5
  chans : List Nat       -- channels addressed in the present interval (R146)
  deriving DecidableEq, Repr

/-- A migration of a memory-side die (R294 to R299). -/
structure Mig where
  ddr : Bool             -- tier DDR5
  src : Nat              -- local offset of the source
  dst : Nat              -- local offset of the destination
  size : Nat             -- bytes
  bound : Nat            -- boundary b, bytes from the start of the source
  slice : Nat            -- bytes of a slice
  state : Nat            -- 0 IDLE, 1 PENDING, 2 COPYING, 3 HALTED, 4 DONE
  sliceDone : Bool       -- the slice in progress has finished
  resume : Bool          -- a start while HALTED waits for the edge
  release : Bool         -- a release waits for the edge
  deriving DecidableEq, Repr

/-- A write of a reduction engine that waits for its tokens (R145, R242): at most one granule of 256 bytes. -/
structure CollPut where
  coll : Nat             -- port * 2^32 + coll_id
  inst : Option Nat      -- the instance; none for the record of an aborted one
  ctx : Nat              -- the defining context
  part : Nat
  cls : Nat
  off : Nat
  data : List Byte
  chunk : Option Nat     -- the result chunk that it is a piece of
  ends : Bool            -- last piece of that chunk, or of the status record that completes the instance (R254)
  deriving DecidableEq, Repr

/-- A write that waits for the end of the recalibration slice of its stack (R481). -/
structure HeldWrite where
  part : Nat
  off : Nat
  cls : Nat
  req : Requester
  data : List Byte
  errs : ReadErrs
  at_ : Nat
  done : Nat
  deriving DecidableEq, Repr

/-- Device memory of the module. -/
structure MemSys where
  held : List HeldWrite  -- writes that wait for a slice, oldest first
  now : Nat              -- the latest time that a request or a report gave, in ac at 1,000 MHz
  puts : List CollPut    -- writes of the reduction engines not made yet, oldest first
  bytes : Mem            -- HBM and DDR5 by local offset
  ddr : Tbl DdrCh
  hbmTrained : List Nat  -- stacks trained
  recal : List Nat       -- stacks in their recalibration slice (R481)
  hbmZeroed : List Nat   -- HBM channels zeroed since training (R132)
  bin8 : Bool            -- 8.0 Gbit/s bin (R125)
  clearing : List (Nat × Nat) -- spaces CLEARING: channel (0-511 HBM, 512+ DDR5) and GiB (R131)
  retiredCh : List Nat   -- retired channels, same numbering
  uncorr : List Nat      -- lines that stay uncorrectable until rewritten (R382)
  badTag : List Nat      -- DDR5 granules whose tag keeps failing until they are rewritten (R139, R382)
  enl : List (Nat × EnlEntry) -- die and entry
  reads : List ChanRead  -- channel reads on their way, oldest first
  readNo : Nat           -- number of the next one
  fills : SMap Nat       -- last fill by (channel*8 + class) (R146)
  buckets : Tbl Bucket
  latClear : SMap Nat    -- max_clear by channel*8 + class (R148)
  latFrame : SMap Nat
  badHidden : List Nat   -- register sets whose MEM_MIG_BAD is a confidential carve-out's (R305)
  injHbmCe : List Nat    -- dies with an armed injection (R149)
  injHbmUe : List Nat
  injDdrCe : List Nat
  injDdrUe : List Nat
  injDdrMac : List (Nat × Nat) -- die and tag checks left to fail
  scrubAt : SMap Nat     -- next line of each channel's patrol (R136)
  migs : Tbl Mig         -- by die * 2 + register set
  deriving DecidableEq, Repr

/-! ### Errors, histories and the log (R373 to R396) -/

/-- An error log record (R390). -/
structure LogRec where
  cls : Nat
  rtype : Nat
  cause : Nat
  sub : Nat
  unitType : Nat
  unit : Nat
  module_ : Nat
  frame : Nat
  part : Option Nat
  die : Nat
  ctx : Option Nat
  detail : Nat
  phase : Nat
  deriving DecidableEq, Repr

/-- A history of a unit (R375). -/
structure Hist where
  count : Nat
  opened : Nat           -- frame in which the window opened
  frames : Nat           -- length of the window in frames
  lines : List Nat       -- uncorrectable lines counted in it (R376)
  deriving DecidableEq, Repr

/-- An event waiting for the judgement of step 3 (R378). -/
structure ErrEvent where
  row : Nat              -- threshold index (R377)
  unitType : Nat
  unit : Nat
  repeat_ : Bool         -- the immediate retry met it again
  deriving DecidableEq, Repr

/-- A moraine entry (R388). -/
structure Moraine where
  unitType : Nat
  cause : Nat
  unit : Nat
  frame : Nat
  count : Nat
  saved : Bool           -- its journal record carries a commit mark
  deriving DecidableEq, Repr

/-- A retirement decided in step 3 (R385). -/
structure Retire where
  unitType : Nat
  unit : Nat
  cause : Nat
  frame : Nat
  count : Nat
  bound : Bool           -- a BIND record named the unit (R387)
  promoted : Option Nat  -- the RESERVE core that takes its place (R386)
  deriving DecidableEq, Repr

/-- A damper entry (R394). -/
structure Damp where
  subject : Nat
  unitType : Nat
  unit : Nat
  cls : Nat
  cause : Nat
  opened : Nat
  count : Nat
  lastCount : Nat        -- count in the last record written
  updated : Nat          -- frames it had been open at its last UPDATE
  lowest : Nat
  highest : Nat
  first : Nat            -- first reporter
  deriving DecidableEq, Repr

/-- Fault handling. -/
structure Ras where
  logs : List LogRec     -- records in the die logs, oldest first
  ringTail : Nat
  sysLines : List Nat    -- uncorrectable lines of the system carve-out found and not yet acted on (R384)
  hist : Tbl Hist        -- by threshold index * 2^16 + unit
  events : List ErrEvent
  retire : List Retire   -- retirements decided in step 3, in force at the edge (R385)
  moraine : List Moraine
  remove : List (Nat × Nat) -- units whose moraine entry goes at the edge: type and unit (R389)
  lostDirty : List Nat   -- classes whose lost count changed since their last LOST record (R392)
  damper : List Damp
  dampOvf : List (Nat × Nat × Nat × Nat) -- classes that found the damper full in this period: class, count, first and last frame (R395)
  dampAt : Nat           -- frame of the last OVERFLOW records
  reserve : List Nat     -- RESERVE cores
  reports : List (List Byte) -- FAULT reports waiting to be sent (R393)
  plateUe : List (Nat × Nat × Bool) -- core, line, attempt read it: for R381
  deriving DecidableEq, Repr

/-! ### Composition (R261 to R305) -/

/-- A record of an image: type, key, value; `none` is a DELETE (R263). -/
structure CompOp where
  rtype : Nat
  key : Nat              -- the 8 key bytes as a little-endian number
  value : Option (List Byte)
  deriving DecidableEq, Repr

/-- State of a submission slot (R285). -/
inductive SlotState where
  | free | validating | validated | applied | rejected | storing
  deriving DecidableEq, Repr

/-- What the checks of a slot found, in force at the edge that ends the frame (R270). -/
inductive Verdict where
  /-- Rejected with a code. -/
  | reject (code : Nat)
  /-- A delta for its apply frame. -/
  | pass
  /-- A profile to store. -/
  | store
  /-- A composition where there is none. -/
  | install
  deriving DecidableEq, Repr

/-- A submission slot (R269). -/
structure Slot where
  state : SlotState
  op : Nat
  code : Nat
  profile : Nat
  imageId : Nat
  applyFrame : Nat
  armId : Nat
  armed : Bool           -- the delta is armed
  signalled : Bool       -- its arming event came in time (R300)
  submitFrame : Nat
  image : List Byte
  verdict : Option Verdict -- what the checks found, until the edge
  ops : List CompOp      -- the delta's records, known once checked
  full : Bool            -- replaces the whole composition (R282, R283)
  baseChain : List Byte  -- chain its validation projected (R277)
  chain : List Byte      -- chain after it applies (R275)
  builtOn : List Nat     -- VALIDATED slots its projection includes
  cancel : Bool          -- a CANCEL waits for step 6 (R278)
  cancelFrame : Nat
  settings : Nat
  gen : Nat              -- profile generation of the records that store it (R473)
  deriving DecidableEq, Repr

/-- A stored profile (R280). -/
structure Profile where
  image : List Byte
  settings : Nat
  valid : Bool
  deriving DecidableEq, Repr

/-- The composition in force and what is on its way. -/
structure Compose where
  present : Bool         -- a composition is in force (R284)
  recs : Tbl (List Byte) -- records by rtype * 2^64 + key
  chain : List Byte      -- 48 bytes (R275)
  inforce : Nat          -- COMP_INFORCE
  slots : Tbl Slot
  profiles : Tbl Profile
  booted : Nat           -- profile put in force at the last reset
  chosen : Option Nat    -- profile selected in step 4 of the release order
  noImage : Bool
  pins : Nat             -- PROFILE_SEL[1:0] as sampled
  broken : List Nat      -- VALIDATED slots whose projection can no longer come true, rejected at the edge (R277)
  oldRecs : Option (Tbl (List Byte)) -- composition before step 6, until the edge
  deriving DecidableEq, Repr

/-! ### Steward cores (R111 to R123) -/

/-- Why a hart does not issue. -/
inductive HartBlock where
  | none
  /-- Its read outside TCM is outstanding: pieces by local offset (in `va`), destination register, sign-extended or not,
  and for an atomic operation its kind and operand (R111). -/
  | read (parts : List StwPiece) (rd : Nat) (sx : Bool) (amo : Option (AmoOp × Nat))
  /-- It read edgewait in a frame; the new frame number goes to the register at the edge (R120). -/
  | edge (rd frame : Nat)
  deriving DecidableEq, Repr

/-- A TLB entry: virtual page, level of its leaf, and the leaf's page table entry (R111). -/
structure TlbEntry where
  vpn : Nat
  level : Nat
  pte : Nat
  deriving DecidableEq, Repr

/-- A hart: its program, its architectural registers and its tile list ring. -/
structure Hart where
  ctx : Option Nat       -- context of its program
  running : Bool
  stopped : Bool         -- stopped under R114
  block : HartBlock
  pc : Nat
  x : SMap Nat           -- x1 to x31
  f : SMap Nat           -- f0 to f31
  v : SMap Nat           -- v0 to v31, 512 bits
  csr : SMap Nat         -- CSRs by number: fcsr, vl, vtype, vstart, vcsr, satp, scause, sepc, stval, hgatp and their like
  tlb : List TlbEntry    -- at most 32, oldest first
  resv : Option Nat      -- local offset that a load-reserved of the A extension holds
  head : Nat             -- ring entry taken next, 0 to 255
  due : Nat              -- entries committed for the next frame's lists
  late : Nat             -- entries committed for the frame after (R118)
  kept : List (List Byte) -- the first committed entries, where the reload of the TCM took their bytes from the ring (R382)
  taken : Nat            -- entries taken, modulo 2^32, since LOCKSTEP with the twin began (R321)
  deriving DecidableEq, Repr

/-- A steward core. -/
structure Steward where
  harts : Tbl Hart
  tcm : Mem
  supReady : Bool
  rr : Nat               -- hart that may issue next in barrel order
  injTcm : Bool
  reload : Option Nat    -- frame from which it serves again after a supervisor error (R382)
  supVersion : Nat
  slot : Nat
  deriving DecidableEq, Repr

/-- A committed entry that stands though its steward core has left the device (R120). -/
structure LeftEntry where
  core : Nat
  hart : Nat
  vd : Nat
  bytes : List Byte
  deriving DecidableEq, Repr

/-! ### Sequences (R150 to R171) -/

/-- A sequence record (R152). -/
structure SeqRec where
  lost : Bool            -- STATE_LOST; an absent record is FREE
  lease : Nat            -- 0 HELD, 1 OFFERED, 2 OTHER, 3 ORPHANED
  direct : Bool          -- policy DIRECT
  released : Bool
  ctx : Nat
  part : Nat
  pageCount : Nat
  listBase : Nat
  owner : Nat
  segId : Nat
  commitSeq : Nat
  epoch : Nat
  maxEpoch : Nat
  expiry : Nat
  hold : Nat
  lostCause : Nat
  lostFrame : Nat
  moveTo : Bool          -- OFFER with move
  offer : Option (Nat × Nat) -- an OFFER to send in the frame after the edge: destination and expiry
  deriving DecidableEq, Repr

/-- A copy that the sequence engine makes (R156, R157). -/
structure SeqCopy where
  seq : Nat
  page : Nat
  demote : Bool
  dst : Nat              -- local offset of the pool page
  done : Bool            -- completed, in force at the edge
  early : Bool           -- completed before step 8 of the window began, so that the check of R158 sees it (R157)
  deriving DecidableEq, Repr

/-- A received lease message (R167); `due` says it takes effect at the next edge. -/
structure LeaseMsg where
  kind : Nat             -- 1 OFFER, 2 ACCEPT, 3 RELEASE, 4 EPOCH
  sender : Nat
  seg : Nat
  epoch : Nat
  commitSeq : Nat
  expiry : Nat
  due : Bool
  deriving DecidableEq, Repr

/-- The sequence engines. -/
structure SeqSys where
  recs : Tbl SeqRec
  copies : List SeqCopy
  used : List (Nat × Nat) -- pool pages allocated: pool number k of R171 and local offset
  msgs : List LeaseMsg
  toLose : List (Nat × Nat) -- sequences found lost during the frame, with the cause
  notify : List (Nat × Nat × Nat) -- EPOCH messages to send after RECLAIM: module, segment, epoch
  deriving DecidableEq, Repr

/-- A control message that waits to be routed (R231, R233): `port` is the arrival port, 255 for an own message. -/
structure CtrlMsg where
  src : Nat
  dst : Nat
  kind : Nat
  hops : Nat
  port : Nat
  payload : List Byte
  deriving DecidableEq, Repr

/-! ### Collectives (R241 to R260) -/

/-- A post that an instance has taken (R246). -/
structure CollPost where
  chunk : Nat
  core : Nat
  lines : Nat
  anchor : Int
  data : List Byte
  deriving DecidableEq, Repr

/-- A chunk that arrived: from child `child`, or from the parent (`child` = 255), or from rank `child` (ALL_TO_ALL). -/
structure CollIn where
  chunk : Nat
  child : Nat
  addends : Nat
  flags : Nat
  data : List Byte
  deriving DecidableEq, Repr

/-- A combined or received chunk ready to go on: up to the parent, or a result. -/
structure CollOut where
  chunk : Nat
  addends : Nat
  flags : Nat
  data : List Byte
  deriving DecidableEq, Repr

/-- A send of a chunk on a path: `to` is 255 for the parent, a child index, or a rank (ALL_TO_ALL). -/
structure CollSend where
  dst : Nat
  chunk : Nat
  fixed_ : Bool          -- fixed by an edge, so that slots may carry it (R253)
  flits : Nat            -- flits already sent
  deriving DecidableEq, Repr

/-- The instance in progress of a collective. -/
structure CollInst where
  num : Nat
  began : Nat
  anchor : Option Int
  posts : List CollPost
  ins : List CollIn
  ups : List CollOut     -- sums complete for the parent
  results : List CollOut -- result chunks this member has
  written : List Nat     -- result chunks written to memory
  sends : List CollSend
  sent : List (Nat × Nat) -- path and chunk sent in full
  flags : Nat
  deriving DecidableEq, Repr

/-- A defined collective (R243). -/
structure Coll where
  raw : List Byte        -- the 512-byte definition record
  part : Nat
  ctx : Nat
  next : Nat             -- number of the next instance
  counts : SMap Nat      -- posts made of each chunk since the definition (R246)
  ahead : List Nat       -- instances marked aborted before they began (R259)
  aborted : Nat          -- number of the last aborted instance, whose later posts are discarded
  inst : Option CollInst
  deriving DecidableEq, Repr

/-! ### Twin pairing (R306 to R328) -/

/-- A negative being received. -/
structure Neg where
  frame : Nat
  recs : List NegRec
  trailer : Option NegTrailer
  deriving DecidableEq, Repr

/-- A message of the mirror ring (R316): its data lie in the ring, `len` bytes from place `at_` on. -/
structure MirrorMsg where
  vd : Nat
  frame : Nat
  off : Nat
  at_ : Nat
  len : Nat
  deriving DecidableEq, Repr

/-- A received PRINT (R322). -/
structure TwinPrint where
  frame : Nat
  print : Nat
  flags : Nat
  tiles : Nat
  deriving DecidableEq, Repr

/-- A twinned device on this module. -/
structure TwinVd where
  mode : Nat             -- 1 MIRROR, 2 LOCKSTEP
  state : Nat            -- device twin state (R311)
  shadow : Bool
  bothFlagged : Bool
  digestOk : Bool
  negs : List Neg        -- negatives received and not committed
  committed : Option Neg -- last committed negative
  lastNeg : Nat          -- its frame
  lag : Nat
  mwSent : Nat           -- MWRITE messages sent in the frame
  mwBytes : Nat
  firstNeg : Bool        -- the next negative is the first
  wasBound : Bool        -- it had bound cores when the device entered MIRROR, or it is ACTIVE since the roles are settled
  seeded : Bool          -- the seeding copy has ended
  seedBad : List Nat     -- addresses of precious pages whose translation failed: they lie in no memory of this module
  running : Nat          -- running print
  flags : Nat            -- PRINT flags found in the frame
  tilesEnded : Nat
  own : List TwinPrint   -- own prints not yet compared
  peer : List TwinPrint
  lastPrint : Nat
  lastPeer : Nat
  unequal : Option Nat   -- first frame of a held mismatch
  heldFlags : Nat        -- flags ORed since it, own in bits 0 to 3, twin in bits 4 to 7
  clearAt : Option Nat
  swapAt : Option Nat
  swapOut : Bool         -- this module gives the device away
  sent : List NegRec     -- what the last negative described (R315)
  restore : List NegRec  -- records of a takeover still to be acted on (R318)
  syncOwn : List (Nat × Nat)  -- queue or hart key and count of the last window
  syncPeer : List (Nat × Nat)
  agreed : SMap Nat      -- lower of the two counts, by the same key
  deriving DecidableEq, Repr

/-- The twin of this module (R306 to R309). -/
structure Twin where
  state : Nat            -- TWIN_STATE.state
  vds : Tbl TwinVd
  ring : List MirrorMsg
  ringNext : Nat         -- place in the ring for the next message
  helloOk : Bool         -- a HELLO that meets R306 was received
  helloSent : Bool
  join : Option Nat      -- J of a join under way
  echoed : Bool          -- the echo was sent or received
  toWait : Bool          -- a HELLO received while PAIRED
  failed : Bool          -- a FAILED message was received
  detached : Bool
  heard : Bool           -- a TWIN message arrived since the last window opened
  faulty : Bool          -- the latest verdict names this module faulty
  muteFrom : Option Nat  -- inj_beat_stop: frame in which no TWIN message is sent
  injPrint : Bool
  deriving DecidableEq, Repr


/-! ### Power (R397 to R418) -/

/-- What the power controller keeps beside its registers. Currents are in units of 0.1 A, energies in µJ. -/
structure Pwr where
  clamped : List Nat     -- rails whose hard clamp holds issue stopped (R406)
  mgmtCap : Nat          -- management cap in W (R410)
  swIn : Nat             -- PWR_CAP as it is in force
  peakIn : Nat           -- PWR_PEAK as it is in force
  mgmtIn : Nat           -- management cap as it is in force
  last : SMap Nat        -- the rail's previous estimate (R404)
  next : SMap Nat        -- the rail's estimate of the microsecond under way
  issued : SMap Nat      -- ops that a core has issued in it under a duty below 64 (R407)
  sum : SMap Nat         -- sum of the rail's estimates in the frame (R413)
  peak : SMap Nat        -- highest window value of the rail in the frame
  samples : Nat          -- estimates made in the frame
  lastW : Nat            -- previous estimate of the input power
  peakW : Nat            -- highest window value of the input power in the frame
  bucket : Nat           -- excess bucket (R411)
  minDuty : SMap Nat     -- lowest duty of a die in the frame, 64 when unlisted
  calm : SMap Nat        -- consecutive frames of a die with duty never below 32 (R412)
  gated : List Nat       -- dies on which gating acted in the frame (R401)
  tight : List Nat       -- dies, and 8 for the module, whose estimate passed 90% of its target in the frame (R401)
  hot : SMap Nat         -- consecutive samples of a die at the trip threshold (R416)
  derate : SMap Nat      -- frames by which the die's CORE target is lowered (R416)
  need : Tbl (Nat × Nat) -- the most a rail's work asked for in the frame: what gating does not touch, and the rest (R401)
  wattsNeed : Nat × List (Nat × Nat) -- the same for the module in W, the rest by die
  fog : SMap Nat         -- fog current of a rail in the microsecond under way (R413)
  cool : Bool            -- coolant at or below 40 °C and 8 L/min (R402)
  falling : List Nat     -- dies whose CORE voltage still follows their clock down (R401)
  calib : Tbl (Nat × Nat) -- sum and number of a rail's estimates since the last comparison (R405)
  deriving DecidableEq, Repr


/-! ### Journal, firmware slots and management (R468 to R490) -/

/-- A record in a journal half (R469): its place, its sequence number, and whether it is committed. -/
structure JRec where
  ty : Nat
  payload : List Byte
  seq : Nat
  off : Nat
  pages : Nat                     -- pages that its programs have reached, all of them once it is committed
  ok : Bool
  deriving DecidableEq, Repr

/-- A record waiting to be written. -/
structure JPend where
  ty : Nat
  payload : List Byte
  deriving DecidableEq, Repr

/-- A DDR5 bring-in under way (R483): 0 DIMM power wait, 1 waits for a MORAINE_REMOVE to commit, 2 training,
3 zeroing, 4 waits for its DIMM record. -/
structure DdrJob where
  ch : Nat
  step : Nat
  tries : Nat            -- trainings failed
  serial : Nat
  deriving DecidableEq, Repr

/-- The flash, its journal and its firmware slots. -/
structure Nvj where
  sbs : List (List Byte)          -- the programmed bytes of the two superblock copies; none listed when erased (R474, R475)
  halves : List (List JRec)       -- the records of the two halves in the order they lie
  queue : List JPend              -- records to be written, oldest first
  prog : Option (Nat × Nat)       -- page programs left for the oldest one, and read-backs that failed (R470, R476)
  compact : Nat                   -- step of a compaction, 0 none (R474)
  mark : Nat                      -- records of the active half before s
  copied : Nat                    -- records of the active half copied so far
  suspended : Bool                -- an erase is suspended for a page program
  resuming : Nat                  -- step of the compaction whose erase a reset suspended and bring-up resumes, 0 none (R456)
  slots : SMap Byte               -- firmware slots by flash offset; an unlisted byte is erased
  trials : List Nat               -- parts started from a trial slot that have not reported ready (R478)
  ddr : Option DdrJob
  offline : List Nat              -- channels to take offline at the next edge (R482)
  deriving DecidableEq, Repr

/-- Management endpoints (R479, R486 to R489, R498). -/
structure Mgmt where
  i3cAddr : Nat          -- dynamic I3C address, 0 none
  eid : Nat              -- MCTP endpoint ID, 0 none
  update : Nat           -- firmware update: 0 idle, 1 learning components, 2 ready, 3 downloading, 4 verified, 5 applied
  part : Nat             -- part being updated
  slot : Nat             -- its slot that UpdateComponent erased
  parts : List Nat       -- parts passed and applied in this update
  deriving DecidableEq, Repr



/-! ### Links (R206 to R240) -/

/-- One direction pair of a port, or an Ethernet session (R214, R217, R218, R225). -/
structure Sess where
  state : Nat            -- as LINK_STATE.state
  peerMod : Nat
  peerPort : Nat
  peerSerial : List Byte -- of the peer that the last handshake proved
  peerEpoch : Nat        -- its sending epoch
  epoch : Nat            -- sending epoch in use
  nextEpoch : Nat        -- next unused epoch of the session's reserved block (R220)
  resEnd : Nat           -- end of the committed reserved block
  authWait : Option (List Byte) -- an AUTH with this challenge waits for a reserved epoch
  auth : List Byte       -- own AUTH body
  peerAuth : Option (List Byte) -- the peer's AUTH body
  run : Nat              -- run counter c of the run being sent
  txRun : List (List Byte × List Byte) -- headers and encrypted bodies of that run so far
  rxRun : Nat            -- run counter of the next run received
  tx : Nat               -- next sequence number
  rx : Nat               -- next sequence number expected
  buf : List Flit        -- replay buffer, oldest first
  resend : List Flit     -- flits to be sent again, ahead of new ones
  nakDue : Bool
  ackDue : Bool          -- numbered flits have arrived since the last flit sent
  asm : List Flit        -- flits of the control message being received
  gather : List (Flit × List Byte) -- flits gathered for the next Ethernet frame, with their bytes
  rxq : List (List Byte) -- flits of accepted Ethernet frames not yet in a run
  failed : List (Nat × Nat) -- number and lane of the stripe failures of flits not yet delivered (R377)
  deriving DecidableEq, Repr

/-- A control flit to be sent: its session, and the port its message came by (255 for an own one). -/
structure CtrlOut where
  sess : Nat
  from_ : Nat
  flit : Flit
  deriving DecidableEq, Repr

/-- A PTP message to send (R36): its type and sequence number, the time it carries in ns, and, in a Delay_Resp, what it answers. -/
structure PtpMsg where
  kind : Nat
  seqNo : Nat
  stamp : Int
  corr : Int             -- correction of the Delay_Req answered
  ident : Nat            -- port identity of its sender, 80 bits
  deriving DecidableEq, Repr

/-- A port, 0 to 15, or 16 the twin port. -/
structure Port where
  sess : Tbl Sess        -- session 0 alone in direct mode
  ctrl : List CtrlOut    -- control flits to send, in order
  data : List (Nat × Flit) -- transit DATA flits waiting for the slots of their entry
  ptp : List PtpMsg      -- PTP messages to send
  tickDue : List Nat     -- trees whose mark is due on this port
  recal : Bool           -- in its recalibration slice (R481)
  epochTop : Nat         -- one above the highest epoch sent on any session (R220)
  trains : Nat           -- training attempts that failed in a row
  tagFails : List Nat    -- frames of the latest tag failures (R222)
  injCrc : Bool
  injTag : Bool
  sched : Nat            -- DATA flits sent in scheduled slots of this frame
  unsched : Nat          -- other numbered flits sent in this frame
  topWidth : Nat         -- highest width code that training found both ends to support (R207)
  slot : Nat             -- slot of this module's frame under way (R211)
  deriving DecidableEq, Repr

/-! ### Seams (R192 to R205) -/

/-- A transfer of a core that crosses seams for more than one interval of 64 ns (R199). -/
structure SeamFlow where
  owner : Nat            -- core times 2, plus the transfer engine
  way : List Nat         -- directions it crosses
  rate : Nat             -- bytes it moves in 64 ns
  floor : Option (Nat × Nat) -- bucket and floor of a requester whose memory traffic it is; none for a push or a fill
  left : Nat             -- bytes still to move
  line : Option Nat      -- first local offset of a read, whose data the enlarger may multicast (R141)
  deriving DecidableEq, Repr

/-- Seam lane groups. A group is numbered as its unit identifier (R390). -/
structure Seams where
  gone : List Nat        -- retired groups
  pend : List Nat        -- groups retired in this frame, to be replaced at the edge (R203)
  inj : List Nat         -- directions (seam * 2 + direction) whose next flit fails once
  cut : List Nat         -- seams (m * 5 + k) to be retired at the edge (R204)
  load : SMap Nat        -- assured bytes of the present 64 ns by direction (seam * 2 + direction) (R199)
  seen : List (Nat × Nat) -- directions and requesters whose floor is counted in it
  flows : List SeamFlow  -- transfers under way
  marks : List (Nat × Bool) -- requests that crossed in it, each with its direction and assured mark (R198)
  peak : SMap Nat        -- largest such sum of the frame
  shown : SMap Nat       -- largest of the last completed frame, in percent of the capacity (R205)
  deriving DecidableEq, Repr

/-! ### PCIe (R329 to R347) -/

/-- An IDE stream (R343): stream 0 is the link stream, 1 to 8 are selective. -/
structure Ide where
  sel : Bool
  lo : Nat               -- functions of its RID association range
  hi : Nat
  secure : Bool
  failed : Bool          -- left the Secure state: its TLPs are discarded until keys are programmed again (R344)
  keys : List Nat        -- key sets programmed
  cur : Option Nat       -- key set in use
  deriving DecidableEq, Repr

/-- The PCIe side. -/
structure Pcie where
  ari : Bool             -- ARI Capable Hierarchy
  vfEnable : Bool        -- as written; it has its effect while ari is set (R333)
  numVfs : Nat
  ide : Tbl Ide
  flr : List (Nat × Bool) -- functions under a VF reset, and whether its window has acted (R458)
  hostReset : Option (Nat × Bool) -- source code of a HOST reset under way (R459), and whether its window has acted
  vfBar : Nat            -- size of VF BAR2 in units of 64 GiB (R336)
  msix : Tbl (Bool × Bool) -- MSI-X Enable and Function Mask of each function (R342)
  deriving DecidableEq, Repr

/-! ### Security and life cycle (R419 to R452) -/

/-- A requester's SPDM connection on a transport: 0 I3C, 1 PCIe VDM, 2 DOE. -/
structure Spdm where
  stage : Nat            -- 0 nothing, 1 version known, 2 capabilities known, 3 algorithms negotiated
  algs : Option SpdmAlgs -- the algorithms negotiated
  lastHash : Option (List Byte) -- hash of the last signed response, not yet given an HSS signature (R432)
  deriving DecidableEq, Repr

/-- A secured SPDM session. -/
structure SpdmSess where
  transport : Nat
  up : Bool              -- FINISH was received
  keyGen : Nat           -- times its keys were updated
  lastHash : Option (List Byte)
  deriving DecidableEq, Repr

/-- A burn of fuse words (R446, R425). -/
structure Burn where
  target : Nat           -- state to enter; 255 for a revocation
  words : List Nat       -- fuse words left, the first in progress
  pulse : Option Nat     -- bit whose programming pulse is under way
  tries : Nat            -- pulses given to that bit
  phase : Nat            -- record waited for: 0 INTENT, 1 PROGRESS, 2 DONE; 3 none
  deriving DecidableEq, Repr

/-- Root of trust. -/
structure Sec where
  conns : Tbl Spdm
  sess : Tbl SpdmSess
  hssNext : Nat          -- q (R428)
  hssEnd : Nat           -- end of the reserved block
  hssWait : Bool         -- a reserve record is on its way
  hssFail : Bool         -- the last reserve record failed to commit
  challenge : Option (List Byte)
  token : Mem            -- LCS_TOKEN_BUF
  burn : Option Burn
  revBurn : Option Burn
  debugSlot : Option Nat -- slot of the token behind the debug unlock in force
  meas : List (List Byte) -- the measurement blocks 1 to 10 as of the last edge (R431)
  deriving DecidableEq, Repr

/-! ### Reset and pins (R453 to R467, R495 to R499) -/

/-- Reset, converters and bring-up. -/
structure Rst where
  inputOk : Bool         -- 48 V within range
  pwrEn : Bool
  good : Bool            -- PWR_GOOD
  latched : Bool         -- converters latched off (R466)
  failed : List Nat      -- 48 V converters failed (R398)
  hold : Option (Nat × Nat) -- a hold-off: first source code, and what it waits for (0 nothing, 1 pulse, 2 page program, 3 its start)
  holdOff : Bool         -- the hold-off ends in a stop of the converters (PWR_EN low)
  inReset : Bool         -- internal reset asserted
  stepNo : Nat           -- release-order step in progress, 14 DONE
  swUnit : Option (Nat × Nat) -- UNIT software reset pending: block and index
  swRunning : Bool       -- its effect has begun, completion is waited for
  tries : SMap Nat       -- failed trainings of a stack in this boot
  deriving DecidableEq, Repr

/-- Pins, as driven from outside or by the module. -/
structure Pins where
  rstExt : Bool          -- RST_N held low from outside
  rstOwn : Bool          -- RST_N driven low by the module
  perst : Bool           -- PERST# asserted
  twinPresent : Bool     -- TWIN_PRESENT_N low
  profileSel : Nat
  slotId : Nat
  therm : Bool           -- THERMTRIP_N low
  alert : Bool           -- ALERT_N driven low by the module
  dpwr : List Nat        -- channels whose DPWR_EN is high
  deriving DecidableEq, Repr

/-! ### Register map types -/

/-- A field of a register: BAR0 offset, lowest bit, length. -/
structure Fld where
  off : Nat
  lo : Nat
  len : Nat
  deriving DecidableEq, Repr

/-- A row of the register map: offset in its block, two strides with their counts, the value after reset, the masks of
read-write, write-1-to-clear and lockable bits, and its place in a 64-bit pair (0 none, 1 low word, 2 high word). -/
structure RegDesc where
  off : Nat
  stride1 : Nat
  count1 : Nat
  stride2 : Nat
  count2 : Nat
  reset : Nat
  rw : Nat
  w1c : Nat
  rwl : Nat
  pair : Nat
  deriving DecidableEq, Repr

/-! ### The whole module -/

/-- The module, but for its fuses and the queue of waiting commands. -/
structure Module where
  regs : SMap Word       -- BAR0 words that differ from their reset value, by offset (R8)
  latch : Tbl Word       -- high words latched by a read of the low word, by their offset (R8)
  lowHold : Tbl Word     -- low words written and waiting for the high word, by their offset (R8)
  hostMem : Mem          -- host memory reached over PCIe (surroundings)
  twinMem : Mem          -- the twin's device memory by its local offsets (surroundings)
  free : Nat             -- the model's own count of free values used (not the spec's)
  out : List Out
  unmasked : List (Nat × Nat) -- MSI-X vectors not masked: function, vector (R342)
  msixPend : List (Nat × Nat) -- MSI-X Pending Bit Array, bits set
  uidNext : Nat          -- next tile uid
  tick : Tick
  lists : List Tile      -- tiles in the lists, in list order (R16, R29)
  nextLists : List Tile  -- lists being built for the next frame
  agreeQ : List Tile     -- tiles of LOCKSTEP devices picked up and not yet agreed with the twin (R321)
  retries : List Tile    -- tiles whose attempt ended in this frame, in the order the attempts ended (R25, R379)
  cores : Tbl Core
  stw : Tbl Steward
  stwLeft : List LeftEntry -- in the order of step 8 (R119, R120)
  obj : Objects
  xlat : Xlat
  mem : MemSys
  ras : Ras
  comp : Compose
  seq : SeqSys
  ctrlQ : List CtrlMsg   -- control messages waiting for a path, oldest first
  coll : Tbl Coll        -- by port * 2^32 + coll_id
  twin : Twin
  pwr : Pwr
  nvj : Nvj
  mgmt : Mgmt
  links : Tbl Port       -- ports 0 to 16
  inbox : List CtrlMsg   -- control messages delivered for this module, oldest first
  rxData : List (Nat × Flit) -- DATA flits delivered for this module: port and flit, oldest first
  seams : Seams
  pcie : Pcie
  sec : Sec
  rst : Rst
  pins : Pins
  fuse : SMap Nat        -- fuses as the root of trust last sensed or read them back (R441, R446)
  deriving DecidableEq, Repr

/-- The fuses (one-time programmable), by the model's own numbering: 0 to 6 the life-cycle words (R440), 8 to 11 the
revocation words of owner slots 0 to 3 (R425), 16 to 31 the serial number (R421), 32 the order code, 33 and 34 the owner
and vendor slots that hold keys (R420), 35 the HBM bin, 36 the keys set, 64 + b the RESERVE cores of block b. -/
structure Otp where
  words : SMap Nat
  deriving DecidableEq, Repr

/-- Reasons the model stops with a fault; no command of this block does. -/
inductive Fault where
  /-- Raised by nothing: every event the spec describes is a next state (safe). -/
  | none_
  deriving DecidableEq, Repr

/-- Reasons a command has no meaning. -/
inductive Refusal where
  /-- Raised by the dispatcher for a row without a meaning (safe: it stops). -/
  | notModelled (mnemonic : String)
  deriving DecidableEq, Repr

/-- State of the model: the waiting commands (first in, first out), the fuses and the module. -/
structure State where
  pending : List Instr
  otp : Otp
  m : Module
  deriving DecidableEq, Repr

/-! ### The state after reset -/

/-- The fuses of the modelled part, none of which the chapters give (log entry 8): FIELDED, order code 417, its serial
number, owner slots 0 and 1 and vendor slot 4 with keys, the 8.0 Gbit/s bin, every key set, and two RESERVE cores in each
block. -/
def fuseReset : SMap Nat :=
  [(0, 0xA5), (1, 0xA5), (16, 1), (17, 0xA1), (18, 1), (19, 26), (20, 1), (21, 1), (32, 417), (33, 3), (34, 1), (35, 1), (36, 7)] ++
    (List.range 64).map (fun b => (64 + b, 0xC000))

/-- The RESERVE cores that the fuses name (R4). -/
def reserveOf (fuse : SMap Nat) : List Nat :=
  (List.range 64).flatMap (fun b =>
    match fuse.find? (fun (e : Nat × Nat) => e.1 == 64 + b) with
    | some e => ((List.range 16).filter (fun i => e.2.testBit i)).map (fun i => b * 16 + i)
    | none => [])

def Tick.init : Tick :=
  { frame := 0, ns := 0, phase := .open_, state := .freeRun, role := 0, ptpMode := false, onBackup := false, extRef := false,
    depth := 0, otherHop := 0, slotsHeld := false, offsetNs := 0, holdoverUs := 0, missed := 0, missedBackup := 0, toBackup := false, beyond := 0,
    refMissed := 0, markSeen := false, backupSeen := false, nextShift := 0, jump := none, changeFrame := 0, changeSec := 0, changeNs := 0,
    ptpSeq := 0, ptpPendSeq := none, ptpPendRx := 0, ptpT1 := 0, ptpT2 := 0, ptpT3 := 0, ptpDelay := 0, syncSeen := false }

def Objects.init : Objects :=
  { running := false, ctxs := [], queues := [], mos := [], tls := [], gens := [], csw := [], cmds := [], done := [], lastQueue := 0,
    release := [], toLose := [], lostNow := [], lost8 := [], reached := [], stopPickup := false, qcHead := [] }

def Xlat.init : Xlat :=
  { entries := [], ats := [], pages := [], invals := [], failed := [], oneShot := [], prgNext := 0, alloc := [], pageFails := [], stamp := 0 }

def MemSys.init (bin8 : Bool) : MemSys :=
  { held := [], now := 0, puts := [], bytes := [], ddr := [], hbmTrained := [], recal := [], hbmZeroed := [], bin8 := bin8, clearing := [], retiredCh := [], uncorr := [], badTag := [], enl := [],
    reads := [], readNo := 0, fills := [], buckets := [], latClear := [], latFrame := [], badHidden := [], injHbmCe := [], injHbmUe := [], injDdrCe := [],
    injDdrUe := [], injDdrMac := [], scrubAt := [], migs := [] }

def Ras.init (reserve : List Nat) : Ras :=
  { logs := [], ringTail := 0, sysLines := [], hist := [], events := [], retire := [], moraine := [], remove := [], lostDirty := [],
    damper := [], dampOvf := [], dampAt := 0, reserve := reserve, reports := [], plateUe := [] }

def Compose.init : Compose :=
  { present := false, recs := [], chain := List.replicate 48 0, inforce := 0, slots := [], profiles := [], booted := 0, chosen := none, noImage := false,
    pins := 0, broken := [], oldRecs := none }

def SeqSys.init : SeqSys := { recs := [], copies := [], used := [], msgs := [], toLose := [], notify := [] }

def Twin.init : Twin :=
  { state := 0, vds := [], ring := [], ringNext := 0, helloOk := false, helloSent := false, join := none, echoed := false, toWait := false,
    failed := false, detached := false, heard := false, faulty := false, muteFrom := none, injPrint := false }

/-- The excess bucket is full at reset: 1.5 J (R411). -/
def Pwr.init : Pwr :=
  { clamped := [], mgmtCap := 5000, swIn := 5000, peakIn := 6500, mgmtIn := 5000, last := [], next := [], issued := [], sum := [], peak := [], samples := 0,
    lastW := 0, peakW := 0, bucket := 1500000, minDuty := [], calm := [], gated := [], tight := [], hot := [], derate := [], need := [],
    wattsNeed := (0, []), fog := [], cool := false, falling := [], calib := [] }

/-- Flash offsets of slot A of the four firmware parts (R468). -/
def slotABases : List Nat := [0x0010_0000, 0x0090_0000, 0x00D0_0000, 0x0150_0000]

/-- Header and start of the signature block of the firmware in slot A of a part: version 1, no code, vendor slot 4. -/
def slotAImage (part : Nat) : List Byte :=
  [0x59, 0x46, 0x57, 0x49, 1, BitVec.ofNat 8 part, 1, 0] ++ List.replicate 56 0 ++
  [0x59, 0x53, 0x49, 0x47, 4] ++ List.replicate 99 0 ++ [0x54, 0x16, 0, 0]

/-- A superblock of generation 1 that names half 0, with its CRC (R474; log entry 87 for the CRC's parameters). -/
def superFirst : List Byte :=
  [0x59, 0x4E, 0x56, 0x4A, 1, 0, 0, 0, 1, 0, 0, 0, 0, 0, 0, 0] ++ List.replicate 44 0 ++ [0x5B, 0xCC, 0x10, 0xC2]

/-- The flash of the modelled part: a formatted journal, and one version of every firmware part in slot A. The chapters give
no contents of the flash (log entry 9). -/
def Nvj.init : Nvj :=
  { sbs := [superFirst, superFirst], halves := [[], []], queue := [], prog := none, compact := 0, mark := 0, copied := 0,
    suspended := false, resuming := 0, trials := [], ddr := none, offline := [],
    slots := slotABases.zipIdx.flatMap (fun e => (slotAImage e.2).zipIdx.map (fun b => (e.1 + b.2, b.1))) }

def Mgmt.init : Mgmt := { i3cAddr := 0, eid := 0, update := 0, part := 0, slot := 0, parts := [] }

def Pcie.init : Pcie := { ari := false, vfEnable := false, numVfs := 0, ide := [], flr := [], hostReset := none, vfBar := 64, msix := [] }

def Sec.init : Sec :=
  { conns := [], sess := [], hssNext := 0, hssEnd := 0, hssWait := false, hssFail := false, challenge := none, token := [],
    burn := none, revBurn := none, debugSlot := none, meas := [] }

/-- Right after the internal reset: powered, step 1 of the release order in progress (R460). -/
def Rst.init : Rst :=
  { inputOk := true, pwrEn := true, good := true, latched := false, failed := [], hold := none, holdOff := false, inReset := false,
    stepNo := 1, swUnit := none, swRunning := false, tries := [] }

def Pins.init : Pins :=
  { rstExt := false, rstOwn := false, perst := false, twinPresent := false, profileSel := 0, slotId := 0, therm := false, alert := false, dpwr := [] }

/-- The module after a POWER_ON reset with the given fuses. -/
def Module.init (fuse : SMap Nat) : Module :=
  { regs := [], latch := [], lowHold := [], hostMem := [], twinMem := [], free := 0, out := [], unmasked := [], msixPend := [],
    uidNext := 0, tick := Tick.init, lists := [], nextLists := [], agreeQ := [], retries := [], cores := [], stw := [], stwLeft := [],
    obj := Objects.init, xlat := Xlat.init, mem := MemSys.init (fuse.any (fun (e : Nat × Nat) => e.1 == 35)), ras := Ras.init (reserveOf fuse),
    comp := Compose.init, seq := SeqSys.init, ctrlQ := [], coll := [], twin := Twin.init, pwr := Pwr.init, nvj := Nvj.init,
    mgmt := Mgmt.init, links := [], inbox := [], rxData := [], seams := { gone := [], pend := [], inj := [], cut := [], load := [], seen := [], flows := [], marks := [], peak := [], shown := [] },
    pcie := Pcie.init, sec := Sec.init, rst := Rst.init, pins := Pins.init, fuse := fuse }

/-- The state right after reset: no command waits, and LCS_STATE shows the state that the fuses hold (R452). -/
def State.reset : State :=
  { pending := [], otp := { words := fuseReset }, m := { Module.init fuseReset with regs := [(0x000D_0000, 2)] } }

end Sys2Proof.Machine
end

