-- ==== Sys2Proof/Machine/Crypto.lean ====
section
/-!
DEFINITION. The ciphers that the module computes: AES-256 (FIPS 197), XTS (IEEE 1619) for DDR5 granules (R137), CMAC
(NIST SP 800-38B) for their tags (R138), GCM (NIST SP 800-38D) for link runs and proofs (R217, R218), and HKDF-SHA-384
for every key derived from a fused secret (R216, R422).
-/
namespace Sys2Proof.Machine

/-- Bytewise exclusive or of two byte strings of one length. -/
def xorBytes (a b : List Byte) : List Byte := List.zipWith (fun x y => x ^^^ y) a b

/-! ### AES-256 -/

/-- Multiplication by x in the field of AES. -/
def aesDouble (a : Nat) : Nat := if a < 128 then 2 * a else (2 * a) ^^^ 0x11B

/-- Product in the field of AES: the bits of `b`, `n` of them. -/
def aesMul : Nat → Nat → Nat → Nat
  | 0, _, _ => 0
  | n + 1, a, b => (if b % 2 = 1 then a else 0) ^^^ aesMul n (aesDouble a) (b / 2)

def aesTimes (a b : Nat) : Nat := aesMul 8 a b

/-- The inverse in the field of AES, a^254, and 0 for 0. -/
def aesInv (a : Nat) : Nat :=
  let a2 := aesTimes a a
  let a3 := aesTimes a2 a
  let a6 := aesTimes a3 a3
  let a12 := aesTimes a6 a6
  let a15 := aesTimes a12 a3
  let a30 := aesTimes a15 a15
  let a60 := aesTimes a30 a30
  let a120 := aesTimes a60 a60
  let a126 := aesTimes a120 a6
  let a127 := aesTimes a126 a
  aesTimes a127 a127

/-- Rotate a byte left. -/
def rotl8 (n a : Nat) : Nat := (a * 2 ^ n) % 256 + a / 2 ^ (8 - n)

/-- The substitution box of AES. -/
def aesSbox : List Nat := (List.range 256).map (fun a =>
  let b := aesInv a
  b ^^^ rotl8 1 b ^^^ rotl8 2 b ^^^ rotl8 3 b ^^^ rotl8 4 b ^^^ 0x63)

/-- The inverse box. -/
def aesUnbox : List Nat := (List.range 256).map (fun a => aesSbox.findIdx (· == a))

def subByte (b : Byte) : Byte := BitVec.ofNat 8 (aesSbox.getD b.toNat 0)
def unsubByte (b : Byte) : Byte := BitVec.ofNat 8 (aesUnbox.getD b.toNat 0)

/-- The words of the key schedule, newest first, from the eight words of the key; `i` is the index of the next. -/
def aesExpand : Nat → Nat → Nat → List (List Byte) → List (List Byte)
  | 0, _, _, ws => ws
  | n + 1, i, rcon, ws =>
    let last := ws.headD []
    let old := ws.getD 7 []
    if i % 8 = 0 then
      let t := ((last.drop 1) ++ last.take 1).map subByte
      let t := xorBytes t [BitVec.ofNat 8 rcon, 0, 0, 0]
      aesExpand n (i + 1) (aesDouble rcon) (xorBytes t old :: ws)
    else if i % 8 = 4 then aesExpand n (i + 1) rcon (xorBytes (last.map subByte) old :: ws)
    else aesExpand n (i + 1) rcon (xorBytes last old :: ws)

/-- The 15 round keys of a 32-byte key, 16 bytes each. -/
def aesKeys (key : List Byte) : List (List Byte) :=
  let k8 := (List.range 8).map (fun i => (key.drop (4 * i)).take 4)
  let ws := (aesExpand 52 8 1 k8.reverse).reverse
  (List.range 15).map (fun r => ((ws.drop (4 * r)).take 4).flatten)

/-- A state is 16 bytes, column after column. ShiftRows takes row r of column c from column c + r. -/
def shiftRows (s : List Byte) : List Byte := (List.range 16).map (fun i => s.getD ((i + 4 * (i % 4)) % 16) 0)
def unshiftRows (s : List Byte) : List Byte := (List.range 16).map (fun i => s.getD ((i + 12 * (i % 4)) % 16) 0)

/-- One column times the matrix whose first row is `m`. -/
def mixCol (m : List Nat) (c : List Byte) : List Byte :=
  (List.range 4).map (fun r =>
    BitVec.ofNat 8 ((List.range 4).foldl (fun a j => a ^^^ aesTimes (c.getD j 0).toNat (m.getD ((j + 4 - r) % 4) 0)) 0))

def mixCols (m : List Nat) (s : List Byte) : List Byte := (List.range 4).flatMap (fun c => mixCol m ((s.drop (4 * c)).take 4))

/-- Encrypt one block. -/
def aesEnc (key blk : List Byte) : List Byte :=
  let ks := aesKeys key
  let s := (List.range 13).foldl (fun s r => xorBytes (mixCols [2, 3, 1, 1] (shiftRows (s.map subByte))) (ks.getD (r + 1) []))
    (xorBytes blk (ks.headD []))
  xorBytes (shiftRows (s.map subByte)) (ks.getD 14 [])

/-- Decrypt one block. -/
def aesDec (key blk : List Byte) : List Byte :=
  let ks := aesKeys key
  let s := (List.range 13).foldl (fun s r => mixCols [14, 11, 13, 9] (xorBytes ((unshiftRows s).map unsubByte) (ks.getD (13 - r) [])))
    (xorBytes blk (ks.getD 14 []))
  xorBytes ((unshiftRows s).map unsubByte) (ks.headD [])

/-- Byte strings in blocks of 16, the last one shorter where the length is no multiple. -/
def blocks16 (bs : List Byte) : List (List Byte) := (List.range (ceilDiv bs.length 16)).map (fun i => (bs.drop (16 * i)).take 16)

/-! ### XTS -/

/-- The tweak of the next block: times x, with the bytes little-endian. -/
def xtsNext (t : Nat) : Nat := if t < 2 ^ 127 then 2 * t else ((2 * t) % 2 ^ 128) ^^^ 0x87

/-- Blocks of a data unit under their tweaks, each through `f`. -/
def xtsBlocks (f : List Byte → List Byte) : Nat → List (List Byte) → List Byte
  | _, [] => []
  | t, b :: bs => let tw := leBytes 16 t; xorBytes (f (xorBytes b tw)) tw ++ xtsBlocks f (xtsNext t) bs

/-- XTS-AES-256 encryption of a data unit of whole blocks: data key, tweak key, tweak value (R137). -/
def xtsEnc (k1 k2 : List Byte) (tweak : Nat) (bs : List Byte) : List Byte :=
  xtsBlocks (aesEnc k1) (leNat (aesEnc k2 (leBytes 16 tweak))) (blocks16 bs)

/-- And decryption. -/
def xtsDec (k1 k2 : List Byte) (tweak : Nat) (bs : List Byte) : List Byte :=
  xtsBlocks (aesDec k1) (leNat (aesEnc k2 (leBytes 16 tweak))) (blocks16 bs)

/-! ### CMAC -/

/-- Doubling of a subkey, bytes big-endian. -/
def cmacDouble (x : Nat) : Nat := if x < 2 ^ 127 then 2 * x else ((2 * x) % 2 ^ 128) ^^^ 0x87

/-- AES-256-CMAC of a message: 16 bytes. -/
def cmac (key msg : List Byte) : List Byte :=
  let k1 := cmacDouble (beNat (aesEnc key (zeros 16)))
  let n := max 1 (ceilDiv msg.length 16)
  let last := msg.drop (16 * (n - 1))
  let m := if last.length = 16 then xorBytes last (beBytes 16 k1)
    else xorBytes (last ++ [0x80] ++ zeros (15 - last.length)) (beBytes 16 (cmacDouble k1))
  let c := (blocks16 (msg.take (16 * (n - 1)))).foldl (fun x b => aesEnc key (xorBytes x b)) (zeros 16)
  aesEnc key (xorBytes c m)

/-! ### GCM -/

/-- Product in the field of GCM: `n` bits of `x` left, highest first. -/
def ghashMul : Nat → Nat → Nat → Nat
  | 0, _, _ => 0
  | n + 1, x, v =>
    (if x.testBit n then v else 0) ^^^ ghashMul n x (if v % 2 = 1 then (v / 2) ^^^ (0xE1 * 2 ^ 120) else v / 2)

/-- A byte string filled with zeros to whole blocks. -/
def padBlocks (bs : List Byte) : List Byte := bs ++ zeros (16 * ceilDiv bs.length 16 - bs.length)

/-- GHASH of additional data and ciphertext under the hash key `h`. -/
def ghash (h : Nat) (aad ct : List Byte) : Nat :=
  let all := padBlocks aad ++ padBlocks ct ++ beBytes 8 (8 * aad.length) ++ beBytes 8 (8 * ct.length)
  (blocks16 all).foldl (fun y b => ghashMul 128 (y ^^^ beNat b) h) 0

/-- Counter mode from block `j` of a 12-byte nonce on. -/
def gcmCtr (key nonce : List Byte) (j : Nat) (bs : List Byte) : List Byte :=
  (blocks16 bs).zipIdx.flatMap (fun e => xorBytes e.1 (aesEnc key (nonce ++ beBytes 4 (j + e.2))))

/-- The tag over additional data and ciphertext: 16 bytes. -/
def gcmTag (key nonce aad ct : List Byte) : List Byte :=
  xorBytes (beBytes 16 (ghash (beNat (aesEnc key (zeros 16))) aad ct)) (aesEnc key (nonce ++ beBytes 4 1))

/-- AES-256-GCM sealing: ciphertext and tag. -/
def gcmSeal (key nonce aad pt : List Byte) : List Byte × List Byte :=
  let ct := gcmCtr key nonce 2 pt
  (ct, gcmTag key nonce aad ct)

/-- Opening: the plaintext when the tag matches. -/
def gcmOpen (key nonce aad ct tag : List Byte) : Option (List Byte) :=
  if gcmTag key nonce aad ct = tag then some (gcmCtr key nonce 2 ct) else none

/-! ### HKDF -/

/-- HMAC-SHA-384; no key of the module is longer than a block. -/
def hmac384 (key msg : List Byte) : List Byte :=
  let k := key ++ zeros (128 - key.length)
  sha384 (k.map (· ^^^ 0x5C) ++ sha384 (k.map (· ^^^ 0x36) ++ msg))

/-- HKDF-SHA-384 with an empty salt: `len` bytes, at most 96. -/
def hkdf384 (ikm info : List Byte) (len : Nat) : List Byte :=
  let prk := hmac384 (zeros 48) ikm
  let t1 := hmac384 prk (info ++ [1])
  let t2 := hmac384 prk (t1 ++ info ++ [2])
  (t1 ++ t2).take len

/-! ### The secrets and the keys derived from them -/

/-- A string of ASCII characters as bytes. -/
def ascii (s : String) : List Byte := s.toList.map (fun c => BitVec.ofNat 8 c.toNat)

/-- The fleet link key and the memory encryption key: 32 secret bytes each (R420), which no chapter gives. -/
def fleetKey : List Byte := leBytes 32 (Config.secret 0)
def memoryKey : List Byte := leBytes 32 (Config.secret 1)

/-- The key for traffic from port `a` of serial `sa` to port `b` of serial `sb` (R216). -/
def linkKey (sa sb : List Byte) (a b : Nat) : List Byte :=
  hkdf384 fleetKey (ascii "MEHRUSK-LINK" ++ sa ++ sb ++ leBytes 1 a ++ leBytes 1 b) 32

/-- The keys of the DDR5 protection (R422): data key and tweak key of XTS, and the key of the tags. -/
def xtsKeys : List Byte := hkdf384 memoryKey (ascii "TGM-DDR-XTS") 64
def tagKey : List Byte := hkdf384 memoryKey (ascii "TGM-DDR-CMAC") 32

/-- A granule of 256 bytes at a local offset, as it stands on the DIMM (R137). -/
def granuleEnc (off : Nat) (data : List Byte) : List Byte := xtsEnc (xtsKeys.take 32) (xtsKeys.drop 32) (off / 256) data

/-- And back. -/
def granuleDec (off : Nat) (ct : List Byte) : List Byte := xtsDec (xtsKeys.take 32) (xtsKeys.drop 32) (off / 256) ct

/-- The tag of a granule: the first 64 bits of the CMAC over its local offset and its ciphertext (R138). -/
def granuleTag (off : Nat) (ct : List Byte) : List Byte := (cmac tagKey (leBytes 8 off ++ ct)).take 8

end Sys2Proof.Machine
end

