-- ==== Sys2Proof/Machine/Regs.lean ====
section
/-!
DEFINITION. The BAR0 register map, written from the register tables of the chapters (R43, R110, R123, R149,
R171, R191, R205, R240, R260, R285, R305, R328, R346, R347, R372, R396, R418, R438, R452, R467, R490, R502):
the offset of every register, its fields, and for each block the list of descriptors that says which bits are
read-write, write-1-to-clear or lockable, and the value after reset.
-/
namespace Sys2Proof.Machine

/-! ### TICK block (R43) -/

def TICK_CTRL : Nat := 0x0001_0000
def TICK_CTRL_relock : Fld := ⟨TICK_CTRL, 0, 1⟩
def TICK_CTRL_orphan_irq_en : Fld := ⟨TICK_CTRL, 1, 1⟩
def TICK_CTRL_holdover_irq_en : Fld := ⟨TICK_CTRL, 2, 1⟩
def TICK_CTRL_overrun_irq_en : Fld := ⟨TICK_CTRL, 3, 1⟩
def TICK_CTRL_budget_irq_en : Fld := ⟨TICK_CTRL, 4, 1⟩
def TICK_STATUS : Nat := 0x0001_0000 + 0x4
def TICK_STATUS_state : Fld := ⟨TICK_STATUS, 0, 3⟩
def TICK_STATUS_role : Fld := ⟨TICK_STATUS, 3, 2⟩
def TICK_STATUS_mode : Fld := ⟨TICK_STATUS, 5, 1⟩
def TICK_STATUS_on_backup : Fld := ⟨TICK_STATUS, 6, 1⟩
def TICK_STATUS_ext_ref : Fld := ⟨TICK_STATUS, 7, 1⟩
def TICK_STATUS_depth : Fld := ⟨TICK_STATUS, 8, 4⟩
def TICK_STATUS_slots_held : Fld := ⟨TICK_STATUS, 12, 1⟩
def TICK_PERIOD : Nat := 0x0001_0000 + 0x8
def TICK_PERIOD_period_ns : Fld := ⟨TICK_PERIOD, 0, 18⟩
def TICK_SHUTTER : Nat := 0x0001_0000 + 0xC
def TICK_SHUTTER_window_ac : Fld := ⟨TICK_SHUTTER, 0, 13⟩
def TICK_SHUTTER_long_ac : Fld := ⟨TICK_SHUTTER, 16, 13⟩
def TICK_FRAME_LO : Nat := 0x0001_0000 + 0x10
def TICK_FRAME_LO_frame_lo : Fld := ⟨TICK_FRAME_LO, 0, 32⟩
def TICK_FRAME_HI : Nat := 0x0001_0000 + 0x14
def TICK_FRAME_HI_frame_hi : Fld := ⟨TICK_FRAME_HI, 0, 16⟩
def TICK_PHASE : Nat := 0x0001_0000 + 0x18
def TICK_PHASE_phase_ns : Fld := ⟨TICK_PHASE, 0, 18⟩
def TICK_OFFSET : Nat := 0x0001_0000 + 0x1C
def TICK_OFFSET_offset_ns : Fld := ⟨TICK_OFFSET, 0, 16⟩
def TICK_HOLDOVER : Nat := 0x0001_0000 + 0x20
def TICK_HOLDOVER_holdover_us : Fld := ⟨TICK_HOLDOVER, 0, 20⟩
def TICK_EVENT : Nat := 0x0001_0000 + 0x24
def TICK_EVENT_orphan : Fld := ⟨TICK_EVENT, 0, 1⟩
def TICK_EVENT_holdover_entered : Fld := ⟨TICK_EVENT, 1, 1⟩
def TICK_EVENT_relocked : Fld := ⟨TICK_EVENT, 2, 1⟩
def TICK_EVENT_tree_switch : Fld := ⟨TICK_EVENT, 3, 1⟩
def TICK_EVENT_overrun : Fld := ⟨TICK_EVENT, 4, 1⟩
def TICK_EVENT_budget_lost : Fld := ⟨TICK_EVENT, 5, 1⟩
def TICK_EVENT_relock_refused : Fld := ⟨TICK_EVENT, 6, 1⟩
def TICK_EVENT_skew_exceeded : Fld := ⟨TICK_EVENT, 7, 1⟩
def TICK_OVERRUN_CNT : Nat := 0x0001_0000 + 0x28
def TICK_OVERRUN_CNT_overruns : Fld := ⟨TICK_OVERRUN_CNT, 0, 32⟩
def TICK_BUDGET_CNT : Nat := 0x0001_0000 + 0x2C
def TICK_BUDGET_CNT_budget_losses : Fld := ⟨TICK_BUDGET_CNT, 0, 32⟩

/-! ### CORE block (R110) -/

def CORE_STATE (c : Nat) : Nat := 0x0080_0000 + c * 0x1000
def CORE_STATE_state (c : Nat) : Fld := ⟨CORE_STATE c, 0, 3⟩
def CORE_STATE_busy (c : Nat) : Fld := ⟨CORE_STATE c, 3, 1⟩
def CORE_STATE_class (c : Nat) : Fld := ⟨CORE_STATE c, 4, 1⟩
def CORE_BIND (c : Nat) : Nat := 0x0080_0000 + c * 0x1000 + 0x4
def CORE_BIND_vd_id (c : Nat) : Fld := ⟨CORE_BIND c, 0, 16⟩
def CORE_BIND_partition (c : Nat) : Fld := ⟨CORE_BIND c, 16, 6⟩
def CORE_BIND_confidential (c : Nat) : Fld := ⟨CORE_BIND c, 22, 1⟩
def CORE_CTX (c : Nat) : Nat := 0x0080_0000 + c * 0x1000 + 0x8
def CORE_CTX_ctx (c : Nat) : Fld := ⟨CORE_CTX c, 0, 20⟩
def CORE_CTX_valid (c : Nat) : Fld := ⟨CORE_CTX c, 31, 1⟩
def CORE_CTRL (c : Nat) : Nat := 0x0080_0000 + c * 0x1000 + 0xC
def CORE_CTRL_inj_residue (c : Nat) : Fld := ⟨CORE_CTRL c, 0, 1⟩
def CORE_CTRL_inj_plate_ce (c : Nat) : Fld := ⟨CORE_CTRL c, 1, 1⟩
def CORE_CTRL_inj_plate_ue (c : Nat) : Fld := ⟨CORE_CTRL c, 2, 1⟩
def CORE_CTRL_inj_acc_parity (c : Nat) : Fld := ⟨CORE_CTRL c, 3, 1⟩
def CORE_CTRL_tag_flush (c : Nat) : Fld := ⟨CORE_CTRL c, 4, 1⟩
def CORE_OVERRUN (c : Nat) : Nat := 0x0080_0000 + c * 0x1000 + 0x10
def CORE_OVERRUN_budget_overruns (c : Nat) : Fld := ⟨CORE_OVERRUN c, 0, 16⟩
def CORE_OVERRUN_window_overruns (c : Nat) : Fld := ⟨CORE_OVERRUN c, 16, 16⟩
def CORE_HELD_XLAT (c : Nat) : Nat := 0x0080_0000 + c * 0x1000 + 0x14
def CORE_HELD_XLAT_held (c : Nat) : Fld := ⟨CORE_HELD_XLAT c, 0, 32⟩
def CORE_HELD_PWR (c : Nat) : Nat := 0x0080_0000 + c * 0x1000 + 0x18
def CORE_HELD_PWR_held (c : Nat) : Fld := ⟨CORE_HELD_PWR c, 0, 32⟩
def CORE_TILES (c : Nat) : Nat := 0x0080_0000 + c * 0x1000 + 0x1C
def CORE_TILES_tiles (c : Nat) : Fld := ⟨CORE_TILES c, 0, 32⟩
def CORE_RESIDUE (c : Nat) : Nat := 0x0080_0000 + c * 0x1000 + 0x20
def CORE_RESIDUE_mx_residue (c : Nat) : Fld := ⟨CORE_RESIDUE c, 0, 16⟩
def CORE_RESIDUE_vx_residue (c : Nat) : Fld := ⟨CORE_RESIDUE c, 16, 16⟩
def CORE_PLATE_ECC (c : Nat) : Nat := 0x0080_0000 + c * 0x1000 + 0x24
def CORE_PLATE_ECC_corrected (c : Nat) : Fld := ⟨CORE_PLATE_ECC c, 0, 24⟩
def CORE_PLATE_ECC_uncorrected (c : Nat) : Fld := ⟨CORE_PLATE_ECC c, 24, 8⟩
def CORE_ACC_ERR (c : Nat) : Nat := 0x0080_0000 + c * 0x1000 + 0x28
def CORE_ACC_ERR_parity (c : Nat) : Fld := ⟨CORE_ACC_ERR c, 0, 16⟩
def CORE_ACC_ERR_residue (c : Nat) : Fld := ⟨CORE_ACC_ERR c, 16, 16⟩
def CORE_OPSTORE (c : Nat) : Nat := 0x0080_0000 + c * 0x1000 + 0x2C
def CORE_OPSTORE_bytes_used (c : Nat) : Fld := ⟨CORE_OPSTORE c, 0, 18⟩
def CORE_TAGS (c : Nat) : Nat := 0x0080_0000 + c * 0x1000 + 0x30
def CORE_TAGS_entries (c : Nat) : Fld := ⟨CORE_TAGS c, 0, 7⟩
def CORE_XRATE_MEM (c : Nat) : Nat := 0x0080_0000 + c * 0x1000 + 0x34
def CORE_XRATE_MEM_hbm_lc (c : Nat) : Fld := ⟨CORE_XRATE_MEM c, 0, 8⟩
def CORE_XRATE_MEM_hbm_be (c : Nat) : Fld := ⟨CORE_XRATE_MEM c, 8, 8⟩
def CORE_XRATE_MEM_ddr_lc (c : Nat) : Fld := ⟨CORE_XRATE_MEM c, 16, 8⟩
def CORE_XRATE_MEM_ddr_be (c : Nat) : Fld := ⟨CORE_XRATE_MEM c, 24, 8⟩
def CORE_XRATE_HOST (c : Nat) : Nat := 0x0080_0000 + c * 0x1000 + 0x38
def CORE_XRATE_HOST_host_lc (c : Nat) : Fld := ⟨CORE_XRATE_HOST c, 0, 8⟩
def CORE_XRATE_HOST_host_be (c : Nat) : Fld := ⟨CORE_XRATE_HOST c, 8, 8⟩
def CORE_FAULT (c : Nat) : Nat := 0x0080_0000 + c * 0x1000 + 0x3C
def CORE_FAULT_reason (c : Nat) : Fld := ⟨CORE_FAULT c, 0, 8⟩
def CORE_FAULT_op_index (c : Nat) : Fld := ⟨CORE_FAULT c, 8, 10⟩
def CORE_FAULT_CTX (c : Nat) : Nat := 0x0080_0000 + c * 0x1000 + 0x40
def CORE_FAULT_CTX_ctx (c : Nat) : Fld := ⟨CORE_FAULT_CTX c, 0, 20⟩

/-! ### STW block (R123) -/

def STW_STATE (s : Nat) : Nat := 0x00C0_0000 + s * 0x1000
def STW_STATE_state (s : Nat) : Fld := ⟨STW_STATE s, 0, 3⟩
def STW_STATE_sup_ready (s : Nat) : Fld := ⟨STW_STATE s, 3, 1⟩
def STW_BIND (s : Nat) : Nat := 0x00C0_0000 + s * 0x1000 + 0x4
def STW_BIND_vd_id (s : Nat) : Fld := ⟨STW_BIND s, 0, 16⟩
def STW_BIND_partition (s : Nat) : Fld := ⟨STW_BIND s, 16, 6⟩
def STW_BIND_confidential (s : Nat) : Fld := ⟨STW_BIND s, 22, 1⟩
def STW_HARTS (s : Nat) : Nat := 0x00C0_0000 + s * 0x1000 + 0x8
def STW_HARTS_running (s : Nat) : Fld := ⟨STW_HARTS s, 0, 16⟩
def STW_HARTS_stopped (s : Nat) : Fld := ⟨STW_HARTS s, 16, 16⟩
def STW_CTRL (s : Nat) : Nat := 0x00C0_0000 + s * 0x1000 + 0xC
def STW_CTRL_inj_tcm (s : Nat) : Fld := ⟨STW_CTRL s, 0, 1⟩
def STW_LIST_LATE (s : Nat) : Nat := 0x00C0_0000 + s * 0x1000 + 0x10
def STW_LIST_LATE_count (s : Nat) : Fld := ⟨STW_LIST_LATE s, 0, 32⟩
def STW_LIST_DROP (s : Nat) : Nat := 0x00C0_0000 + s * 0x1000 + 0x14
def STW_LIST_DROP_count (s : Nat) : Fld := ⟨STW_LIST_DROP s, 0, 32⟩
def STW_TCM_ECC (s : Nat) : Nat := 0x00C0_0000 + s * 0x1000 + 0x18
def STW_TCM_ECC_corrected (s : Nat) : Fld := ⟨STW_TCM_ECC s, 0, 24⟩
def STW_TCM_ECC_uncorrected (s : Nat) : Fld := ⟨STW_TCM_ECC s, 24, 8⟩
def STW_FAULT (s : Nat) : Nat := 0x00C0_0000 + s * 0x1000 + 0x1C
def STW_FAULT_hart (s : Nat) : Fld := ⟨STW_FAULT s, 0, 4⟩
def STW_FAULT_scause (s : Nat) : Fld := ⟨STW_FAULT s, 4, 6⟩
def STW_FAULT_valid (s : Nat) : Fld := ⟨STW_FAULT s, 10, 1⟩
def STW_FAULT_CTX (s : Nat) : Nat := 0x00C0_0000 + s * 0x1000 + 0x20
def STW_FAULT_CTX_ctx (s : Nat) : Fld := ⟨STW_FAULT_CTX s, 0, 20⟩
def STW_FW (s : Nat) : Nat := 0x00C0_0000 + s * 0x1000 + 0x24
def STW_FW_sup_version (s : Nat) : Fld := ⟨STW_FW s, 0, 16⟩
def STW_FW_slot (s : Nat) : Fld := ⟨STW_FW s, 16, 1⟩

/-! ### MEM block (R149, R205, R305) -/

def MEM_STATUS (m : Nat) : Nat := 0x0040_0000 + m * 0x40000
def MEM_STATUS_hbm_trained (m : Nat) : Fld := ⟨MEM_STATUS m, 0, 1⟩
def MEM_STATUS_hbm_zeroed (m : Nat) : Fld := ⟨MEM_STATUS m, 1, 1⟩
def MEM_STATUS_ddr_online (m : Nat) : Fld := ⟨MEM_STATUS m, 2, 3⟩
def MEM_HBM_CFG (m : Nat) : Nat := 0x0040_0000 + m * 0x40000 + 0x4
def MEM_HBM_CFG_bin (m : Nat) : Fld := ⟨MEM_HBM_CFG m, 0, 1⟩
def MEM_HBM_CFG_stacks_ok (m : Nat) : Fld := ⟨MEM_HBM_CFG m, 1, 4⟩
def MEM_DDR_CH0 (m : Nat) : Nat := 0x0040_0000 + m * 0x40000 + 0x10
def MEM_DDR_CH0_state (m : Nat) : Fld := ⟨MEM_DDR_CH0 m, 0, 3⟩
def MEM_DDR_CH0_speed (m : Nat) : Fld := ⟨MEM_DDR_CH0 m, 3, 3⟩
def MEM_DDR_CH0_data_gib (m : Nat) : Fld := ⟨MEM_DDR_CH0 m, 6, 9⟩
def MEM_DDR_CH1 (m : Nat) : Nat := 0x0040_0000 + m * 0x40000 + 0x14
def MEM_DDR_CH1_state (m : Nat) : Fld := ⟨MEM_DDR_CH1 m, 0, 3⟩
def MEM_DDR_CH1_speed (m : Nat) : Fld := ⟨MEM_DDR_CH1 m, 3, 3⟩
def MEM_DDR_CH1_data_gib (m : Nat) : Fld := ⟨MEM_DDR_CH1 m, 6, 9⟩
def MEM_DDR_CH2 (m : Nat) : Nat := 0x0040_0000 + m * 0x40000 + 0x18
def MEM_DDR_CH2_state (m : Nat) : Fld := ⟨MEM_DDR_CH2 m, 0, 3⟩
def MEM_DDR_CH2_speed (m : Nat) : Fld := ⟨MEM_DDR_CH2 m, 3, 3⟩
def MEM_DDR_CH2_data_gib (m : Nat) : Fld := ⟨MEM_DDR_CH2 m, 6, 9⟩
def MEM_CTRL (m : Nat) : Nat := 0x0040_0000 + m * 0x40000 + 0x20
def MEM_CTRL_inj_hbm_ce (m : Nat) : Fld := ⟨MEM_CTRL m, 0, 1⟩
def MEM_CTRL_inj_hbm_ue (m : Nat) : Fld := ⟨MEM_CTRL m, 1, 1⟩
def MEM_CTRL_inj_ddr_ce (m : Nat) : Fld := ⟨MEM_CTRL m, 2, 1⟩
def MEM_CTRL_inj_ddr_ue (m : Nat) : Fld := ⟨MEM_CTRL m, 3, 1⟩
def MEM_CTRL_inj_ddr_mac (m : Nat) : Fld := ⟨MEM_CTRL m, 4, 1⟩
def MEM_CTRL_scrub_en (m : Nat) : Fld := ⟨MEM_CTRL m, 8, 1⟩
def MEM_SCRUB_PERIOD (m : Nat) : Nat := 0x0040_0000 + m * 0x40000 + 0x24
def MEM_SCRUB_PERIOD_hours (m : Nat) : Fld := ⟨MEM_SCRUB_PERIOD m, 0, 8⟩
def MEM_ENL_MERGED (m : Nat) : Nat := 0x0040_0000 + m * 0x40000 + 0x30
def MEM_ENL_MERGED_count (m : Nat) : Fld := ⟨MEM_ENL_MERGED m, 0, 32⟩
def MEM_ENL_BYPASS (m : Nat) : Nat := 0x0040_0000 + m * 0x40000 + 0x34
def MEM_ENL_BYPASS_count (m : Nat) : Fld := ⟨MEM_ENL_BYPASS m, 0, 32⟩
def MEM_ENL_PEAK (m : Nat) : Nat := 0x0040_0000 + m * 0x40000 + 0x38
def MEM_ENL_PEAK_joiners (m : Nat) : Fld := ⟨MEM_ENL_PEAK m, 0, 8⟩
def MEM_ENL_PEAK_entries (m : Nat) : Fld := ⟨MEM_ENL_PEAK m, 8, 9⟩
def MEM_ECC (m n : Nat) : Nat := 0x0040_0000 + m * 0x40000 + 0x1000 + n * 0x8
def MEM_ECC_corrected (m n : Nat) : Fld := ⟨MEM_ECC m n, 0, 24⟩
def MEM_ECC_uncorrected (m n : Nat) : Fld := ⟨MEM_ECC m n, 24, 8⟩
def MEM_INTEG (m n : Nat) : Nat := 0x0040_0000 + m * 0x40000 + 0x1004 + n * 0x8
def MEM_INTEG_mac_fail (m n : Nat) : Fld := ⟨MEM_INTEG m n, 0, 16⟩
def MEM_INTEG_mac_reread_ok (m n : Nat) : Fld := ⟨MEM_INTEG m n, 16, 16⟩
def MEM_HCH_OWNER (m n : Nat) : Nat := 0x0040_0000 + m * 0x40000 + 0x2000 + n * 0x4
def MEM_HCH_OWNER_partition (m n : Nat) : Fld := ⟨MEM_HCH_OWNER m n, 0, 6⟩
def MEM_HCH_OWNER_system (m n : Nat) : Fld := ⟨MEM_HCH_OWNER m n, 6, 1⟩
def MEM_HCH_OWNER_assigned (m n : Nat) : Fld := ⟨MEM_HCH_OWNER m n, 7, 1⟩
def MEM_HCH_OWNER_clearing (m n : Nat) : Fld := ⟨MEM_HCH_OWNER m n, 8, 1⟩
def MEM_HCH_OWNER_retired (m n : Nat) : Fld := ⟨MEM_HCH_OWNER m n, 9, 1⟩
def MEM_DDR_GIB (m k g : Nat) : Nat := 0x0040_0000 + m * 0x40000 + 0x3000 + k * 0x400 + g * 0x4
def MEM_FILL_LO (m n : Nat) : Nat := 0x0040_0000 + m * 0x40000 + 0x4000 + n * 0x8
def MEM_FILL_LO_fill_0_3 (m n : Nat) : Fld := ⟨MEM_FILL_LO m n, 0, 32⟩
def MEM_FILL_HI (m n : Nat) : Nat := 0x0040_0000 + m * 0x40000 + 0x4004 + n * 0x8
def MEM_FILL_HI_fill_4_7 (m n : Nat) : Fld := ⟨MEM_FILL_HI m n, 0, 32⟩
def MEM_LAT (m n c : Nat) : Nat := 0x0040_0000 + m * 0x40000 + 0x10000 + n * 0x40 + c * 0x8
def MEM_LAT_max_clear (m n c : Nat) : Fld := ⟨MEM_LAT m n c, 0, 16⟩
def MEM_LAT_max_frame (m n c : Nat) : Fld := ⟨MEM_LAT m n c, 16, 16⟩
def MEM_LAT_RC (m n c : Nat) : Nat := 0x0040_0000 + m * 0x40000 + 0x10004 + n * 0x40 + c * 0x8
def MEM_LAT_RC_max_clear (m n c : Nat) : Fld := ⟨MEM_LAT_RC m n c, 0, 16⟩
def MEM_LAT_RC_max_frame (m n c : Nat) : Fld := ⟨MEM_LAT_RC m n c, 16, 16⟩
def MEM_SEAM_STATE (m k : Nat) : Nat := 0x0040_0000 + m * 0x40000 + 0x5000 + k * 0x10
def MEM_SEAM_STATE_state (m k : Nat) : Fld := ⟨MEM_SEAM_STATE m k, 0, 2⟩
def MEM_SEAM_STATE_act_in (m k : Nat) : Fld := ⟨MEM_SEAM_STATE m k, 2, 6⟩
def MEM_SEAM_STATE_act_out (m k : Nat) : Fld := ⟨MEM_SEAM_STATE m k, 8, 6⟩
def MEM_SEAM_STATE_spare_in (m k : Nat) : Fld := ⟨MEM_SEAM_STATE m k, 14, 2⟩
def MEM_SEAM_STATE_spare_out (m k : Nat) : Fld := ⟨MEM_SEAM_STATE m k, 16, 2⟩
def MEM_SEAM_REPLAY (m k : Nat) : Nat := 0x0040_0000 + m * 0x40000 + 0x5004 + k * 0x10
def MEM_SEAM_REPLAY_replays_in (m k : Nat) : Fld := ⟨MEM_SEAM_REPLAY m k, 0, 16⟩
def MEM_SEAM_REPLAY_replays_out (m k : Nat) : Fld := ⟨MEM_SEAM_REPLAY m k, 16, 16⟩
def MEM_SEAM_LOAD (m k : Nat) : Nat := 0x0040_0000 + m * 0x40000 + 0x5008 + k * 0x10
def MEM_SEAM_LOAD_peak_in (m k : Nat) : Fld := ⟨MEM_SEAM_LOAD m k, 0, 8⟩
def MEM_SEAM_LOAD_peak_out (m k : Nat) : Fld := ⟨MEM_SEAM_LOAD m k, 8, 8⟩
def MEM_SEAM_CTRL (m k : Nat) : Nat := 0x0040_0000 + m * 0x40000 + 0x500C + k * 0x10
def MEM_SEAM_CTRL_inj_crc (m k : Nat) : Fld := ⟨MEM_SEAM_CTRL m k, 0, 1⟩
def MEM_MIG_CTRL (m i : Nat) : Nat := 0x0040_0000 + m * 0x40000 + 0x6000 + i * 0x20
def MEM_MIG_CTRL_start (m i : Nat) : Fld := ⟨MEM_MIG_CTRL m i, 0, 1⟩
def MEM_MIG_CTRL_release (m i : Nat) : Fld := ⟨MEM_MIG_CTRL m i, 1, 1⟩
def MEM_MIG_CTRL_cancel (m i : Nat) : Fld := ⟨MEM_MIG_CTRL m i, 2, 1⟩
def MEM_MIG_CTRL_tier (m i : Nat) : Fld := ⟨MEM_MIG_CTRL m i, 3, 1⟩
def MEM_MIG_SRC (m i : Nat) : Nat := 0x0040_0000 + m * 0x40000 + 0x6004 + i * 0x20
def MEM_MIG_SRC_channel (m i : Nat) : Fld := ⟨MEM_MIG_SRC m i, 0, 8⟩
def MEM_MIG_SRC_first_gib (m i : Nat) : Fld := ⟨MEM_MIG_SRC m i, 8, 8⟩
def MEM_MIG_SRC_gib_count (m i : Nat) : Fld := ⟨MEM_MIG_SRC m i, 16, 8⟩
def MEM_MIG_DST (m i : Nat) : Nat := 0x0040_0000 + m * 0x40000 + 0x6008 + i * 0x20
def MEM_MIG_DST_channel (m i : Nat) : Fld := ⟨MEM_MIG_DST m i, 0, 9⟩
def MEM_MIG_DST_first_gib (m i : Nat) : Fld := ⟨MEM_MIG_DST m i, 9, 8⟩
def MEM_MIG_SLICE (m i : Nat) : Nat := 0x0040_0000 + m * 0x40000 + 0x600C + i * 0x20
def MEM_MIG_SLICE_units (m i : Nat) : Fld := ⟨MEM_MIG_SLICE m i, 0, 7⟩
def MEM_MIG_STATE (m i : Nat) : Nat := 0x0040_0000 + m * 0x40000 + 0x6010 + i * 0x20
def MEM_MIG_STATE_state (m i : Nat) : Fld := ⟨MEM_MIG_STATE m i, 0, 3⟩
def MEM_MIG_STATE_cause (m i : Nat) : Fld := ⟨MEM_MIG_STATE m i, 3, 2⟩
def MEM_MIG_DONE (m i : Nat) : Nat := 0x0040_0000 + m * 0x40000 + 0x6014 + i * 0x20
def MEM_MIG_DONE_units (m i : Nat) : Fld := ⟨MEM_MIG_DONE m i, 0, 22⟩
def MEM_MIG_STALL (m i : Nat) : Nat := 0x0040_0000 + m * 0x40000 + 0x6018 + i * 0x20
def MEM_MIG_STALL_count (m i : Nat) : Fld := ⟨MEM_MIG_STALL m i, 0, 32⟩
def MEM_MIG_BAD_LO (m i : Nat) : Nat := 0x0040_0000 + m * 0x40000 + 0x6080 + i * 0x8
def MEM_MIG_BAD_LO_offset_lo (m i : Nat) : Fld := ⟨MEM_MIG_BAD_LO m i, 0, 32⟩
def MEM_MIG_BAD_HI (m i : Nat) : Nat := 0x0040_0000 + m * 0x40000 + 0x6084 + i * 0x8
def MEM_MIG_BAD_HI_offset_hi (m i : Nat) : Fld := ⟨MEM_MIG_BAD_HI m i, 0, 10⟩

/-! ### SEQ block (R171) -/

def SEQ_STATUS : Nat := 0x0100_0000
def SEQ_STATUS_ready : Fld := ⟨SEQ_STATUS, 0, 4⟩
def SEQ_EVENT : Nat := 0x0100_0000 + 0x4
def SEQ_EVENT_recompute_req : Fld := ⟨SEQ_EVENT, 0, 1⟩
def SEQ_EVENT_orphaned : Fld := ⟨SEQ_EVENT, 1, 1⟩
def SEQ_EVENT_lease_ignored : Fld := ⟨SEQ_EVENT, 2, 1⟩
def SEQ_EVENT_released : Fld := ⟨SEQ_EVENT, 3, 1⟩
def SEQ_EVENT_tier_short : Fld := ⟨SEQ_EVENT, 4, 1⟩
def SEQ_EVENT_hold_limit : Fld := ⟨SEQ_EVENT, 5, 1⟩
def SEQ_ACTIVE (d : Nat) : Nat := 0x0100_0000 + 0x10 + d * 0x4
def SEQ_ACTIVE_active (d : Nat) : Fld := ⟨SEQ_ACTIVE d, 0, 11⟩
def SEQ_LAST_LOST : Nat := 0x0100_0000 + 0x20
def SEQ_LAST_LOST_seq_id : Fld := ⟨SEQ_LAST_LOST, 0, 12⟩
def SEQ_LAST_LOST_cause : Fld := ⟨SEQ_LAST_LOST, 12, 3⟩
def SEQ_LAST_LOST_valid : Fld := ⟨SEQ_LAST_LOST, 31, 1⟩
def SEQ_PULLS : Nat := 0x0100_0000 + 0x30
def SEQ_PULLS_count : Fld := ⟨SEQ_PULLS, 0, 32⟩
def SEQ_DEMOTES : Nat := 0x0100_0000 + 0x34
def SEQ_DEMOTES_count : Fld := ⟨SEQ_DEMOTES, 0, 32⟩
def SEQ_HELD : Nat := 0x0100_0000 + 0x38
def SEQ_HELD_count : Fld := ⟨SEQ_HELD, 0, 32⟩
def SEQ_LEASE_IGNORED : Nat := 0x0100_0000 + 0x3C
def SEQ_LEASE_IGNORED_count : Fld := ⟨SEQ_LEASE_IGNORED, 0, 32⟩
def SEQ_POOL_BASE_LO (k : Nat) : Nat := 0x0100_0000 + 0x1000 + k * 0x10
def SEQ_POOL_BASE_LO_base_lo (k : Nat) : Fld := ⟨SEQ_POOL_BASE_LO k, 16, 16⟩
def SEQ_POOL_BASE_HI (k : Nat) : Nat := 0x0100_0000 + 0x1004 + k * 0x10
def SEQ_POOL_BASE_HI_base_hi (k : Nat) : Fld := ⟨SEQ_POOL_BASE_HI k, 0, 10⟩
def SEQ_POOL_PAGES (k : Nat) : Nat := 0x0100_0000 + 0x1008 + k * 0x10
def SEQ_POOL_PAGES_pages (k : Nat) : Fld := ⟨SEQ_POOL_PAGES k, 0, 21⟩
def SEQ_POOL_FREE (k : Nat) : Nat := 0x0100_0000 + 0x100C + k * 0x10
def SEQ_POOL_FREE_free (k : Nat) : Fld := ⟨SEQ_POOL_FREE k, 0, 21⟩

/-! ### XLAT block (R191) -/

def XLAT_EVENT : Nat := 0x0006_0000
def XLAT_EVENT_xlat_fault : Fld := ⟨XLAT_EVENT, 0, 1⟩
def XLAT_EVENT_pri_failed : Fld := ⟨XLAT_EVENT, 1, 1⟩
def XLAT_EVENT_pri_timeout : Fld := ⟨XLAT_EVENT, 2, 1⟩
def XLAT_EVENT_cache_full : Fld := ⟨XLAT_EVENT, 3, 1⟩
def XLAT_MODULE_ID : Nat := 0x0006_0000 + 0x4
def XLAT_MODULE_ID_module_id : Fld := ⟨XLAT_MODULE_ID, 0, 16⟩
def XLAT_PRI_TIMEOUT : Nat := 0x0006_0000 + 0x8
def XLAT_PRI_TIMEOUT_ms : Fld := ⟨XLAT_PRI_TIMEOUT, 0, 16⟩
def XLAT_FLUSH : Nat := 0x0006_0000 + 0xC
def XLAT_FLUSH_pasid : Fld := ⟨XLAT_FLUSH, 0, 20⟩
def XLAT_FLUSH_function : Fld := ⟨XLAT_FLUSH, 20, 7⟩
def XLAT_FLUSH_all_pasid : Fld := ⟨XLAT_FLUSH, 27, 1⟩
def XLAT_FLUSH_go : Fld := ⟨XLAT_FLUSH, 28, 1⟩
def XLAT_FLUSH_busy : Fld := ⟨XLAT_FLUSH, 29, 1⟩
def XLAT_FAULT_VA_LO : Nat := 0x0006_0000 + 0x10
def XLAT_FAULT_VA_LO_va_lo : Fld := ⟨XLAT_FAULT_VA_LO, 0, 32⟩
def XLAT_FAULT_VA_HI : Nat := 0x0006_0000 + 0x14
def XLAT_FAULT_VA_HI_va_hi : Fld := ⟨XLAT_FAULT_VA_HI, 0, 32⟩
def XLAT_FAULT_INFO : Nat := 0x0006_0000 + 0x18
def XLAT_FAULT_INFO_pasid : Fld := ⟨XLAT_FAULT_INFO, 0, 20⟩
def XLAT_FAULT_INFO_function : Fld := ⟨XLAT_FAULT_INFO, 20, 7⟩
def XLAT_FAULT_INFO_cause : Fld := ⟨XLAT_FAULT_INFO, 27, 3⟩
def XLAT_QUOTA (f : Nat) : Nat := 0x0006_0000 + 0x100 + f * 0x4
def XLAT_QUOTA_entries (f : Nat) : Fld := ⟨XLAT_QUOTA f, 0, 15⟩
def XLAT_HITS (d : Nat) : Nat := 0x0006_0000 + 0x1000 + d * 0x20
def XLAT_HITS_count (d : Nat) : Fld := ⟨XLAT_HITS d, 0, 32⟩
def XLAT_MISSES (d : Nat) : Nat := 0x0006_0000 + 0x1004 + d * 0x20
def XLAT_MISSES_count (d : Nat) : Fld := ⟨XLAT_MISSES d, 0, 32⟩
def XLAT_ENTRIES (d : Nat) : Nat := 0x0006_0000 + 0x1008 + d * 0x20
def XLAT_ENTRIES_used (d : Nat) : Fld := ⟨XLAT_ENTRIES d, 0, 15⟩
def XLAT_ENTRIES_pinned (d : Nat) : Fld := ⟨XLAT_ENTRIES d, 16, 15⟩
def XLAT_INV (d : Nat) : Nat := 0x0006_0000 + 0x100C + d * 0x20
def XLAT_INV_count (d : Nat) : Fld := ⟨XLAT_INV d, 0, 32⟩
def XLAT_PRI (d : Nat) : Nat := 0x0006_0000 + 0x1010 + d * 0x20
def XLAT_PRI_outstanding (d : Nat) : Fld := ⟨XLAT_PRI d, 0, 10⟩
def XLAT_PRI_joined (d : Nat) : Fld := ⟨XLAT_PRI d, 10, 22⟩

/-! ### LINK block (R240, R260) -/

def LINK_STATE (p : Nat) : Nat := 0x0020_0000 + p * 0x10000
def LINK_STATE_state (p : Nat) : Fld := ⟨LINK_STATE p, 0, 3⟩
def LINK_STATE_rate (p : Nat) : Fld := ⟨LINK_STATE p, 3, 2⟩
def LINK_STATE_width (p : Nat) : Fld := ⟨LINK_STATE p, 5, 3⟩
def LINK_STATE_mode (p : Nat) : Fld := ⟨LINK_STATE p, 8, 1⟩
def LINK_STATE_down_cause (p : Nat) : Fld := ⟨LINK_STATE p, 9, 3⟩
def LINK_PEER (p : Nat) : Nat := 0x0020_0000 + p * 0x10000 + 0x4
def LINK_PEER_module_id (p : Nat) : Fld := ⟨LINK_PEER p, 0, 16⟩
def LINK_PEER_port (p : Nat) : Fld := ⟨LINK_PEER p, 16, 5⟩
def LINK_PEER_CODE (p : Nat) : Nat := 0x0020_0000 + p * 0x10000 + 0x8
def LINK_PEER_CODE_code (p : Nat) : Fld := ⟨LINK_PEER_CODE p, 0, 14⟩
def LINK_PEER_CODE_valid (p : Nat) : Fld := ⟨LINK_PEER_CODE p, 14, 1⟩
def LINK_LANES (p : Nat) : Nat := 0x0020_0000 + p * 0x10000 + 0xC
def LINK_LANES_active (p : Nat) : Fld := ⟨LINK_LANES p, 0, 16⟩
def LINK_LANES_retired (p : Nat) : Fld := ⟨LINK_LANES p, 16, 16⟩
def LINK_EPOCH (p : Nat) : Nat := 0x0020_0000 + p * 0x10000 + 0x10
def LINK_EPOCH_epoch (p : Nat) : Fld := ⟨LINK_EPOCH p, 0, 32⟩
def LINK_DELAY (p : Nat) : Nat := 0x0020_0000 + p * 0x10000 + 0x14
def LINK_DELAY_delay (p : Nat) : Fld := ⟨LINK_DELAY p, 0, 20⟩
def LINK_CTRL (p : Nat) : Nat := 0x0020_0000 + p * 0x10000 + 0x18
def LINK_CTRL_enable (p : Nat) : Fld := ⟨LINK_CTRL p, 0, 1⟩
def LINK_CTRL_retrain (p : Nat) : Fld := ⟨LINK_CTRL p, 1, 1⟩
def LINK_CTRL_inj_crc (p : Nat) : Fld := ⟨LINK_CTRL p, 2, 1⟩
def LINK_CTRL_inj_tag (p : Nat) : Fld := ⟨LINK_CTRL p, 3, 1⟩
def LINK_EVENT (p : Nat) : Nat := 0x0020_0000 + p * 0x10000 + 0x1C
def LINK_EVENT_auth_fail (p : Nat) : Fld := ⟨LINK_EVENT p, 0, 1⟩
def LINK_EVENT_lane_drop (p : Nat) : Fld := ⟨LINK_EVENT p, 1, 1⟩
def LINK_EVENT_down (p : Nat) : Fld := ⟨LINK_EVENT p, 2, 1⟩
def LINK_EVENT_tag_fail (p : Nat) : Fld := ⟨LINK_EVENT p, 3, 1⟩
def LINK_EVENT_sched_miss (p : Nat) : Fld := ⟨LINK_EVENT p, 4, 1⟩
def LINK_EVENT_unroutable (p : Nat) : Fld := ⟨LINK_EVENT p, 5, 1⟩
def LINK_EVENT_ttl_expired (p : Nat) : Fld := ⟨LINK_EVENT p, 6, 1⟩
def LINK_EVENT_ctrl_kind_bad (p : Nat) : Fld := ⟨LINK_EVENT p, 7, 1⟩
def LINK_EVENT_epoch_low (p : Nat) : Fld := ⟨LINK_EVENT p, 8, 1⟩
def LINK_REPLAY (p : Nat) : Nat := 0x0020_0000 + p * 0x10000 + 0x20
def LINK_REPLAY_count (p : Nat) : Fld := ⟨LINK_REPLAY p, 0, 32⟩
def LINK_TAG_FAIL (p : Nat) : Nat := 0x0020_0000 + p * 0x10000 + 0x24
def LINK_TAG_FAIL_count (p : Nat) : Fld := ⟨LINK_TAG_FAIL p, 0, 32⟩
def LINK_AUTH_FAIL (p : Nat) : Nat := 0x0020_0000 + p * 0x10000 + 0x28
def LINK_AUTH_FAIL_count (p : Nat) : Fld := ⟨LINK_AUTH_FAIL p, 0, 32⟩
def LINK_SCHED_MISS (p : Nat) : Nat := 0x0020_0000 + p * 0x10000 + 0x30
def LINK_SCHED_MISS_count (p : Nat) : Fld := ⟨LINK_SCHED_MISS p, 0, 32⟩
def LINK_DROP (p : Nat) : Nat := 0x0020_0000 + p * 0x10000 + 0x2C
def LINK_DROP_unroutable (p : Nat) : Fld := ⟨LINK_DROP p, 0, 16⟩
def LINK_DROP_ttl_expired (p : Nat) : Fld := ⟨LINK_DROP p, 16, 16⟩
def LINK_UTIL (p : Nat) : Nat := 0x0020_0000 + p * 0x10000 + 0x34
def LINK_UTIL_sched (p : Nat) : Fld := ⟨LINK_UTIL p, 0, 16⟩
def LINK_UTIL_unsched (p : Nat) : Fld := ⟨LINK_UTIL p, 16, 16⟩
def LINK_LANE_CRC (p l : Nat) : Nat := 0x0020_0000 + p * 0x10000 + 0x100 + l * 0x4
def LINK_LANE_CRC_crc_errors (p l : Nat) : Fld := ⟨LINK_LANE_CRC p l, 0, 24⟩
def LINK_SESSION (p i : Nat) : Nat := 0x0020_0000 + p * 0x10000 + 0x200 + i * 0x8
def LINK_SESSION_module_id (p i : Nat) : Fld := ⟨LINK_SESSION p i, 0, 16⟩
def LINK_SESSION_port (p i : Nat) : Fld := ⟨LINK_SESSION p i, 16, 5⟩
def LINK_SESSION_state (p i : Nat) : Fld := ⟨LINK_SESSION p i, 21, 3⟩
def LINK_SESSION_EPOCH (p i : Nat) : Nat := 0x0020_0000 + p * 0x10000 + 0x204 + i * 0x8
def LINK_SESSION_EPOCH_module_id (p i : Nat) : Fld := ⟨LINK_SESSION_EPOCH p i, 0, 16⟩
def LINK_SESSION_EPOCH_port (p i : Nat) : Fld := ⟨LINK_SESSION_EPOCH p i, 16, 5⟩
def LINK_SESSION_EPOCH_state (p i : Nat) : Fld := ⟨LINK_SESSION_EPOCH p i, 21, 3⟩
def LINK_SESSION_EPOCH_epoch (p i : Nat) : Fld := ⟨LINK_SESSION_EPOCH p i, 0, 32⟩
def LINK_COLL_STATE (p : Nat) : Nat := 0x0020_0000 + p * 0x10000 + 0x800
def LINK_COLL_STATE_defined (p : Nat) : Fld := ⟨LINK_COLL_STATE p, 0, 7⟩
def LINK_COLL_STATE_staging_kib (p : Nat) : Fld := ⟨LINK_COLL_STATE p, 8, 14⟩
def LINK_COLL_EVENT (p : Nat) : Nat := 0x0020_0000 + p * 0x10000 + 0x804
def LINK_COLL_EVENT_aborted (p : Nat) : Fld := ⟨LINK_COLL_EVENT p, 0, 1⟩
def LINK_COLL_EVENT_post_error (p : Nat) : Fld := ⟨LINK_COLL_EVENT p, 1, 1⟩
def LINK_COLL_EVENT_afault (p : Nat) : Fld := ⟨LINK_COLL_EVENT p, 2, 1⟩
def LINK_COLL_EVENT_stray (p : Nat) : Fld := ⟨LINK_COLL_EVENT p, 3, 1⟩
def LINK_COLL_DONE (p : Nat) : Nat := 0x0020_0000 + p * 0x10000 + 0x808
def LINK_COLL_DONE_count (p : Nat) : Fld := ⟨LINK_COLL_DONE p, 0, 32⟩
def LINK_COLL_ABORTS (p : Nat) : Nat := 0x0020_0000 + p * 0x10000 + 0x80C
def LINK_COLL_ABORTS_count (p : Nat) : Fld := ⟨LINK_COLL_ABORTS p, 0, 32⟩
def LINK_COLL_STRAY (p : Nat) : Nat := 0x0020_0000 + p * 0x10000 + 0x818
def LINK_COLL_STRAY_count (p : Nat) : Fld := ⟨LINK_COLL_STRAY p, 0, 32⟩
def LINK_COLL_LAST (p : Nat) : Nat := 0x0020_0000 + p * 0x10000 + 0x810
def LINK_COLL_LAST_coll_id (p : Nat) : Fld := ⟨LINK_COLL_LAST p, 0, 32⟩
def LINK_COLL_LAST_INFO (p : Nat) : Nat := 0x0020_0000 + p * 0x10000 + 0x814
def LINK_COLL_LAST_INFO_reason (p : Nat) : Fld := ⟨LINK_COLL_LAST_INFO p, 0, 4⟩
def LINK_COLL_LAST_INFO_is_post (p : Nat) : Fld := ⟨LINK_COLL_LAST_INFO p, 4, 1⟩
def LINK_COLL_LAST_INFO_instance (p : Nat) : Fld := ⟨LINK_COLL_LAST_INFO p, 8, 24⟩

/-! ### COMP block (R285, R305) -/

def COMP_CTRL : Nat := 0x0002_0000
def COMP_CTRL_slot : Fld := ⟨COMP_CTRL, 0, 3⟩
def COMP_CTRL_op : Fld := ⟨COMP_CTRL, 3, 2⟩
def COMP_CTRL_profile : Fld := ⟨COMP_CTRL, 5, 2⟩
def COMP_CTRL_go : Fld := ⟨COMP_CTRL, 7, 1⟩
def COMP_SRC_LO : Nat := 0x0002_0000 + 0x4
def COMP_SRC_LO_src_lo : Fld := ⟨COMP_SRC_LO, 0, 32⟩
def COMP_SRC_HI : Nat := 0x0002_0000 + 0x8
def COMP_SRC_HI_src_hi : Fld := ⟨COMP_SRC_HI, 0, 10⟩
def COMP_LEN : Nat := 0x0002_0000 + 0xC
def COMP_LEN_bytes : Fld := ⟨COMP_LEN, 0, 25⟩
def COMP_APPLY_LO : Nat := 0x0002_0000 + 0x10
def COMP_APPLY_LO_frame_lo : Fld := ⟨COMP_APPLY_LO, 0, 32⟩
def COMP_APPLY_HI : Nat := 0x0002_0000 + 0x14
def COMP_APPLY_HI_frame_hi : Fld := ⟨COMP_APPLY_HI, 0, 16⟩
def COMP_ARM_ID : Nat := 0x0002_0000 + 0x18
def COMP_ARM_ID_arm_id : Fld := ⟨COMP_ARM_ID, 0, 32⟩
def COMP_SETTINGS : Nat := 0x0002_0000 + 0x1C
def COMP_SETTINGS_settings : Fld := ⟨COMP_SETTINGS, 0, 32⟩
def COMP_EVENT : Nat := 0x0002_0000 + 0x20
def COMP_EVENT_validated : Fld := ⟨COMP_EVENT, 0, 1⟩
def COMP_EVENT_rejected : Fld := ⟨COMP_EVENT, 1, 1⟩
def COMP_EVENT_applied : Fld := ⟨COMP_EVENT, 2, 1⟩
def COMP_EVENT_busy : Fld := ⟨COMP_EVENT, 3, 1⟩
def COMP_PROFILE : Nat := 0x0002_0000 + 0x24
def COMP_PROFILE_pins : Fld := ⟨COMP_PROFILE, 0, 2⟩
def COMP_PROFILE_booted : Fld := ⟨COMP_PROFILE, 2, 2⟩
def COMP_PROFILE_no_image : Fld := ⟨COMP_PROFILE, 4, 1⟩
def COMP_PROFILE_valid : Fld := ⟨COMP_PROFILE, 8, 4⟩
def COMP_PROFILE_next : Fld := ⟨COMP_PROFILE, 12, 2⟩
def COMP_PROFILE_next_en : Fld := ⟨COMP_PROFILE, 14, 1⟩
def COMP_INFORCE : Nat := 0x0002_0000 + 0x28
def COMP_INFORCE_deltas : Fld := ⟨COMP_INFORCE, 0, 32⟩
def COMP_CHAIN (i : Nat) : Nat := 0x0002_0000 + 0x40 + i * 0x4
def COMP_CHAIN_chain (i : Nat) : Fld := ⟨COMP_CHAIN i, 0, 32⟩
def COMP_SLOT (s : Nat) : Nat := 0x0002_0000 + 0x100 + s * 0x10
def COMP_SLOT_state (s : Nat) : Fld := ⟨COMP_SLOT s, 0, 3⟩
def COMP_SLOT_op (s : Nat) : Fld := ⟨COMP_SLOT s, 3, 2⟩
def COMP_SLOT_release (s : Nat) : Fld := ⟨COMP_SLOT s, 7, 1⟩
def COMP_SLOT_code (s : Nat) : Fld := ⟨COMP_SLOT s, 8, 8⟩
def COMP_SLOT_ID (s : Nat) : Nat := 0x0002_0000 + 0x104 + s * 0x10
def COMP_SLOT_ID_image_id (s : Nat) : Fld := ⟨COMP_SLOT_ID s, 0, 32⟩
def COMP_SLOT_FRAME_LO (s : Nat) : Nat := 0x0002_0000 + 0x108 + s * 0x10
def COMP_SLOT_FRAME_LO_frame_lo (s : Nat) : Fld := ⟨COMP_SLOT_FRAME_LO s, 0, 32⟩
def COMP_SLOT_FRAME_HI (s : Nat) : Nat := 0x0002_0000 + 0x10C + s * 0x10
def COMP_SLOT_FRAME_HI_frame_hi (s : Nat) : Fld := ⟨COMP_SLOT_FRAME_HI s, 0, 16⟩
def COMP_ARM_CTRL : Nat := 0x0002_0000 + 0x200
def COMP_ARM_CTRL_fire : Fld := ⟨COMP_ARM_CTRL, 0, 1⟩
def COMP_ARM_CTRL_relay : Fld := ⟨COMP_ARM_CTRL, 1, 1⟩
def COMP_ARM_CTRL_n_dest : Fld := ⟨COMP_ARM_CTRL, 2, 5⟩
def COMP_ARM_FIRE_ID : Nat := 0x0002_0000 + 0x204
def COMP_ARM_FIRE_ID_arm_id : Fld := ⟨COMP_ARM_FIRE_ID, 0, 32⟩
def COMP_ARM_COLLECT : Nat := 0x0002_0000 + 0x208
def COMP_ARM_COLLECT_module_id : Fld := ⟨COMP_ARM_COLLECT, 0, 16⟩
def COMP_ARM_COLLECT_enable : Fld := ⟨COMP_ARM_COLLECT, 16, 1⟩
def COMP_ARM_TALLY_ID : Nat := 0x0002_0000 + 0x20C
def COMP_ARM_TALLY_ID_arm_id : Fld := ⟨COMP_ARM_TALLY_ID, 0, 32⟩
def COMP_ARM_TALLY_VAL : Nat := 0x0002_0000 + 0x210
def COMP_ARM_TALLY_VAL_count : Fld := ⟨COMP_ARM_TALLY_VAL, 0, 17⟩
def COMP_ARM_TALLY_REJ : Nat := 0x0002_0000 + 0x214
def COMP_ARM_TALLY_REJ_count : Fld := ⟨COMP_ARM_TALLY_REJ, 0, 17⟩
def COMP_ARM_TALLY_APP : Nat := 0x0002_0000 + 0x218
def COMP_ARM_TALLY_APP_count : Fld := ⟨COMP_ARM_TALLY_APP, 0, 17⟩
def COMP_ARM_TALLY_DROP : Nat := 0x0002_0000 + 0x21C
def COMP_ARM_TALLY_DROP_count : Fld := ⟨COMP_ARM_TALLY_DROP, 0, 17⟩
def COMP_ARM_EVENT : Nat := 0x0002_0000 + 0x220
def COMP_ARM_EVENT_armed : Fld := ⟨COMP_ARM_EVENT, 0, 1⟩
def COMP_ARM_EVENT_late : Fld := ⟨COMP_ARM_EVENT, 1, 1⟩
def COMP_ARM_EVENT_stray : Fld := ⟨COMP_ARM_EVENT, 2, 1⟩
def COMP_ARM_EVENT_tally : Fld := ⟨COMP_ARM_EVENT, 3, 1⟩
def COMP_ARM_DEST (j : Nat) : Nat := 0x0002_0000 + 0x240 + j * 0x4
def COMP_ARM_DEST_first (j : Nat) : Fld := ⟨COMP_ARM_DEST j, 0, 16⟩
def COMP_ARM_DEST_last (j : Nat) : Fld := ⟨COMP_ARM_DEST j, 16, 16⟩

/-! ### TWIN block (R328) -/

def TWIN_STATE : Nat := 0x0010_0000
def TWIN_STATE_state : Fld := ⟨TWIN_STATE, 0, 3⟩
def TWIN_STATE_port_up : Fld := ⟨TWIN_STATE, 3, 1⟩
def TWIN_STATE_twinned : Fld := ⟨TWIN_STATE, 4, 12⟩
def TWIN_CTRL : Nat := 0x0010_0000 + 0x4
def TWIN_CTRL_auto_takeover : Fld := ⟨TWIN_CTRL, 0, 1⟩
def TWIN_CTRL_reset_faulty : Fld := ⟨TWIN_CTRL, 1, 1⟩
def TWIN_CTRL_inj_print : Fld := ⟨TWIN_CTRL, 2, 1⟩
def TWIN_CTRL_inj_beat_stop : Fld := ⟨TWIN_CTRL, 3, 1⟩
def TWIN_EVENT : Nat := 0x0010_0000 + 0x8
def TWIN_EVENT_paired : Fld := ⟨TWIN_EVENT, 0, 1⟩
def TWIN_EVENT_twin_lost : Fld := ⟨TWIN_EVENT, 1, 1⟩
def TWIN_EVENT_takeover : Fld := ⟨TWIN_EVENT, 2, 1⟩
def TWIN_EVENT_takeover_failed : Fld := ⟨TWIN_EVENT, 3, 1⟩
def TWIN_EVENT_seed_done : Fld := ⟨TWIN_EVENT, 4, 1⟩
def TWIN_EVENT_mirror_lag : Fld := ⟨TWIN_EVENT, 5, 1⟩
def TWIN_EVENT_config_split : Fld := ⟨TWIN_EVENT, 6, 1⟩
def TWIN_EVENT_divergent : Fld := ⟨TWIN_EVENT, 7, 1⟩
def TWIN_EVENT_fenced : Fld := ⟨TWIN_EVENT, 8, 1⟩
def TWIN_EVENT_peer_faulty : Fld := ⟨TWIN_EVENT, 9, 1⟩
def TWIN_EVENT_swap_failed : Fld := ⟨TWIN_EVENT, 10, 1⟩
def TWIN_PEER : Nat := 0x0010_0000 + 0xC
def TWIN_PEER_module_id : Fld := ⟨TWIN_PEER, 0, 16⟩
def TWIN_JOIN_LO : Nat := 0x0010_0000 + 0x10
def TWIN_JOIN_LO_frame_lo : Fld := ⟨TWIN_JOIN_LO, 0, 32⟩
def TWIN_JOIN_HI : Nat := 0x0010_0000 + 0x14
def TWIN_JOIN_HI_frame_hi : Fld := ⟨TWIN_JOIN_HI, 0, 16⟩
def TWIN_LAG : Nat := 0x0010_0000 + 0x18
def TWIN_LAG_current : Fld := ⟨TWIN_LAG, 0, 8⟩
def TWIN_LAG_peak : Fld := ⟨TWIN_LAG, 8, 8⟩
def TWIN_RING_BASE_LO : Nat := 0x0010_0000 + 0x20
def TWIN_RING_BASE_LO_base_lo : Fld := ⟨TWIN_RING_BASE_LO, 20, 12⟩
def TWIN_RING_BASE_HI : Nat := 0x0010_0000 + 0x24
def TWIN_RING_BASE_HI_base_hi : Fld := ⟨TWIN_RING_BASE_HI, 0, 10⟩
def TWIN_RING_SIZE : Nat := 0x0010_0000 + 0x28
def TWIN_RING_SIZE_mib : Fld := ⟨TWIN_RING_SIZE, 0, 12⟩
def TWIN_RING_USED : Nat := 0x0010_0000 + 0x2C
def TWIN_RING_USED_kib : Fld := ⟨TWIN_RING_USED, 0, 22⟩
def TWIN_SKEW_LIMIT : Nat := 0x0010_0000 + 0x30
def TWIN_SKEW_LIMIT_frames : Fld := ⟨TWIN_SKEW_LIMIT, 0, 4⟩
def TWIN_SKEWS : Nat := 0x0010_0000 + 0x34
def TWIN_SKEWS_count : Fld := ⟨TWIN_SKEWS, 0, 32⟩
def TWIN_MISMATCH : Nat := 0x0010_0000 + 0x38
def TWIN_MISMATCH_count : Fld := ⟨TWIN_MISMATCH, 0, 32⟩
def TWIN_BAD_MSG : Nat := 0x0010_0000 + 0x3C
def TWIN_BAD_MSG_count : Fld := ⟨TWIN_BAD_MSG, 0, 32⟩
def TWIN_VD_SEL : Nat := 0x0010_0000 + 0x100
def TWIN_VD_SEL_vd_id : Fld := ⟨TWIN_VD_SEL, 0, 16⟩
def TWIN_VD_STATE : Nat := 0x0010_0000 + 0x104
def TWIN_VD_STATE_mode : Fld := ⟨TWIN_VD_STATE, 0, 2⟩
def TWIN_VD_STATE_state : Fld := ⟨TWIN_VD_STATE, 2, 3⟩
def TWIN_VD_STATE_role : Fld := ⟨TWIN_VD_STATE, 5, 1⟩
def TWIN_VD_STATE_both_flagged : Fld := ⟨TWIN_VD_STATE, 6, 1⟩
def TWIN_VD_STATE_digest_ok : Fld := ⟨TWIN_VD_STATE, 7, 1⟩
def TWIN_VD_CTRL : Nat := 0x0010_0000 + 0x108
def TWIN_VD_CTRL_swap : Fld := ⟨TWIN_VD_CTRL, 0, 1⟩
def TWIN_VD_CTRL_clear : Fld := ⟨TWIN_VD_CTRL, 1, 1⟩
def TWIN_VD_FRAME_LO : Nat := 0x0010_0000 + 0x10C
def TWIN_VD_FRAME_LO_frame_lo : Fld := ⟨TWIN_VD_FRAME_LO, 0, 32⟩
def TWIN_VD_FRAME_HI : Nat := 0x0010_0000 + 0x110
def TWIN_VD_FRAME_HI_frame_hi : Fld := ⟨TWIN_VD_FRAME_HI, 0, 16⟩
def TWIN_NEG_LO : Nat := 0x0010_0000 + 0x114
def TWIN_NEG_LO_frame_lo : Fld := ⟨TWIN_NEG_LO, 0, 32⟩
def TWIN_NEG_HI : Nat := 0x0010_0000 + 0x118
def TWIN_NEG_HI_frame_hi : Fld := ⟨TWIN_NEG_HI, 0, 16⟩
def TWIN_VD_PRINT (i : Nat) : Nat := 0x0010_0000 + 0x120 + i * 0x4
def TWIN_VD_PRINT_print (i : Nat) : Fld := ⟨TWIN_VD_PRINT i, 0, 32⟩
def TWIN_VD_PEER_PRINT (i : Nat) : Nat := 0x0010_0000 + 0x140 + i * 0x4
def TWIN_VD_PEER_PRINT_print (i : Nat) : Fld := ⟨TWIN_VD_PEER_PRINT i, 0, 32⟩

/-! ### GLB block (R346, R502) -/

def GLB_PCIE : Nat := 0x0
def GLB_PCIE_gen : Fld := ⟨GLB_PCIE, 0, 3⟩
def GLB_PCIE_width : Fld := ⟨GLB_PCIE, 3, 2⟩
def GLB_PCIE_flit : Fld := ⟨GLB_PCIE, 5, 1⟩
def GLB_PCIE_vfs : Fld := ⟨GLB_PCIE, 6, 7⟩
def GLB_EVENT : Nat := 0x4
def GLB_EVENT_link_change : Fld := ⟨GLB_EVENT, 0, 1⟩
def GLB_EVENT_vf_reset : Fld := ⟨GLB_EVENT, 1, 1⟩
def GLB_EVENT_ide_insecure : Fld := ⟨GLB_EVENT, 2, 1⟩
def GLB_EVENT_mbox_busy : Fld := ⟨GLB_EVENT, 3, 1⟩
def GLB_MBOX_PEND_LO : Nat := 0x10
def GLB_MBOX_PEND_LO_pend_lo : Fld := ⟨GLB_MBOX_PEND_LO, 0, 32⟩
def GLB_MBOX_PEND_HI : Nat := 0x14
def GLB_MBOX_PEND_HI_pend_hi : Fld := ⟨GLB_MBOX_PEND_HI, 0, 32⟩
def GLB_MBOX_SEL : Nat := 0x18
def GLB_MBOX_SEL_vf : Fld := ⟨GLB_MBOX_SEL, 0, 7⟩
def GLB_MBOX_CTRL : Nat := 0x1C
def GLB_MBOX_CTRL_ack : Fld := ⟨GLB_MBOX_CTRL, 0, 1⟩
def GLB_MBOX_CTRL_send : Fld := ⟨GLB_MBOX_CTRL, 1, 1⟩
def GLB_MBOX_CTRL_vf_in_full : Fld := ⟨GLB_MBOX_CTRL, 2, 1⟩
def GLB_MBOX_IN (i : Nat) : Nat := 0x40 + i * 0x4
def GLB_MBOX_IN_word (i : Nat) : Fld := ⟨GLB_MBOX_IN i, 0, 32⟩
def GLB_MBOX_OUT (i : Nat) : Nat := 0x80 + i * 0x4
def GLB_MBOX_OUT_word (i : Nat) : Fld := ⟨GLB_MBOX_OUT i, 0, 32⟩
def GLB_VF_WIN (v : Nat) : Nat := 0x200 + (v - 1) * 4
def GLB_VF_WIN_base (v : Nat) : Fld := ⟨GLB_VF_WIN v, 0, 6⟩
def GLB_BOARD : Nat := 0x100
def GLB_BOARD_slot_id : Fld := ⟨GLB_BOARD, 0, 6⟩
def GLB_BOARD_twin_present : Fld := ⟨GLB_BOARD, 6, 1⟩
def GLB_BOARD_alert_pin : Fld := ⟨GLB_BOARD, 7, 1⟩
def GLB_BOARD_rst_pin : Fld := ⟨GLB_BOARD, 8, 1⟩

/-! ### VF block (R347) -/

def VF_INFO (v : Nat) : Nat := v * 0x100000000 + 0xC0000
def VF_INFO_partition (v : Nat) : Fld := ⟨VF_INFO v, 0, 6⟩
def VF_INFO_bound (v : Nat) : Fld := ⟨VF_INFO v, 6, 1⟩
def VF_INFO_confidential (v : Nat) : Fld := ⟨VF_INFO v, 7, 1⟩
def VF_INFO_cores (v : Nat) : Fld := ⟨VF_INFO v, 8, 10⟩
def VF_INFO_stewards (v : Nat) : Fld := ⟨VF_INFO v, 18, 7⟩
def VF_EVENT (v : Nat) : Nat := v * 0x100000000 + 0xC0004
def VF_EVENT_composition (v : Nat) : Fld := ⟨VF_EVENT v, 0, 1⟩
def VF_EVENT_out_acked (v : Nat) : Fld := ⟨VF_EVENT v, 1, 1⟩
def VF_EVENT_in_msg (v : Nat) : Fld := ⟨VF_EVENT v, 2, 1⟩
def VF_EVENT_busy (v : Nat) : Fld := ⟨VF_EVENT v, 3, 1⟩
def VF_MBOX_CTRL (v : Nat) : Nat := v * 0x100000000 + 0xD0000
def VF_MBOX_CTRL_send (v : Nat) : Fld := ⟨VF_MBOX_CTRL v, 0, 1⟩
def VF_MBOX_CTRL_in_ack (v : Nat) : Fld := ⟨VF_MBOX_CTRL v, 1, 1⟩
def VF_MBOX_CTRL_out_busy (v : Nat) : Fld := ⟨VF_MBOX_CTRL v, 2, 1⟩
def VF_MBOX_CTRL_in_full (v : Nat) : Fld := ⟨VF_MBOX_CTRL v, 3, 1⟩
def VF_MBOX_OUT (v i : Nat) : Nat := v * 0x100000000 + 0xD0040 + i * 0x4
def VF_MBOX_OUT_word (v i : Nat) : Fld := ⟨VF_MBOX_OUT v i, 0, 32⟩
def VF_MBOX_IN (v i : Nat) : Nat := v * 0x100000000 + 0xD0080 + i * 0x4
def VF_MBOX_IN_word (v i : Nat) : Fld := ⟨VF_MBOX_IN v i, 0, 32⟩

/-! ### HOST block (R372) -/

def HOST_CTRL : Nat := 0x0004_0000
def HOST_CTRL_enable : Fld := ⟨HOST_CTRL, 0, 1⟩
def HOST_CTRL_lock : Fld := ⟨HOST_CTRL, 1, 1⟩
def HOST_STATUS : Nat := 0x0004_0000 + 0x4
def HOST_STATUS_running : Fld := ⟨HOST_STATUS, 0, 1⟩
def HOST_STATUS_bad_config : Fld := ⟨HOST_STATUS, 1, 1⟩
def HOST_EVENT : Nat := 0x0004_0000 + 0x8
def HOST_EVENT_ctx_lost : Fld := ⟨HOST_EVENT, 0, 1⟩
def HOST_EVENT_dep_lost : Fld := ⟨HOST_EVENT, 1, 1⟩
def HOST_EVENT_stale : Fld := ⟨HOST_EVENT, 2, 1⟩
def HOST_EVENT_fence_jump : Fld := ⟨HOST_EVENT, 3, 1⟩
def HOST_EVENT_tl_exhausted : Fld := ⟨HOST_EVENT, 4, 1⟩
def HOST_EVENT_db_bad : Fld := ⟨HOST_EVENT, 5, 1⟩
def HOST_EVENT_ref_bad : Fld := ⟨HOST_EVENT, 6, 1⟩
def HOST_EVENT_cpl_held : Fld := ⟨HOST_EVENT, 7, 1⟩
def HOST_CTX_BASE_LO : Nat := 0x0004_0000 + 0x10
def HOST_CTX_BASE_LO_base_lo : Fld := ⟨HOST_CTX_BASE_LO, 20, 12⟩
def HOST_CTX_BASE_HI : Nat := 0x0004_0000 + 0x14
def HOST_CTX_BASE_HI_base_hi : Fld := ⟨HOST_CTX_BASE_HI, 0, 10⟩
def HOST_Q_BASE_LO : Nat := 0x0004_0000 + 0x18
def HOST_Q_BASE_LO_base_lo : Fld := ⟨HOST_Q_BASE_LO, 20, 12⟩
def HOST_Q_BASE_HI : Nat := 0x0004_0000 + 0x1C
def HOST_Q_BASE_HI_base_hi : Fld := ⟨HOST_Q_BASE_HI, 0, 10⟩
def HOST_TL_BASE_LO : Nat := 0x0004_0000 + 0x20
def HOST_TL_BASE_LO_base_lo : Fld := ⟨HOST_TL_BASE_LO, 20, 12⟩
def HOST_TL_BASE_HI : Nat := 0x0004_0000 + 0x24
def HOST_TL_BASE_HI_base_hi : Fld := ⟨HOST_TL_BASE_HI, 0, 10⟩
def HOST_MO_BASE_LO : Nat := 0x0004_0000 + 0x28
def HOST_MO_BASE_LO_base_lo : Fld := ⟨HOST_MO_BASE_LO, 20, 12⟩
def HOST_MO_BASE_HI : Nat := 0x0004_0000 + 0x2C
def HOST_MO_BASE_HI_base_hi : Fld := ⟨HOST_MO_BASE_HI, 0, 10⟩
def HOST_CSW_BASE_LO : Nat := 0x0004_0000 + 0x30
def HOST_CSW_BASE_LO_base_lo : Fld := ⟨HOST_CSW_BASE_LO, 20, 12⟩
def HOST_CSW_BASE_HI : Nat := 0x0004_0000 + 0x34
def HOST_CSW_BASE_HI_base_hi : Fld := ⟨HOST_CSW_BASE_HI, 0, 10⟩
def HOST_MO_COUNT : Nat := 0x0004_0000 + 0x38
def HOST_MO_COUNT_entries : Fld := ⟨HOST_MO_COUNT, 0, 25⟩
def HOST_CSW_ENTRIES : Nat := 0x0004_0000 + 0x3C
def HOST_CSW_ENTRIES_words : Fld := ⟨HOST_CSW_ENTRIES, 0, 29⟩
def HOST_LOST_CNT : Nat := 0x0004_0000 + 0x40
def HOST_LOST_CNT_count : Fld := ⟨HOST_LOST_CNT, 0, 32⟩
def HOST_DEP_LOST_CNT : Nat := 0x0004_0000 + 0x44
def HOST_DEP_LOST_CNT_count : Fld := ⟨HOST_DEP_LOST_CNT, 0, 32⟩
def HOST_STALE_CNT : Nat := 0x0004_0000 + 0x48
def HOST_STALE_CNT_count : Fld := ⟨HOST_STALE_CNT, 0, 32⟩
def HOST_DB_BAD : Nat := 0x0004_0000 + 0x4C
def HOST_DB_BAD_count : Fld := ⟨HOST_DB_BAD, 0, 32⟩
def HOST_REF_BAD : Nat := 0x0004_0000 + 0x50
def HOST_REF_BAD_count : Fld := ⟨HOST_REF_BAD, 0, 32⟩
def HOST_PICKUP_SKIP : Nat := 0x0004_0000 + 0x60
def HOST_PICKUP_SKIP_count : Fld := ⟨HOST_PICKUP_SKIP, 0, 32⟩
def HOST_LAST_LOST : Nat := 0x0004_0000 + 0x54
def HOST_LAST_LOST_ctx : Fld := ⟨HOST_LAST_LOST, 0, 20⟩
def HOST_LAST_LOST_cause : Fld := ⟨HOST_LAST_LOST, 20, 8⟩
def HOST_LAST_LOST_valid : Fld := ⟨HOST_LAST_LOST, 31, 1⟩
def HOST_REF_LO : Nat := 0x0004_0000 + 0x58
def HOST_REF_LO_value : Fld := ⟨HOST_REF_LO, 0, 32⟩
def HOST_REF_HI : Nat := 0x0004_0000 + 0x5C
def HOST_REF_HI_upper : Fld := ⟨HOST_REF_HI, 0, 32⟩

/-! ### RAS block (R396) -/

def RAS_CTRL : Nat := 0x0008_0000
def RAS_CTRL_ring_en : Fld := ⟨RAS_CTRL, 0, 1⟩
def RAS_CTRL_send_faults : Fld := ⟨RAS_CTRL, 1, 1⟩
def RAS_STATUS : Nat := 0x0008_0000 + 0x4
def RAS_STATUS_system_ue : Fld := ⟨RAS_STATUS, 0, 1⟩
def RAS_STATUS_damper_full : Fld := ⟨RAS_STATUS, 1, 1⟩
def RAS_EVENT : Nat := 0x0008_0000 + 0x8
def RAS_EVENT_retired : Fld := ⟨RAS_EVENT, 0, 1⟩
def RAS_EVENT_data_lost : Fld := ⟨RAS_EVENT, 1, 1⟩
def RAS_EVENT_twin_repair : Fld := ⟨RAS_EVENT, 2, 1⟩
def RAS_EVENT_damp_first : Fld := ⟨RAS_EVENT, 3, 1⟩
def RAS_EVENT_damp_full : Fld := ⟨RAS_EVENT, 4, 1⟩
def RAS_EVENT_log_lost : Fld := ⟨RAS_EVENT, 5, 1⟩
def RAS_EVENT_system_ue : Fld := ⟨RAS_EVENT, 6, 1⟩
def RAS_EVENT_moraine_unsaved : Fld := ⟨RAS_EVENT, 7, 1⟩
def RAS_EVENT_reserve_empty : Fld := ⟨RAS_EVENT, 8, 1⟩
def RAS_RING_BASE_LO : Nat := 0x0008_0000 + 0x10
def RAS_RING_BASE_LO_base_lo : Fld := ⟨RAS_RING_BASE_LO, 20, 12⟩
def RAS_RING_BASE_HI : Nat := 0x0008_0000 + 0x14
def RAS_RING_BASE_HI_base_hi : Fld := ⟨RAS_RING_BASE_HI, 0, 10⟩
def RAS_RING_TAIL : Nat := 0x0008_0000 + 0x18
def RAS_RING_TAIL_count : Fld := ⟨RAS_RING_TAIL, 0, 32⟩
def RAS_RING_HEAD : Nat := 0x0008_0000 + 0x1C
def RAS_RING_HEAD_count : Fld := ⟨RAS_RING_HEAD, 0, 32⟩
def RAS_FAULT_COLLECT : Nat := 0x0008_0000 + 0x20
def RAS_FAULT_COLLECT_module_id : Fld := ⟨RAS_FAULT_COLLECT, 0, 16⟩
def RAS_FAULT_COLLECT_enable : Fld := ⟨RAS_FAULT_COLLECT, 16, 1⟩
def RAS_DAMP : Nat := 0x0008_0000 + 0x24
def RAS_DAMP_open : Fld := ⟨RAS_DAMP, 0, 13⟩
def RAS_DAMP_OVF : Nat := 0x0008_0000 + 0x28
def RAS_DAMP_OVF_count : Fld := ⟨RAS_DAMP_OVF, 0, 32⟩
def RAS_RESERVE0 : Nat := 0x0008_0000 + 0x30
def RAS_RESERVE0_reserve0 : Fld := ⟨RAS_RESERVE0, 0, 8⟩
def RAS_RESERVE0_reserve1 : Fld := ⟨RAS_RESERVE0, 8, 8⟩
def RAS_RESERVE0_reserve2 : Fld := ⟨RAS_RESERVE0, 16, 8⟩
def RAS_RESERVE0_reserve3 : Fld := ⟨RAS_RESERVE0, 24, 8⟩
def RAS_RESERVE1 : Nat := 0x0008_0000 + 0x34
def RAS_RESERVE1_reserve0 : Fld := ⟨RAS_RESERVE1, 0, 8⟩
def RAS_RESERVE1_reserve1 : Fld := ⟨RAS_RESERVE1, 8, 8⟩
def RAS_RESERVE1_reserve2 : Fld := ⟨RAS_RESERVE1, 16, 8⟩
def RAS_RESERVE1_reserve3 : Fld := ⟨RAS_RESERVE1, 24, 8⟩
def RAS_MORAINE_COUNT : Nat := 0x0008_0000 + 0x40
def RAS_MORAINE_COUNT_entries : Fld := ⟨RAS_MORAINE_COUNT, 0, 13⟩
def RAS_MORAINE_SEL : Nat := 0x0008_0000 + 0x44
def RAS_MORAINE_SEL_index : Fld := ⟨RAS_MORAINE_SEL, 0, 12⟩
def RAS_MORAINE_ENTRY (i : Nat) : Nat := 0x0008_0000 + 0x48 + i * 0x4
def RAS_MORAINE_ENTRY_word (i : Nat) : Fld := ⟨RAS_MORAINE_ENTRY i, 0, 32⟩
def RAS_MORAINE_CTRL : Nat := 0x0008_0000 + 0x58
def RAS_MORAINE_CTRL_remove : Fld := ⟨RAS_MORAINE_CTRL, 0, 1⟩
def RAS_HIST_SEL : Nat := 0x0008_0000 + 0x60
def RAS_HIST_SEL_index : Fld := ⟨RAS_HIST_SEL, 0, 4⟩
def RAS_HIST_SEL_unit : Fld := ⟨RAS_HIST_SEL, 16, 16⟩
def RAS_HIST : Nat := 0x0008_0000 + 0x64
def RAS_HIST_count : Fld := ⟨RAS_HIST, 0, 24⟩
def RAS_HIST_open : Fld := ⟨RAS_HIST, 24, 1⟩
def RAS_THRESH_N (i : Nat) : Nat := 0x0008_0000 + 0x100 + i * 0x8
def RAS_THRESH_N_count (i : Nat) : Fld := ⟨RAS_THRESH_N i, 0, 24⟩
def RAS_THRESH_W (i : Nat) : Nat := 0x0008_0000 + 0x104 + i * 0x8
def RAS_THRESH_W_seconds (i : Nat) : Fld := ⟨RAS_THRESH_W i, 0, 20⟩
def RAS_LOST_CNT (c : Nat) : Nat := 0x0008_0000 + 0x200 + c * 0x20
def RAS_LOST_CNT_count (c : Nat) : Fld := ⟨RAS_LOST_CNT c, 0, 32⟩
def RAS_LOST_FIRST_LO (c : Nat) : Nat := 0x0008_0000 + 0x204 + c * 0x20
def RAS_LOST_FIRST_LO_frame_lo (c : Nat) : Fld := ⟨RAS_LOST_FIRST_LO c, 0, 32⟩
def RAS_LOST_FIRST_HI (c : Nat) : Nat := 0x0008_0000 + 0x208 + c * 0x20
def RAS_LOST_FIRST_HI_frame_hi (c : Nat) : Fld := ⟨RAS_LOST_FIRST_HI c, 0, 16⟩
def RAS_LOST_LAST_LO (c : Nat) : Nat := 0x0008_0000 + 0x20C + c * 0x20
def RAS_LOST_LAST_LO_frame_lo (c : Nat) : Fld := ⟨RAS_LOST_LAST_LO c, 0, 32⟩
def RAS_LOST_LAST_HI (c : Nat) : Nat := 0x0008_0000 + 0x210 + c * 0x20
def RAS_LOST_LAST_HI_frame_hi (c : Nat) : Fld := ⟨RAS_LOST_LAST_HI c, 0, 16⟩

/-! ### PWR block (R418) -/

def PWR_CTRL : Nat := 0x000A_0000
def PWR_CTRL_boost_en : Fld := ⟨PWR_CTRL, 0, 1⟩
def PWR_CTRL_cap_irq_en : Fld := ⟨PWR_CTRL, 1, 1⟩
def PWR_CTRL_therm_irq_en : Fld := ⟨PWR_CTRL, 2, 1⟩
def PWR_STATUS : Nat := 0x000A_0000 + 0x4
def PWR_STATUS_ladder : Fld := ⟨PWR_STATUS, 0, 3⟩
def PWR_STATUS_cause : Fld := ⟨PWR_STATUS, 3, 1⟩
def PWR_STATUS_converters : Fld := ⟨PWR_STATUS, 4, 3⟩
def PWR_STATUS_input_ok : Fld := ⟨PWR_STATUS, 7, 1⟩
def PWR_STATUS_alert : Fld := ⟨PWR_STATUS, 8, 1⟩
def PWR_EVENT : Nat := 0x000A_0000 + 0x8
def PWR_EVENT_cap_unreachable : Fld := ⟨PWR_EVENT, 0, 1⟩
def PWR_EVENT_be_suspended : Fld := ⟨PWR_EVENT, 1, 1⟩
def PWR_EVENT_be_resumed : Fld := ⟨PWR_EVENT, 2, 1⟩
def PWR_EVENT_clamp : Fld := ⟨PWR_EVENT, 3, 1⟩
def PWR_EVENT_ramp_forced : Fld := ⟨PWR_EVENT, 4, 1⟩
def PWR_EVENT_thermal_warn : Fld := ⟨PWR_EVENT, 5, 1⟩
def PWR_EVENT_thermal_throttle : Fld := ⟨PWR_EVENT, 6, 1⟩
def PWR_EVENT_converter_fail : Fld := ⟨PWR_EVENT, 7, 1⟩
def PWR_EVENT_input_low : Fld := ⟨PWR_EVENT, 8, 1⟩
def PWR_EVENT_calib_drift : Fld := ⟨PWR_EVENT, 9, 1⟩
def PWR_CAP : Nat := 0x000A_0000 + 0x10
def PWR_CAP_watts : Fld := ⟨PWR_CAP, 0, 13⟩
def PWR_PEAK : Nat := 0x000A_0000 + 0x14
def PWR_PEAK_watts : Fld := ⟨PWR_PEAK, 0, 13⟩
def PWR_CAP_EFF : Nat := 0x000A_0000 + 0x18
def PWR_CAP_EFF_sustained : Fld := ⟨PWR_CAP_EFF, 0, 13⟩
def PWR_CAP_EFF_peak : Fld := ⟨PWR_CAP_EFF, 16, 13⟩
def PWR_GUARD : Nat := 0x000A_0000 + 0x1C
def PWR_GUARD_percent : Fld := ⟨PWR_GUARD, 0, 4⟩
def PWR_INPUT : Nat := 0x000A_0000 + 0x20
def PWR_INPUT_volts : Fld := ⟨PWR_INPUT, 0, 16⟩
def PWR_INPUT_amps : Fld := ⟨PWR_INPUT, 16, 16⟩
def PWR_INPUT_W : Nat := 0x000A_0000 + 0x24
def PWR_INPUT_W_now : Fld := ⟨PWR_INPUT_W, 0, 13⟩
def PWR_INPUT_W_peak : Fld := ⟨PWR_INPUT_W, 16, 13⟩
def PWR_BUCKET : Nat := 0x000A_0000 + 0x28
def PWR_BUCKET_mj : Fld := ⟨PWR_BUCKET, 0, 13⟩
def PWR_THERM : Nat := 0x000A_0000 + 0x2C
def PWR_THERM_warn_c : Fld := ⟨PWR_THERM, 0, 8⟩
def PWR_THERM_throttle_c : Fld := ⟨PWR_THERM, 8, 8⟩
def PWR_THERM_trip_c : Fld := ⟨PWR_THERM, 16, 8⟩
def PWR_CLAMP_CNT : Nat := 0x000A_0000 + 0x30
def PWR_CLAMP_CNT_count : Fld := ⟨PWR_CLAMP_CNT, 0, 32⟩
def PWR_RAMP_FORCED : Nat := 0x000A_0000 + 0x34
def PWR_RAMP_FORCED_count : Fld := ⟨PWR_RAMP_FORCED, 0, 32⟩
def PWR_UNREACH_FRAMES : Nat := 0x000A_0000 + 0x38
def PWR_UNREACH_FRAMES_count : Fld := ⟨PWR_UNREACH_FRAMES, 0, 32⟩
def PWR_RAIL_LIMIT (r : Nat) : Nat := 0x000A_0000 + 0x100 + r * 0x10
def PWR_RAIL_LIMIT_limit (r : Nat) : Fld := ⟨PWR_RAIL_LIMIT r, 0, 16⟩
def PWR_RAIL_LIMIT_clamp (r : Nat) : Fld := ⟨PWR_RAIL_LIMIT r, 16, 16⟩
def PWR_RAIL_EST (r : Nat) : Nat := 0x000A_0000 + 0x104 + r * 0x10
def PWR_RAIL_EST_now (r : Nat) : Fld := ⟨PWR_RAIL_EST r, 0, 16⟩
def PWR_RAIL_EST_peak (r : Nat) : Fld := ⟨PWR_RAIL_EST r, 16, 16⟩
def PWR_RAIL_MEAS (r : Nat) : Nat := 0x000A_0000 + 0x108 + r * 0x10
def PWR_RAIL_MEAS_mean (r : Nat) : Fld := ⟨PWR_RAIL_MEAS r, 0, 16⟩
def PWR_RAIL_MEAS_gain (r : Nat) : Fld := ⟨PWR_RAIL_MEAS r, 16, 16⟩
def PWR_RAIL_FOG (r : Nat) : Nat := 0x000A_0000 + 0x10C + r * 0x10
def PWR_RAIL_FOG_floor (r : Nat) : Fld := ⟨PWR_RAIL_FOG r, 0, 16⟩
def PWR_RAIL_FOG_fog (r : Nat) : Fld := ⟨PWR_RAIL_FOG r, 16, 16⟩
def PWR_DIE (c : Nat) : Nat := 0x000A_0000 + 0x400 + c * 0x4
def PWR_DIE_vpoint (c : Nat) : Fld := ⟨PWR_DIE c, 0, 4⟩
def PWR_DIE_duty (c : Nat) : Fld := ⟨PWR_DIE c, 4, 7⟩
def PWR_DIE_be_suspended (c : Nat) : Fld := ⟨PWR_DIE c, 11, 1⟩
def PWR_DIE_unreachable (c : Nat) : Fld := ⟨PWR_DIE c, 12, 1⟩
def PWR_DIE_fixed (c : Nat) : Fld := ⟨PWR_DIE c, 13, 1⟩
def PWR_BLOCK (b : Nat) : Nat := 0x000A_0000 + 0x500 + b * 0x4
def PWR_BLOCK_point (b : Nat) : Fld := ⟨PWR_BLOCK b, 0, 4⟩
def PWR_BLOCK_fixed (b : Nat) : Fld := ⟨PWR_BLOCK b, 4, 1⟩
def PWR_TEMP (d : Nat) : Nat := 0x000A_0000 + 0x600 + d * 0x4
def PWR_TEMP_temp (d : Nat) : Fld := ⟨PWR_TEMP d, 0, 8⟩
def PWR_TEMP_max (d : Nat) : Fld := ⟨PWR_TEMP d, 8, 8⟩
def PWR_TEMP_throttling (d : Nat) : Fld := ⟨PWR_TEMP d, 16, 1⟩

/-! ### SEC block (R438) -/

def SEC_STATUS : Nat := 0x000C_0000
def SEC_STATUS_rot_ready : Fld := ⟨SEC_STATUS, 0, 1⟩
def SEC_STATUS_conf_any : Fld := ⟨SEC_STATUS, 1, 1⟩
def SEC_STATUS_debug_unlocked : Fld := ⟨SEC_STATUS, 2, 1⟩
def SEC_STATUS_hss_ready : Fld := ⟨SEC_STATUS, 3, 1⟩
def SEC_STATUS_owner_valid : Fld := ⟨SEC_STATUS, 4, 4⟩
def SEC_STATUS_owner_revoked : Fld := ⟨SEC_STATUS, 8, 4⟩
def SEC_STATUS_vendor_valid : Fld := ⟨SEC_STATUS, 12, 2⟩
def SEC_EVENT : Nat := 0x000C_0000 + 0x4
def SEC_EVENT_sig_fail : Fld := ⟨SEC_EVENT, 0, 1⟩
def SEC_EVENT_hss_low : Fld := ⟨SEC_EVENT, 1, 1⟩
def SEC_EVENT_hss_unavailable : Fld := ⟨SEC_EVENT, 2, 1⟩
def SEC_EVENT_revoked : Fld := ⟨SEC_EVENT, 3, 1⟩
def SEC_EVENT_conf_refused : Fld := ⟨SEC_EVENT, 4, 1⟩
def SEC_EVENT_spdm_session : Fld := ⟨SEC_EVENT, 5, 1⟩
def SEC_KEYS : Nat := 0x000C_0000 + 0x8
def SEC_KEYS_identity : Fld := ⟨SEC_KEYS, 0, 1⟩
def SEC_KEYS_fleet : Fld := ⟨SEC_KEYS, 1, 1⟩
def SEC_KEYS_memory : Fld := ⟨SEC_KEYS, 2, 1⟩
def SEC_SERIAL (i : Nat) : Nat := 0x000C_0000 + 0x10 + i * 0x4
def SEC_SERIAL_serial (i : Nat) : Fld := ⟨SEC_SERIAL i, 0, 32⟩
def SEC_ORDER_CODE : Nat := 0x000C_0000 + 0x20
def SEC_ORDER_CODE_code : Fld := ⟨SEC_ORDER_CODE, 0, 14⟩
def SEC_SIG_FAIL : Nat := 0x000C_0000 + 0x24
def SEC_SIG_FAIL_object : Fld := ⟨SEC_SIG_FAIL, 0, 4⟩
def SEC_SIG_FAIL_result : Fld := ⟨SEC_SIG_FAIL, 4, 2⟩
def SEC_SIG_FAIL_slot : Fld := ⟨SEC_SIG_FAIL, 6, 3⟩
def SEC_HSS_NEXT_LO : Nat := 0x000C_0000 + 0x28
def SEC_HSS_NEXT_LO_next_lo : Fld := ⟨SEC_HSS_NEXT_LO, 0, 32⟩
def SEC_HSS_NEXT_HI : Nat := 0x000C_0000 + 0x2C
def SEC_HSS_NEXT_HI_next_hi : Fld := ⟨SEC_HSS_NEXT_HI, 0, 8⟩
def SEC_HSS_RSV_LO : Nat := 0x000C_0000 + 0x30
def SEC_HSS_RSV_LO_end_lo : Fld := ⟨SEC_HSS_RSV_LO, 0, 32⟩
def SEC_HSS_RSV_HI : Nat := 0x000C_0000 + 0x34
def SEC_HSS_RSV_HI_end_hi : Fld := ⟨SEC_HSS_RSV_HI, 0, 8⟩
def SEC_CONF_LO : Nat := 0x000C_0000 + 0x38
def SEC_CONF_LO_conf_lo : Fld := ⟨SEC_CONF_LO, 0, 32⟩
def SEC_CONF_HI : Nat := 0x000C_0000 + 0x3C
def SEC_CONF_HI_conf_hi : Fld := ⟨SEC_CONF_HI, 0, 32⟩
def SEC_REFUSED : Nat := 0x000C_0000 + 0x40
def SEC_REFUSED_count : Fld := ⟨SEC_REFUSED, 0, 32⟩
def SEC_REV_SRC_LO : Nat := 0x000C_0000 + 0x50
def SEC_REV_SRC_LO_src_lo : Fld := ⟨SEC_REV_SRC_LO, 0, 32⟩
def SEC_REV_SRC_HI : Nat := 0x000C_0000 + 0x54
def SEC_REV_SRC_HI_src_hi : Fld := ⟨SEC_REV_SRC_HI, 0, 10⟩
def SEC_REV_CTRL : Nat := 0x000C_0000 + 0x58
def SEC_REV_CTRL_go : Fld := ⟨SEC_REV_CTRL, 0, 1⟩
def SEC_REV_CTRL_status : Fld := ⟨SEC_REV_CTRL, 4, 2⟩
def SEC_REV_CTRL_code : Fld := ⟨SEC_REV_CTRL, 8, 8⟩

/-! ### LCS block (R452) -/

def LCS_STATE : Nat := 0x000D_0000
def LCS_STATE_state : Fld := ⟨LCS_STATE, 0, 3⟩
def LCS_STATE_boot_mode : Fld := ⟨LCS_STATE, 3, 2⟩
def LCS_STATE_resumed : Fld := ⟨LCS_STATE, 5, 1⟩
def LCS_STATE_busy : Fld := ⟨LCS_STATE, 6, 1⟩
def LCS_STATE_debug_unlocked : Fld := ⟨LCS_STATE, 7, 1⟩
def LCS_STATE_debug_slot : Fld := ⟨LCS_STATE, 8, 3⟩
def LCS_WORDS : Nat := 0x000D_0000 + 0x4
def LCS_WORDS_words : Fld := ⟨LCS_WORDS, 0, 32⟩
def LCS_KILL : Nat := 0x000D_0000 + 0x8
def LCS_KILL_words : Fld := ⟨LCS_KILL, 0, 24⟩
def LCS_CTRL : Nat := 0x000D_0000 + 0xC
def LCS_CTRL_go : Fld := ⟨LCS_CTRL, 0, 1⟩
def LCS_CTRL_new_challenge : Fld := ⟨LCS_CTRL, 1, 1⟩
def LCS_CTRL_relock : Fld := ⟨LCS_CTRL, 2, 1⟩
def LCS_RESULT : Nat := 0x000D_0000 + 0x10
def LCS_RESULT_status : Fld := ⟨LCS_RESULT, 0, 2⟩
def LCS_RESULT_kind : Fld := ⟨LCS_RESULT, 2, 2⟩
def LCS_RESULT_code : Fld := ⟨LCS_RESULT, 8, 8⟩
def LCS_EVENT : Nat := 0x000D_0000 + 0x14
def LCS_EVENT_transition : Fld := ⟨LCS_EVENT, 0, 1⟩
def LCS_EVENT_unlocked : Fld := ⟨LCS_EVENT, 1, 1⟩
def LCS_EVENT_rejected : Fld := ⟨LCS_EVENT, 2, 1⟩
def LCS_EVENT_burn_fail : Fld := ⟨LCS_EVENT, 3, 1⟩
def LCS_CHALLENGE (i : Nat) : Nat := 0x000D_0000 + 0x20 + i * 0x4
def LCS_CHALLENGE_challenge (i : Nat) : Fld := ⟨LCS_CHALLENGE i, 0, 32⟩
def LCS_NEXT_BOOT : Nat := 0x000D_0000 + 0x30
def LCS_NEXT_BOOT_mode : Fld := ⟨LCS_NEXT_BOOT, 0, 2⟩
def LCS_NEXT_BOOT_en : Fld := ⟨LCS_NEXT_BOOT, 2, 1⟩
def LCS_TOKEN_BUF (i : Nat) : Nat := 0x000D_0000 + 0x1000 + i * 0x4
def LCS_TOKEN_BUF_word (i : Nat) : Fld := ⟨LCS_TOKEN_BUF i, 0, 32⟩

/-! ### RST block (R467) -/

def RST_CAUSE : Nat := 0x000E_0000
def RST_CAUSE_first : Fld := ⟨RST_CAUSE, 0, 5⟩
def RST_CAUSE_wdt_step : Fld := ⟨RST_CAUSE, 8, 4⟩
def RST_CAUSE_early_wdt : Fld := ⟨RST_CAUSE, 12, 2⟩
def RST_SOURCES : Nat := 0x000E_0000 + 0x4
def RST_SOURCES_seen : Fld := ⟨RST_SOURCES, 0, 16⟩
def RST_COUNT : Nat := 0x000E_0000 + 0x8
def RST_COUNT_resets : Fld := ⟨RST_COUNT, 0, 32⟩
def RST_CFG : Nat := 0x000E_0000 + 0xC
def RST_CFG_perst_scope : Fld := ⟨RST_CFG, 0, 1⟩
def RST_CFG_hotrst_scope : Fld := ⟨RST_CFG, 1, 1⟩
def RST_CTRL : Nat := 0x000E_0000 + 0x10
def RST_CTRL_key : Fld := ⟨RST_CTRL, 0, 8⟩
def RST_CTRL_module_reset : Fld := ⟨RST_CTRL, 8, 1⟩
def RST_LAST_HOST : Nat := 0x000E_0000 + 0x14
def RST_LAST_HOST_source : Fld := ⟨RST_LAST_HOST, 0, 4⟩
def RST_LAST_HOST_function : Fld := ⟨RST_LAST_HOST, 4, 7⟩
def RST_LAST_HOST_valid : Fld := ⟨RST_LAST_HOST, 31, 1⟩
def RST_HOLDOFF : Nat := 0x000E_0000 + 0x18
def RST_HOLDOFF_us : Fld := ⟨RST_HOLDOFF, 0, 11⟩
def RST_HOLDOFF_reason : Fld := ⟨RST_HOLDOFF, 12, 2⟩
def RST_BRINGUP : Nat := 0x000E_0000 + 0x20
def RST_BRINGUP_step : Fld := ⟨RST_BRINGUP, 0, 4⟩
def RST_BRINGUP_halted : Fld := ⟨RST_BRINGUP, 4, 1⟩
def RST_BRINGUP_fail : Fld := ⟨RST_BRINGUP, 8, 8⟩
def RST_BRINGUP_detail : Fld := ⟨RST_BRINGUP, 16, 4⟩
def RST_WDT : Nat := 0x000E_0000 + 0x24
def RST_WDT_timeout_s : Fld := ⟨RST_WDT, 0, 6⟩
def RST_EVENT : Nat := 0x000E_0000 + 0x28
def RST_EVENT_bringup_done : Fld := ⟨RST_EVENT, 0, 1⟩
def RST_EVENT_swrst_done : Fld := ⟨RST_EVENT, 1, 1⟩
def RST_EVENT_swrst_refused : Fld := ⟨RST_EVENT, 2, 1⟩
def RST_EVENT_host_reset : Fld := ⟨RST_EVENT, 3, 1⟩
def RST_SWRST : Nat := 0x000E_0000 + 0x30
def RST_SWRST_block : Fld := ⟨RST_SWRST, 0, 5⟩
def RST_SWRST_index : Fld := ⟨RST_SWRST, 16, 10⟩
def RST_SWRST_kind : Fld := ⟨RST_SWRST, 28, 1⟩
def RST_SWRST_go : Fld := ⟨RST_SWRST, 29, 1⟩
def RST_SWRST_STATUS : Nat := 0x000E_0000 + 0x34
def RST_SWRST_STATUS_status : Fld := ⟨RST_SWRST_STATUS, 0, 2⟩
def RST_SWRST_STATUS_code : Fld := ⟨RST_SWRST_STATUS, 4, 2⟩
def RST_CLK_SEL : Nat := 0x000E_0000 + 0x40
def RST_CLK_SEL_domain : Fld := ⟨RST_CLK_SEL, 0, 8⟩
def RST_CLK_STAT : Nat := 0x000E_0000 + 0x44
def RST_CLK_STAT_mhz : Fld := ⟨RST_CLK_STAT, 0, 13⟩
def RST_CLK_STAT_locked : Fld := ⟨RST_CLK_STAT, 13, 1⟩
def RST_CLK_STAT_gated : Fld := ⟨RST_CLK_STAT, 14, 1⟩
def RST_STEP_MS (i : Nat) : Nat := 0x000E_0000 + 0x100 + i * 0x4
def RST_STEP_MS_ms (i : Nat) : Fld := ⟨RST_STEP_MS i, 0, 16⟩

/-! ### NVJ block (R490) -/

def NVJ_STATUS : Nat := 0x000F_0000
def NVJ_STATUS_mounted : Fld := ⟨NVJ_STATUS, 0, 1⟩
def NVJ_STATUS_active_half : Fld := ⟨NVJ_STATUS, 1, 1⟩
def NVJ_STATUS_compacting : Fld := ⟨NVJ_STATUS, 2, 1⟩
def NVJ_STATUS_erase_suspended : Fld := ⟨NVJ_STATUS, 3, 1⟩
def NVJ_EVENT : Nat := 0x000F_0000 + 0x4
def NVJ_EVENT_compaction_done : Fld := ⟨NVJ_EVENT, 0, 1⟩
def NVJ_EVENT_write_fail : Fld := ⟨NVJ_EVENT, 1, 1⟩
def NVJ_EVENT_fw_revert : Fld := ⟨NVJ_EVENT, 2, 1⟩
def NVJ_EVENT_ddr_done : Fld := ⟨NVJ_EVENT, 3, 1⟩
def NVJ_EVENT_resumed_scan : Fld := ⟨NVJ_EVENT, 4, 1⟩
def NVJ_USED : Nat := 0x000F_0000 + 0x8
def NVJ_USED_kib : Fld := ⟨NVJ_USED, 0, 15⟩
def NVJ_GEN : Nat := 0x000F_0000 + 0xC
def NVJ_GEN_value : Fld := ⟨NVJ_GEN, 0, 32⟩
def NVJ_COMPACT : Nat := 0x000F_0000 + 0x10
def NVJ_COMPACT_value : Fld := ⟨NVJ_COMPACT, 0, 32⟩
def NVJ_SEQ_LO : Nat := 0x000F_0000 + 0x18
def NVJ_SEQ_LO_seq_lo : Fld := ⟨NVJ_SEQ_LO, 0, 32⟩
def NVJ_SEQ_HI : Nat := 0x000F_0000 + 0x1C
def NVJ_SEQ_HI_seq_hi : Fld := ⟨NVJ_SEQ_HI, 0, 32⟩
def NVJ_FW_STATE (p : Nat) : Nat := 0x000F_0000 + 0x40 + p * 0x4
def NVJ_FW_STATE_in_use (p : Nat) : Fld := ⟨NVJ_FW_STATE p, 0, 1⟩
def NVJ_FW_STATE_trial (p : Nat) : Fld := ⟨NVJ_FW_STATE p, 1, 1⟩
def NVJ_FW_STATE_a_valid (p : Nat) : Fld := ⟨NVJ_FW_STATE p, 2, 1⟩
def NVJ_FW_STATE_b_valid (p : Nat) : Fld := ⟨NVJ_FW_STATE p, 3, 1⟩
def NVJ_FW_STATE_running (p : Nat) : Fld := ⟨NVJ_FW_STATE p, 16, 16⟩
def NVJ_FW_VER (p : Nat) : Nat := 0x000F_0000 + 0x60 + p * 0x4
def NVJ_FW_VER_ver_a (p : Nat) : Fld := ⟨NVJ_FW_VER p, 0, 16⟩
def NVJ_FW_VER_ver_b (p : Nat) : Fld := ⟨NVJ_FW_VER p, 16, 16⟩
def NVJ_FW_CTRL : Nat := 0x000F_0000 + 0x80
def NVJ_FW_CTRL_part : Fld := ⟨NVJ_FW_CTRL, 0, 2⟩
def NVJ_FW_CTRL_slot : Fld := ⟨NVJ_FW_CTRL, 2, 1⟩
def NVJ_FW_CTRL_go : Fld := ⟨NVJ_FW_CTRL, 3, 1⟩
def NVJ_DDR_CTRL : Nat := 0x000F_0000 + 0xA0
def NVJ_DDR_CTRL_channel : Fld := ⟨NVJ_DDR_CTRL, 0, 4⟩
def NVJ_DDR_CTRL_op : Fld := ⟨NVJ_DDR_CTRL, 4, 1⟩
def NVJ_DDR_CTRL_go : Fld := ⟨NVJ_DDR_CTRL, 5, 1⟩
def NVJ_DDR_STATUS : Nat := 0x000F_0000 + 0xA4
def NVJ_DDR_STATUS_status : Fld := ⟨NVJ_DDR_STATUS, 0, 2⟩
def NVJ_DDR_STATUS_powered_off : Fld := ⟨NVJ_DDR_STATUS, 2, 1⟩
def NVJ_DDR_STATUS_code : Fld := ⟨NVJ_DDR_STATUS, 8, 4⟩

/-! ### Descriptors, one list per block -/

/-- Registers of a TICK block, offsets from the block's base. -/
def regsTICK : List RegDesc := [
  ⟨0x0, 0x0, 1, 0x0, 1, 0x16, 0x1E, 0x0, 0x0, 0⟩,  -- TICK_CTRL
  ⟨0x4, 0x0, 1, 0x0, 1, 0x0, 0x0, 0x0, 0x0, 0⟩,  -- TICK_STATUS
  ⟨0x8, 0x0, 1, 0x0, 1, 0x4E20, 0x0, 0x0, 0x0, 0⟩,  -- TICK_PERIOD
  ⟨0xC, 0x0, 1, 0x0, 1, 0x400, 0x0, 0x0, 0x0, 0⟩,  -- TICK_SHUTTER
  ⟨0x10, 0x0, 1, 0x0, 1, 0x0, 0x0, 0x0, 0x0, 1⟩,  -- TICK_FRAME_LO
  ⟨0x14, 0x0, 1, 0x0, 1, 0x0, 0x0, 0x0, 0x0, 2⟩,  -- TICK_FRAME_HI
  ⟨0x18, 0x0, 1, 0x0, 1, 0x0, 0x0, 0x0, 0x0, 0⟩,  -- TICK_PHASE
  ⟨0x1C, 0x0, 1, 0x0, 1, 0x0, 0x0, 0x0, 0x0, 0⟩,  -- TICK_OFFSET
  ⟨0x20, 0x0, 1, 0x0, 1, 0x0, 0x0, 0x0, 0x0, 0⟩,  -- TICK_HOLDOVER
  ⟨0x24, 0x0, 1, 0x0, 1, 0x0, 0x0, 0xFF, 0x0, 0⟩,  -- TICK_EVENT
  ⟨0x28, 0x0, 1, 0x0, 1, 0x0, 0xFFFFFFFF, 0x0, 0x0, 0⟩,  -- TICK_OVERRUN_CNT
  ⟨0x2C, 0x0, 1, 0x0, 1, 0x0, 0xFFFFFFFF, 0x0, 0x0, 0⟩]  -- TICK_BUDGET_CNT

/-- Registers of a CORE block, offsets from the block's base. -/
def regsCORE : List RegDesc := [
  ⟨0x0, 0x0, 1, 0x0, 1, 0x0, 0x0, 0x0, 0x0, 0⟩,  -- CORE_STATE
  ⟨0x4, 0x0, 1, 0x0, 1, 0x0, 0x0, 0x0, 0x0, 0⟩,  -- CORE_BIND
  ⟨0x8, 0x0, 1, 0x0, 1, 0x0, 0x0, 0x0, 0x0, 0⟩,  -- CORE_CTX
  ⟨0xC, 0x0, 1, 0x0, 1, 0x0, 0x0, 0x0, 0x0, 0⟩,  -- CORE_CTRL
  ⟨0x10, 0x0, 1, 0x0, 1, 0x0, 0xFFFFFFFF, 0x0, 0x0, 0⟩,  -- CORE_OVERRUN
  ⟨0x14, 0x0, 1, 0x0, 1, 0x0, 0xFFFFFFFF, 0x0, 0x0, 0⟩,  -- CORE_HELD_XLAT
  ⟨0x18, 0x0, 1, 0x0, 1, 0x0, 0xFFFFFFFF, 0x0, 0x0, 0⟩,  -- CORE_HELD_PWR
  ⟨0x1C, 0x0, 1, 0x0, 1, 0x0, 0xFFFFFFFF, 0x0, 0x0, 0⟩,  -- CORE_TILES
  ⟨0x20, 0x0, 1, 0x0, 1, 0x0, 0xFFFFFFFF, 0x0, 0x0, 0⟩,  -- CORE_RESIDUE
  ⟨0x24, 0x0, 1, 0x0, 1, 0x0, 0xFFFFFFFF, 0x0, 0x0, 0⟩,  -- CORE_PLATE_ECC
  ⟨0x28, 0x0, 1, 0x0, 1, 0x0, 0xFFFFFFFF, 0x0, 0x0, 0⟩,  -- CORE_ACC_ERR
  ⟨0x2C, 0x0, 1, 0x0, 1, 0x0, 0x0, 0x0, 0x0, 0⟩,  -- CORE_OPSTORE
  ⟨0x30, 0x0, 1, 0x0, 1, 0x0, 0x0, 0x0, 0x0, 0⟩,  -- CORE_TAGS
  ⟨0x34, 0x0, 1, 0x0, 1, 0x0, 0x0, 0x0, 0x0, 0⟩,  -- CORE_XRATE_MEM
  ⟨0x38, 0x0, 1, 0x0, 1, 0x0, 0x0, 0x0, 0x0, 0⟩,  -- CORE_XRATE_HOST
  ⟨0x3C, 0x0, 1, 0x0, 1, 0x0, 0x0, 0x0, 0x0, 0⟩,  -- CORE_FAULT
  ⟨0x40, 0x0, 1, 0x0, 1, 0x0, 0x0, 0x0, 0x0, 0⟩]  -- CORE_FAULT_CTX

/-- Registers of a STW block, offsets from the block's base. -/
def regsSTW : List RegDesc := [
  ⟨0x0, 0x0, 1, 0x0, 1, 0x0, 0x0, 0x0, 0x0, 0⟩,  -- STW_STATE
  ⟨0x4, 0x0, 1, 0x0, 1, 0x0, 0x0, 0x0, 0x0, 0⟩,  -- STW_BIND
  ⟨0x8, 0x0, 1, 0x0, 1, 0x0, 0x0, 0x0, 0x0, 0⟩,  -- STW_HARTS
  ⟨0xC, 0x0, 1, 0x0, 1, 0x0, 0x0, 0x0, 0x0, 0⟩,  -- STW_CTRL
  ⟨0x10, 0x0, 1, 0x0, 1, 0x0, 0xFFFFFFFF, 0x0, 0x0, 0⟩,  -- STW_LIST_LATE
  ⟨0x14, 0x0, 1, 0x0, 1, 0x0, 0xFFFFFFFF, 0x0, 0x0, 0⟩,  -- STW_LIST_DROP
  ⟨0x18, 0x0, 1, 0x0, 1, 0x0, 0xFFFFFFFF, 0x0, 0x0, 0⟩,  -- STW_TCM_ECC
  ⟨0x1C, 0x0, 1, 0x0, 1, 0x0, 0x0, 0x0, 0x0, 0⟩,  -- STW_FAULT
  ⟨0x20, 0x0, 1, 0x0, 1, 0x0, 0x0, 0x0, 0x0, 0⟩,  -- STW_FAULT_CTX
  ⟨0x24, 0x0, 1, 0x0, 1, 0x0, 0x0, 0x0, 0x0, 0⟩]  -- STW_FW

/-- Registers of a MEM block, offsets from the block's base. -/
def regsMEM : List RegDesc := [
  ⟨0x0, 0x0, 1, 0x0, 1, 0x0, 0x0, 0x0, 0x0, 0⟩,  -- MEM_STATUS
  ⟨0x4, 0x0, 1, 0x0, 1, 0x0, 0x0, 0x0, 0x0, 0⟩,  -- MEM_HBM_CFG
  ⟨0x10, 0x0, 1, 0x0, 1, 0x0, 0x0, 0x0, 0x0, 0⟩,  -- MEM_DDR_CH0
  ⟨0x14, 0x0, 1, 0x0, 1, 0x0, 0x0, 0x0, 0x0, 0⟩,  -- MEM_DDR_CH1
  ⟨0x18, 0x0, 1, 0x0, 1, 0x0, 0x0, 0x0, 0x0, 0⟩,  -- MEM_DDR_CH2
  ⟨0x20, 0x0, 1, 0x0, 1, 0x100, 0x100, 0x0, 0x0, 0⟩,  -- MEM_CTRL
  ⟨0x24, 0x0, 1, 0x0, 1, 0x18, 0xFF, 0x0, 0x0, 0⟩,  -- MEM_SCRUB_PERIOD
  ⟨0x30, 0x0, 1, 0x0, 1, 0x0, 0xFFFFFFFF, 0x0, 0x0, 0⟩,  -- MEM_ENL_MERGED
  ⟨0x34, 0x0, 1, 0x0, 1, 0x0, 0xFFFFFFFF, 0x0, 0x0, 0⟩,  -- MEM_ENL_BYPASS
  ⟨0x38, 0x0, 1, 0x0, 1, 0x0, 0x1FFFF, 0x0, 0x0, 0⟩,  -- MEM_ENL_PEAK
  ⟨0x1000, 0x8, 131, 0x0, 1, 0x0, 0xFFFFFFFF, 0x0, 0x0, 0⟩,  -- MEM_ECC
  ⟨0x1404, 0x8, 3, 0x0, 1, 0x0, 0xFFFFFFFF, 0x0, 0x0, 0⟩,  -- MEM_INTEG
  ⟨0x2000, 0x4, 128, 0x0, 1, 0x0, 0x0, 0x0, 0x0, 0⟩,  -- MEM_HCH_OWNER
  ⟨0x3000, 0x400, 3, 0x4, 248, 0x0, 0x0, 0x0, 0x0, 0⟩,  -- MEM_DDR_GIB
  ⟨0x4000, 0x8, 131, 0x0, 1, 0x0, 0x0, 0x0, 0x0, 1⟩,  -- MEM_FILL_LO
  ⟨0x4004, 0x8, 131, 0x0, 1, 0x0, 0x0, 0x0, 0x0, 2⟩,  -- MEM_FILL_HI
  ⟨0x10000, 0x40, 131, 0x8, 8, 0x0, 0x0, 0x0, 0x0, 0⟩,  -- MEM_LAT
  ⟨0x10004, 0x40, 131, 0x8, 8, 0x0, 0x0, 0x0, 0x0, 0⟩,  -- MEM_LAT_RC
  ⟨0x5000, 0x10, 5, 0x0, 1, 0x2A080, 0x0, 0x0, 0x0, 0⟩,  -- MEM_SEAM_STATE
  ⟨0x5004, 0x10, 5, 0x0, 1, 0x0, 0xFFFFFFFF, 0x0, 0x0, 0⟩,  -- MEM_SEAM_REPLAY
  ⟨0x5008, 0x10, 5, 0x0, 1, 0x0, 0x0, 0x0, 0x0, 0⟩,  -- MEM_SEAM_LOAD
  ⟨0x500C, 0x10, 5, 0x0, 1, 0x0, 0x0, 0x0, 0x0, 0⟩,  -- MEM_SEAM_CTRL
  ⟨0x6000, 0x20, 2, 0x0, 1, 0x0, 0x8, 0x0, 0x0, 0⟩,  -- MEM_MIG_CTRL
  ⟨0x6004, 0x20, 2, 0x0, 1, 0x0, 0xFFFFFF, 0x0, 0x0, 0⟩,  -- MEM_MIG_SRC
  ⟨0x6008, 0x20, 2, 0x0, 1, 0x0, 0x1FFFF, 0x0, 0x0, 0⟩,  -- MEM_MIG_DST
  ⟨0x600C, 0x20, 2, 0x0, 1, 0x10, 0x7F, 0x0, 0x0, 0⟩,  -- MEM_MIG_SLICE
  ⟨0x6010, 0x20, 2, 0x0, 1, 0x0, 0x0, 0x0, 0x0, 0⟩,  -- MEM_MIG_STATE
  ⟨0x6014, 0x20, 2, 0x0, 1, 0x0, 0x0, 0x0, 0x0, 0⟩,  -- MEM_MIG_DONE
  ⟨0x6018, 0x20, 2, 0x0, 1, 0x0, 0xFFFFFFFF, 0x0, 0x0, 0⟩,  -- MEM_MIG_STALL
  ⟨0x6080, 0x8, 2, 0x0, 1, 0x0, 0x0, 0x0, 0x0, 1⟩,  -- MEM_MIG_BAD_LO
  ⟨0x6084, 0x8, 2, 0x0, 1, 0x0, 0x0, 0x0, 0x0, 2⟩]  -- MEM_MIG_BAD_HI

/-- Registers of a SEQ block, offsets from the block's base. -/
def regsSEQ : List RegDesc := [
  ⟨0x0, 0x0, 1, 0x0, 1, 0x0, 0x0, 0x0, 0x0, 0⟩,  -- SEQ_STATUS
  ⟨0x4, 0x0, 1, 0x0, 1, 0x0, 0x0, 0x3F, 0x0, 0⟩,  -- SEQ_EVENT
  ⟨0x10, 0x4, 4, 0x0, 1, 0x0, 0x0, 0x0, 0x0, 0⟩,  -- SEQ_ACTIVE
  ⟨0x20, 0x0, 1, 0x0, 1, 0x0, 0x0, 0x0, 0x0, 0⟩,  -- SEQ_LAST_LOST
  ⟨0x30, 0x0, 1, 0x0, 1, 0x0, 0xFFFFFFFF, 0x0, 0x0, 0⟩,  -- SEQ_PULLS
  ⟨0x34, 0x0, 1, 0x0, 1, 0x0, 0xFFFFFFFF, 0x0, 0x0, 0⟩,  -- SEQ_DEMOTES
  ⟨0x38, 0x0, 1, 0x0, 1, 0x0, 0xFFFFFFFF, 0x0, 0x0, 0⟩,  -- SEQ_HELD
  ⟨0x3C, 0x0, 1, 0x0, 1, 0x0, 0xFFFFFFFF, 0x0, 0x0, 0⟩,  -- SEQ_LEASE_IGNORED
  ⟨0x1000, 0x10, 512, 0x0, 1, 0x0, 0xFFFF0000, 0x0, 0x0, 1⟩,  -- SEQ_POOL_BASE_LO
  ⟨0x1004, 0x10, 512, 0x0, 1, 0x0, 0x3FF, 0x0, 0x0, 2⟩,  -- SEQ_POOL_BASE_HI
  ⟨0x1008, 0x10, 512, 0x0, 1, 0x0, 0x1FFFFF, 0x0, 0x0, 0⟩,  -- SEQ_POOL_PAGES
  ⟨0x100C, 0x10, 512, 0x0, 1, 0x0, 0x0, 0x0, 0x0, 0⟩]  -- SEQ_POOL_FREE

/-- Registers of a XLAT block, offsets from the block's base. -/
def regsXLAT : List RegDesc := [
  ⟨0x0, 0x0, 1, 0x0, 1, 0x0, 0x0, 0xF, 0x0, 0⟩,  -- XLAT_EVENT
  ⟨0x4, 0x0, 1, 0x0, 1, 0x0, 0x0, 0x0, 0x0, 0⟩,  -- XLAT_MODULE_ID
  ⟨0x8, 0x0, 1, 0x0, 1, 0x3E8, 0xFFFF, 0x0, 0x0, 0⟩,  -- XLAT_PRI_TIMEOUT
  ⟨0xC, 0x0, 1, 0x0, 1, 0x0, 0xFFFFFFF, 0x0, 0x0, 0⟩,  -- XLAT_FLUSH
  ⟨0x10, 0x0, 1, 0x0, 1, 0x0, 0x0, 0x0, 0x0, 1⟩,  -- XLAT_FAULT_VA_LO
  ⟨0x14, 0x0, 1, 0x0, 1, 0x0, 0x0, 0x0, 0x0, 2⟩,  -- XLAT_FAULT_VA_HI
  ⟨0x18, 0x0, 1, 0x0, 1, 0x0, 0x0, 0x0, 0x0, 0⟩,  -- XLAT_FAULT_INFO
  ⟨0x100, 0x4, 65, 0x0, 1, 0x4000, 0x7FFF, 0x0, 0x0, 0⟩,  -- XLAT_QUOTA
  ⟨0x1000, 0x20, 4, 0x0, 1, 0x0, 0xFFFFFFFF, 0x0, 0x0, 0⟩,  -- XLAT_HITS
  ⟨0x1004, 0x20, 4, 0x0, 1, 0x0, 0xFFFFFFFF, 0x0, 0x0, 0⟩,  -- XLAT_MISSES
  ⟨0x1008, 0x20, 4, 0x0, 1, 0x0, 0x0, 0x0, 0x0, 0⟩,  -- XLAT_ENTRIES
  ⟨0x100C, 0x20, 4, 0x0, 1, 0x0, 0xFFFFFFFF, 0x0, 0x0, 0⟩,  -- XLAT_INV
  ⟨0x1010, 0x20, 4, 0x0, 1, 0x0, 0xFFFFFC00, 0x0, 0x0, 0⟩]  -- XLAT_PRI

/-- Registers of a LINK block, offsets from the block's base. -/
def regsLINK : List RegDesc := [
  ⟨0x0, 0x0, 1, 0x0, 1, 0x0, 0x0, 0x0, 0x0, 0⟩,  -- LINK_STATE
  ⟨0x4, 0x0, 1, 0x0, 1, 0x0, 0x0, 0x0, 0x0, 0⟩,  -- LINK_PEER
  ⟨0x8, 0x0, 1, 0x0, 1, 0x0, 0x0, 0x0, 0x0, 0⟩,  -- LINK_PEER_CODE
  ⟨0xC, 0x0, 1, 0x0, 1, 0x0, 0x0, 0x0, 0x0, 0⟩,  -- LINK_LANES
  ⟨0x10, 0x0, 1, 0x0, 1, 0x0, 0x0, 0x0, 0x0, 0⟩,  -- LINK_EPOCH
  ⟨0x14, 0x0, 1, 0x0, 1, 0x0, 0x0, 0x0, 0x0, 0⟩,  -- LINK_DELAY
  ⟨0x18, 0x0, 1, 0x0, 1, 0x1, 0x1, 0x0, 0x0, 0⟩,  -- LINK_CTRL
  ⟨0x1C, 0x0, 1, 0x0, 1, 0x0, 0x0, 0x1FF, 0x0, 0⟩,  -- LINK_EVENT
  ⟨0x20, 0x0, 1, 0x0, 1, 0x0, 0xFFFFFFFF, 0x0, 0x0, 0⟩,  -- LINK_REPLAY
  ⟨0x24, 0x0, 1, 0x0, 1, 0x0, 0xFFFFFFFF, 0x0, 0x0, 0⟩,  -- LINK_TAG_FAIL
  ⟨0x28, 0x0, 1, 0x0, 1, 0x0, 0xFFFFFFFF, 0x0, 0x0, 0⟩,  -- LINK_AUTH_FAIL
  ⟨0x30, 0x0, 1, 0x0, 1, 0x0, 0xFFFFFFFF, 0x0, 0x0, 0⟩,  -- LINK_SCHED_MISS
  ⟨0x2C, 0x0, 1, 0x0, 1, 0x0, 0xFFFFFFFF, 0x0, 0x0, 0⟩,  -- LINK_DROP
  ⟨0x34, 0x0, 1, 0x0, 1, 0x0, 0x0, 0x0, 0x0, 0⟩,  -- LINK_UTIL
  ⟨0x100, 0x4, 16, 0x0, 1, 0x0, 0xFFFFFF, 0x0, 0x0, 0⟩,  -- LINK_LANE_CRC
  ⟨0x200, 0x8, 16, 0x0, 1, 0x0, 0x0, 0x0, 0x0, 0⟩,  -- LINK_SESSION
  ⟨0x204, 0x8, 16, 0x0, 1, 0x0, 0x0, 0x0, 0x0, 0⟩,  -- LINK_SESSION_EPOCH
  ⟨0x800, 0x0, 1, 0x0, 1, 0x0, 0x0, 0x0, 0x0, 0⟩,  -- LINK_COLL_STATE
  ⟨0x804, 0x0, 1, 0x0, 1, 0x0, 0x0, 0xF, 0x0, 0⟩,  -- LINK_COLL_EVENT
  ⟨0x808, 0x0, 1, 0x0, 1, 0x0, 0xFFFFFFFF, 0x0, 0x0, 0⟩,  -- LINK_COLL_DONE
  ⟨0x80C, 0x0, 1, 0x0, 1, 0x0, 0xFFFFFFFF, 0x0, 0x0, 0⟩,  -- LINK_COLL_ABORTS
  ⟨0x818, 0x0, 1, 0x0, 1, 0x0, 0xFFFFFFFF, 0x0, 0x0, 0⟩,  -- LINK_COLL_STRAY
  ⟨0x810, 0x0, 1, 0x0, 1, 0x0, 0x0, 0x0, 0x0, 0⟩,  -- LINK_COLL_LAST
  ⟨0x814, 0x0, 1, 0x0, 1, 0x0, 0x0, 0x0, 0x0, 0⟩]  -- LINK_COLL_LAST_INFO

/-- Registers of a COMP block, offsets from the block's base. -/
def regsCOMP : List RegDesc := [
  ⟨0x0, 0x0, 1, 0x0, 1, 0x0, 0x7F, 0x0, 0x0, 0⟩,  -- COMP_CTRL
  ⟨0x4, 0x0, 1, 0x0, 1, 0x0, 0xFFFFFFC0, 0x0, 0x0, 1⟩,  -- COMP_SRC_LO
  ⟨0x8, 0x0, 1, 0x0, 1, 0x0, 0x3FF, 0x0, 0x0, 2⟩,  -- COMP_SRC_HI
  ⟨0xC, 0x0, 1, 0x0, 1, 0x0, 0x1FFFFFF, 0x0, 0x0, 0⟩,  -- COMP_LEN
  ⟨0x10, 0x0, 1, 0x0, 1, 0x0, 0xFFFFFFFF, 0x0, 0x0, 1⟩,  -- COMP_APPLY_LO
  ⟨0x14, 0x0, 1, 0x0, 1, 0x0, 0xFFFF, 0x0, 0x0, 2⟩,  -- COMP_APPLY_HI
  ⟨0x18, 0x0, 1, 0x0, 1, 0x0, 0xFFFFFFFF, 0x0, 0x0, 0⟩,  -- COMP_ARM_ID
  ⟨0x1C, 0x0, 1, 0x0, 1, 0x0, 0xFFFFFFFF, 0x0, 0x0, 0⟩,  -- COMP_SETTINGS
  ⟨0x20, 0x0, 1, 0x0, 1, 0x0, 0x0, 0xF, 0x0, 0⟩,  -- COMP_EVENT
  ⟨0x24, 0x0, 1, 0x0, 1, 0x0, 0x7000, 0x0, 0x0, 0⟩,  -- COMP_PROFILE
  ⟨0x28, 0x0, 1, 0x0, 1, 0x0, 0x0, 0x0, 0x0, 0⟩,  -- COMP_INFORCE
  ⟨0x40, 0x4, 12, 0x0, 1, 0x0, 0x0, 0x0, 0x0, 0⟩,  -- COMP_CHAIN
  ⟨0x100, 0x10, 8, 0x0, 1, 0x0, 0x0, 0x0, 0x0, 0⟩,  -- COMP_SLOT
  ⟨0x104, 0x10, 8, 0x0, 1, 0x0, 0x0, 0x0, 0x0, 0⟩,  -- COMP_SLOT_ID
  ⟨0x108, 0x10, 8, 0x0, 1, 0x0, 0x0, 0x0, 0x0, 1⟩,  -- COMP_SLOT_FRAME_LO
  ⟨0x10C, 0x10, 8, 0x0, 1, 0x0, 0x0, 0x0, 0x0, 2⟩,  -- COMP_SLOT_FRAME_HI
  ⟨0x200, 0x0, 1, 0x0, 1, 0x0, 0x7E, 0x0, 0x0, 0⟩,  -- COMP_ARM_CTRL
  ⟨0x204, 0x0, 1, 0x0, 1, 0x0, 0xFFFFFFFF, 0x0, 0x0, 0⟩,  -- COMP_ARM_FIRE_ID
  ⟨0x208, 0x0, 1, 0x0, 1, 0x0, 0x1FFFF, 0x0, 0x0, 0⟩,  -- COMP_ARM_COLLECT
  ⟨0x20C, 0x0, 1, 0x0, 1, 0x0, 0xFFFFFFFF, 0x0, 0x0, 0⟩,  -- COMP_ARM_TALLY_ID
  ⟨0x210, 0x0, 1, 0x0, 1, 0x0, 0x0, 0x0, 0x0, 0⟩,  -- COMP_ARM_TALLY_VAL
  ⟨0x214, 0x0, 1, 0x0, 1, 0x0, 0x0, 0x0, 0x0, 0⟩,  -- COMP_ARM_TALLY_REJ
  ⟨0x218, 0x0, 1, 0x0, 1, 0x0, 0x0, 0x0, 0x0, 0⟩,  -- COMP_ARM_TALLY_APP
  ⟨0x21C, 0x0, 1, 0x0, 1, 0x0, 0x0, 0x0, 0x0, 0⟩,  -- COMP_ARM_TALLY_DROP
  ⟨0x220, 0x0, 1, 0x0, 1, 0x0, 0x0, 0xF, 0x0, 0⟩,  -- COMP_ARM_EVENT
  ⟨0x240, 0x4, 16, 0x0, 1, 0x0, 0xFFFFFFFF, 0x0, 0x0, 0⟩]  -- COMP_ARM_DEST

/-- Registers of a TWIN block, offsets from the block's base. -/
def regsTWIN : List RegDesc := [
  ⟨0x0, 0x0, 1, 0x0, 1, 0x0, 0x0, 0x0, 0x0, 0⟩,  -- TWIN_STATE
  ⟨0x4, 0x0, 1, 0x0, 1, 0x1, 0x3, 0x0, 0x0, 0⟩,  -- TWIN_CTRL
  ⟨0x8, 0x0, 1, 0x0, 1, 0x0, 0x0, 0x7FF, 0x0, 0⟩,  -- TWIN_EVENT
  ⟨0xC, 0x0, 1, 0x0, 1, 0x0, 0x0, 0x0, 0x0, 0⟩,  -- TWIN_PEER
  ⟨0x10, 0x0, 1, 0x0, 1, 0x0, 0x0, 0x0, 0x0, 1⟩,  -- TWIN_JOIN_LO
  ⟨0x14, 0x0, 1, 0x0, 1, 0x0, 0x0, 0x0, 0x0, 2⟩,  -- TWIN_JOIN_HI
  ⟨0x18, 0x0, 1, 0x0, 1, 0x0, 0xFF00, 0x0, 0x0, 0⟩,  -- TWIN_LAG
  ⟨0x20, 0x0, 1, 0x0, 1, 0x0, 0xFFF00000, 0x0, 0x0, 1⟩,  -- TWIN_RING_BASE_LO
  ⟨0x24, 0x0, 1, 0x0, 1, 0x0, 0x3FF, 0x0, 0x0, 2⟩,  -- TWIN_RING_BASE_HI
  ⟨0x28, 0x0, 1, 0x0, 1, 0x0, 0xFFF, 0x0, 0x0, 0⟩,  -- TWIN_RING_SIZE
  ⟨0x2C, 0x0, 1, 0x0, 1, 0x0, 0x0, 0x0, 0x0, 0⟩,  -- TWIN_RING_USED
  ⟨0x30, 0x0, 1, 0x0, 1, 0x2, 0xF, 0x0, 0x0, 0⟩,  -- TWIN_SKEW_LIMIT
  ⟨0x34, 0x0, 1, 0x0, 1, 0x0, 0xFFFFFFFF, 0x0, 0x0, 0⟩,  -- TWIN_SKEWS
  ⟨0x38, 0x0, 1, 0x0, 1, 0x0, 0xFFFFFFFF, 0x0, 0x0, 0⟩,  -- TWIN_MISMATCH
  ⟨0x3C, 0x0, 1, 0x0, 1, 0x0, 0xFFFFFFFF, 0x0, 0x0, 0⟩,  -- TWIN_BAD_MSG
  ⟨0x100, 0x0, 1, 0x0, 1, 0x0, 0xFFFF, 0x0, 0x0, 0⟩,  -- TWIN_VD_SEL
  ⟨0x104, 0x0, 1, 0x0, 1, 0x0, 0x0, 0x0, 0x0, 0⟩,  -- TWIN_VD_STATE
  ⟨0x108, 0x0, 1, 0x0, 1, 0x0, 0x0, 0x0, 0x0, 0⟩,  -- TWIN_VD_CTRL
  ⟨0x10C, 0x0, 1, 0x0, 1, 0x0, 0xFFFFFFFF, 0x0, 0x0, 1⟩,  -- TWIN_VD_FRAME_LO
  ⟨0x110, 0x0, 1, 0x0, 1, 0x0, 0xFFFF, 0x0, 0x0, 2⟩,  -- TWIN_VD_FRAME_HI
  ⟨0x114, 0x0, 1, 0x0, 1, 0x0, 0x0, 0x0, 0x0, 1⟩,  -- TWIN_NEG_LO
  ⟨0x118, 0x0, 1, 0x0, 1, 0x0, 0x0, 0x0, 0x0, 2⟩,  -- TWIN_NEG_HI
  ⟨0x120, 0x4, 8, 0x0, 1, 0x0, 0x0, 0x0, 0x0, 0⟩,  -- TWIN_VD_PRINT
  ⟨0x140, 0x4, 8, 0x0, 1, 0x0, 0x0, 0x0, 0x0, 0⟩]  -- TWIN_VD_PEER_PRINT

/-- Registers of a GLB block, offsets from the block's base. -/
def regsGLB : List RegDesc := [
  ⟨0x0, 0x0, 1, 0x0, 1, 0x0, 0x0, 0x0, 0x0, 0⟩,  -- GLB_PCIE
  ⟨0x4, 0x0, 1, 0x0, 1, 0x0, 0x0, 0xF, 0x0, 0⟩,  -- GLB_EVENT
  ⟨0x10, 0x0, 1, 0x0, 1, 0x0, 0x0, 0x0, 0x0, 1⟩,  -- GLB_MBOX_PEND_LO
  ⟨0x14, 0x0, 1, 0x0, 1, 0x0, 0x0, 0x0, 0x0, 2⟩,  -- GLB_MBOX_PEND_HI
  ⟨0x18, 0x0, 1, 0x0, 1, 0x0, 0x7F, 0x0, 0x0, 0⟩,  -- GLB_MBOX_SEL
  ⟨0x1C, 0x0, 1, 0x0, 1, 0x0, 0x0, 0x0, 0x0, 0⟩,  -- GLB_MBOX_CTRL
  ⟨0x40, 0x4, 16, 0x0, 1, 0x0, 0x0, 0x0, 0x0, 0⟩,  -- GLB_MBOX_IN
  ⟨0x80, 0x4, 16, 0x0, 1, 0x0, 0xFFFFFFFF, 0x0, 0x0, 0⟩,  -- GLB_MBOX_OUT
  ⟨0x200, 0x4, 64, 0x0, 1, 0x0, 0x3F, 0x0, 0x0, 0⟩,  -- GLB_VF_WIN
  ⟨0x100, 0x0, 1, 0x0, 1, 0x0, 0x0, 0x0, 0x0, 0⟩]  -- GLB_BOARD

/-- Registers of a VF block, offsets from the block's base. -/
def regsVF : List RegDesc := [
  ⟨0xC0000, 0x0, 1, 0x0, 1, 0x0, 0x0, 0x0, 0x0, 0⟩,  -- VF_INFO
  ⟨0xC0004, 0x0, 1, 0x0, 1, 0x0, 0x0, 0xF, 0x0, 0⟩,  -- VF_EVENT
  ⟨0xD0000, 0x0, 1, 0x0, 1, 0x0, 0x0, 0x0, 0x0, 0⟩,  -- VF_MBOX_CTRL
  ⟨0xD0040, 0x4, 16, 0x0, 1, 0x0, 0xFFFFFFFF, 0x0, 0x0, 0⟩,  -- VF_MBOX_OUT
  ⟨0xD0080, 0x4, 16, 0x0, 1, 0x0, 0x0, 0x0, 0x0, 0⟩]  -- VF_MBOX_IN

/-- Registers of a HOST block, offsets from the block's base. -/
def regsHOST : List RegDesc := [
  ⟨0x0, 0x0, 1, 0x0, 1, 0x0, 0x0, 0x0, 0x3, 0⟩,  -- HOST_CTRL
  ⟨0x4, 0x0, 1, 0x0, 1, 0x0, 0x0, 0x0, 0x0, 0⟩,  -- HOST_STATUS
  ⟨0x8, 0x0, 1, 0x0, 1, 0x0, 0x0, 0xFF, 0x0, 0⟩,  -- HOST_EVENT
  ⟨0x10, 0x0, 1, 0x0, 1, 0x0, 0x0, 0x0, 0xFFF00000, 1⟩,  -- HOST_CTX_BASE_LO
  ⟨0x14, 0x0, 1, 0x0, 1, 0x0, 0x0, 0x0, 0x3FF, 2⟩,  -- HOST_CTX_BASE_HI
  ⟨0x18, 0x0, 1, 0x0, 1, 0x0, 0x0, 0x0, 0xFFF00000, 1⟩,  -- HOST_Q_BASE_LO
  ⟨0x1C, 0x0, 1, 0x0, 1, 0x0, 0x0, 0x0, 0x3FF, 2⟩,  -- HOST_Q_BASE_HI
  ⟨0x20, 0x0, 1, 0x0, 1, 0x0, 0x0, 0x0, 0xFFF00000, 1⟩,  -- HOST_TL_BASE_LO
  ⟨0x24, 0x0, 1, 0x0, 1, 0x0, 0x0, 0x0, 0x3FF, 2⟩,  -- HOST_TL_BASE_HI
  ⟨0x28, 0x0, 1, 0x0, 1, 0x0, 0x0, 0x0, 0xFFF00000, 1⟩,  -- HOST_MO_BASE_LO
  ⟨0x2C, 0x0, 1, 0x0, 1, 0x0, 0x0, 0x0, 0x3FF, 2⟩,  -- HOST_MO_BASE_HI
  ⟨0x30, 0x0, 1, 0x0, 1, 0x0, 0x0, 0x0, 0xFFF00000, 1⟩,  -- HOST_CSW_BASE_LO
  ⟨0x34, 0x0, 1, 0x0, 1, 0x0, 0x0, 0x0, 0x3FF, 2⟩,  -- HOST_CSW_BASE_HI
  ⟨0x38, 0x0, 1, 0x0, 1, 0x0, 0x0, 0x0, 0x1FFFFFF, 0⟩,  -- HOST_MO_COUNT
  ⟨0x3C, 0x0, 1, 0x0, 1, 0x0, 0x0, 0x0, 0x1FFFFFFF, 0⟩,  -- HOST_CSW_ENTRIES
  ⟨0x40, 0x0, 1, 0x0, 1, 0x0, 0xFFFFFFFF, 0x0, 0x0, 0⟩,  -- HOST_LOST_CNT
  ⟨0x44, 0x0, 1, 0x0, 1, 0x0, 0xFFFFFFFF, 0x0, 0x0, 0⟩,  -- HOST_DEP_LOST_CNT
  ⟨0x48, 0x0, 1, 0x0, 1, 0x0, 0xFFFFFFFF, 0x0, 0x0, 0⟩,  -- HOST_STALE_CNT
  ⟨0x4C, 0x0, 1, 0x0, 1, 0x0, 0xFFFFFFFF, 0x0, 0x0, 0⟩,  -- HOST_DB_BAD
  ⟨0x50, 0x0, 1, 0x0, 1, 0x0, 0xFFFFFFFF, 0x0, 0x0, 0⟩,  -- HOST_REF_BAD
  ⟨0x60, 0x0, 1, 0x0, 1, 0x0, 0xFFFFFFFF, 0x0, 0x0, 0⟩,  -- HOST_PICKUP_SKIP
  ⟨0x54, 0x0, 1, 0x0, 1, 0x0, 0x0, 0x0, 0x0, 0⟩,  -- HOST_LAST_LOST
  ⟨0x58, 0x0, 1, 0x0, 1, 0x0, 0x0, 0x0, 0x0, 1⟩,  -- HOST_REF_LO
  ⟨0x5C, 0x0, 1, 0x0, 1, 0x0, 0x0, 0x0, 0x0, 2⟩]  -- HOST_REF_HI

/-- Registers of a RAS block, offsets from the block's base. -/
def regsRAS : List RegDesc := [
  ⟨0x0, 0x0, 1, 0x0, 1, 0x0, 0x3, 0x0, 0x0, 0⟩,  -- RAS_CTRL
  ⟨0x4, 0x0, 1, 0x0, 1, 0x0, 0x0, 0x0, 0x0, 0⟩,  -- RAS_STATUS
  ⟨0x8, 0x0, 1, 0x0, 1, 0x0, 0x0, 0x1FF, 0x0, 0⟩,  -- RAS_EVENT
  ⟨0x10, 0x0, 1, 0x0, 1, 0x0, 0xFFF00000, 0x0, 0x0, 1⟩,  -- RAS_RING_BASE_LO
  ⟨0x14, 0x0, 1, 0x0, 1, 0x0, 0x3FF, 0x0, 0x0, 2⟩,  -- RAS_RING_BASE_HI
  ⟨0x18, 0x0, 1, 0x0, 1, 0x0, 0x0, 0x0, 0x0, 0⟩,  -- RAS_RING_TAIL
  ⟨0x1C, 0x0, 1, 0x0, 1, 0x0, 0xFFFFFFFF, 0x0, 0x0, 0⟩,  -- RAS_RING_HEAD
  ⟨0x20, 0x0, 1, 0x0, 1, 0x0, 0x1FFFF, 0x0, 0x0, 0⟩,  -- RAS_FAULT_COLLECT
  ⟨0x24, 0x0, 1, 0x0, 1, 0x0, 0x0, 0x0, 0x0, 0⟩,  -- RAS_DAMP
  ⟨0x28, 0x0, 1, 0x0, 1, 0x0, 0xFFFFFFFF, 0x0, 0x0, 0⟩,  -- RAS_DAMP_OVF
  ⟨0x30, 0x0, 1, 0x0, 1, 0x0, 0x0, 0x0, 0x0, 0⟩,  -- RAS_RESERVE0
  ⟨0x34, 0x0, 1, 0x0, 1, 0x0, 0x0, 0x0, 0x0, 0⟩,  -- RAS_RESERVE1
  ⟨0x40, 0x0, 1, 0x0, 1, 0x0, 0x0, 0x0, 0x0, 0⟩,  -- RAS_MORAINE_COUNT
  ⟨0x44, 0x0, 1, 0x0, 1, 0x0, 0xFFF, 0x0, 0x0, 0⟩,  -- RAS_MORAINE_SEL
  ⟨0x48, 0x4, 4, 0x0, 1, 0x0, 0x0, 0x0, 0x0, 0⟩,  -- RAS_MORAINE_ENTRY
  ⟨0x58, 0x0, 1, 0x0, 1, 0x0, 0x0, 0x0, 0x0, 0⟩,  -- RAS_MORAINE_CTRL
  ⟨0x60, 0x0, 1, 0x0, 1, 0x0, 0xFFFF000F, 0x0, 0x0, 0⟩,  -- RAS_HIST_SEL
  ⟨0x64, 0x0, 1, 0x0, 1, 0x0, 0x0, 0x0, 0x0, 0⟩,  -- RAS_HIST
  ⟨0x100, 0x8, 12, 0x0, 1, 0x0, 0xFFFFFF, 0x0, 0x0, 0⟩,  -- RAS_THRESH_N
  ⟨0x104, 0x8, 12, 0x0, 1, 0x0, 0xFFFFF, 0x0, 0x0, 0⟩,  -- RAS_THRESH_W
  ⟨0x200, 0x20, 13, 0x0, 1, 0x0, 0xFFFFFFFF, 0x0, 0x0, 0⟩,  -- RAS_LOST_CNT
  ⟨0x204, 0x20, 13, 0x0, 1, 0x0, 0x0, 0x0, 0x0, 1⟩,  -- RAS_LOST_FIRST_LO
  ⟨0x208, 0x20, 13, 0x0, 1, 0x0, 0x0, 0x0, 0x0, 2⟩,  -- RAS_LOST_FIRST_HI
  ⟨0x20C, 0x20, 13, 0x0, 1, 0x0, 0x0, 0x0, 0x0, 1⟩,  -- RAS_LOST_LAST_LO
  ⟨0x210, 0x20, 13, 0x0, 1, 0x0, 0x0, 0x0, 0x0, 2⟩]  -- RAS_LOST_LAST_HI

/-- Registers of a PWR block, offsets from the block's base. -/
def regsPWR : List RegDesc := [
  ⟨0x0, 0x0, 1, 0x0, 1, 0x7, 0x7, 0x0, 0x0, 0⟩,  -- PWR_CTRL
  ⟨0x4, 0x0, 1, 0x0, 1, 0x0, 0x0, 0x0, 0x0, 0⟩,  -- PWR_STATUS
  ⟨0x8, 0x0, 1, 0x0, 1, 0x0, 0x0, 0x3FF, 0x0, 0⟩,  -- PWR_EVENT
  ⟨0x10, 0x0, 1, 0x0, 1, 0x1388, 0x1FFF, 0x0, 0x0, 0⟩,  -- PWR_CAP
  ⟨0x14, 0x0, 1, 0x0, 1, 0x1964, 0x1FFF, 0x0, 0x0, 0⟩,  -- PWR_PEAK
  ⟨0x18, 0x0, 1, 0x0, 1, 0x19641388, 0x0, 0x0, 0x0, 0⟩,  -- PWR_CAP_EFF
  ⟨0x1C, 0x0, 1, 0x0, 1, 0x3, 0xF, 0x0, 0x0, 0⟩,  -- PWR_GUARD
  ⟨0x20, 0x0, 1, 0x0, 1, 0x0, 0x0, 0x0, 0x0, 0⟩,  -- PWR_INPUT
  ⟨0x24, 0x0, 1, 0x0, 1, 0x0, 0x0, 0x0, 0x0, 0⟩,  -- PWR_INPUT_W
  ⟨0x28, 0x0, 1, 0x0, 1, 0x5DC, 0x0, 0x0, 0x0, 0⟩,  -- PWR_BUCKET
  ⟨0x2C, 0x0, 1, 0x0, 1, 0x736964, 0xFFFF, 0x0, 0x0, 0⟩,  -- PWR_THERM
  ⟨0x30, 0x0, 1, 0x0, 1, 0x0, 0xFFFFFFFF, 0x0, 0x0, 0⟩,  -- PWR_CLAMP_CNT
  ⟨0x34, 0x0, 1, 0x0, 1, 0x0, 0xFFFFFFFF, 0x0, 0x0, 0⟩,  -- PWR_RAMP_FORCED
  ⟨0x38, 0x0, 1, 0x0, 1, 0x0, 0xFFFFFFFF, 0x0, 0x0, 0⟩,  -- PWR_UNREACH_FRAMES
  ⟨0x100, 0x10, 40, 0x0, 1, 0x0, 0x0, 0x0, 0x0, 0⟩,  -- PWR_RAIL_LIMIT
  ⟨0x104, 0x10, 40, 0x0, 1, 0x0, 0x0, 0x0, 0x0, 0⟩,  -- PWR_RAIL_EST
  ⟨0x108, 0x10, 40, 0x0, 1, 0x40000000, 0x0, 0x0, 0x0, 0⟩,  -- PWR_RAIL_MEAS
  ⟨0x10C, 0x10, 40, 0x0, 1, 0x0, 0x0, 0x0, 0x0, 0⟩,  -- PWR_RAIL_FOG
  ⟨0x400, 0x4, 8, 0x0, 1, 0x400, 0x0, 0x0, 0x0, 0⟩,  -- PWR_DIE
  ⟨0x500, 0x4, 64, 0x0, 1, 0x0, 0x0, 0x0, 0x0, 0⟩,  -- PWR_BLOCK
  ⟨0x600, 0x4, 14, 0x0, 1, 0x0, 0xFF00, 0x0, 0x0, 0⟩]  -- PWR_TEMP

/-- Registers of a SEC block, offsets from the block's base. -/
def regsSEC : List RegDesc := [
  ⟨0x0, 0x0, 1, 0x0, 1, 0x0, 0x0, 0x0, 0x0, 0⟩,  -- SEC_STATUS
  ⟨0x4, 0x0, 1, 0x0, 1, 0x0, 0x0, 0x3F, 0x0, 0⟩,  -- SEC_EVENT
  ⟨0x8, 0x0, 1, 0x0, 1, 0x0, 0x0, 0x0, 0x0, 0⟩,  -- SEC_KEYS
  ⟨0x10, 0x4, 4, 0x0, 1, 0x0, 0x0, 0x0, 0x0, 0⟩,  -- SEC_SERIAL
  ⟨0x20, 0x0, 1, 0x0, 1, 0x0, 0x0, 0x0, 0x0, 0⟩,  -- SEC_ORDER_CODE
  ⟨0x24, 0x0, 1, 0x0, 1, 0x0, 0x0, 0x0, 0x0, 0⟩,  -- SEC_SIG_FAIL
  ⟨0x28, 0x0, 1, 0x0, 1, 0x0, 0x0, 0x0, 0x0, 1⟩,  -- SEC_HSS_NEXT_LO
  ⟨0x2C, 0x0, 1, 0x0, 1, 0x0, 0x0, 0x0, 0x0, 2⟩,  -- SEC_HSS_NEXT_HI
  ⟨0x30, 0x0, 1, 0x0, 1, 0x0, 0x0, 0x0, 0x0, 1⟩,  -- SEC_HSS_RSV_LO
  ⟨0x34, 0x0, 1, 0x0, 1, 0x0, 0x0, 0x0, 0x0, 2⟩,  -- SEC_HSS_RSV_HI
  ⟨0x38, 0x0, 1, 0x0, 1, 0x0, 0x0, 0x0, 0x0, 1⟩,  -- SEC_CONF_LO
  ⟨0x3C, 0x0, 1, 0x0, 1, 0x0, 0x0, 0x0, 0x0, 2⟩,  -- SEC_CONF_HI
  ⟨0x40, 0x0, 1, 0x0, 1, 0x0, 0xFFFFFFFF, 0x0, 0x0, 0⟩,  -- SEC_REFUSED
  ⟨0x50, 0x0, 1, 0x0, 1, 0x0, 0xFFFFFFC0, 0x0, 0x0, 1⟩,  -- SEC_REV_SRC_LO
  ⟨0x54, 0x0, 1, 0x0, 1, 0x0, 0x3FF, 0x0, 0x0, 2⟩,  -- SEC_REV_SRC_HI
  ⟨0x58, 0x0, 1, 0x0, 1, 0x0, 0x0, 0x0, 0x0, 0⟩]  -- SEC_REV_CTRL

/-- Registers of a LCS block, offsets from the block's base. -/
def regsLCS : List RegDesc := [
  ⟨0x0, 0x0, 1, 0x0, 1, 0x0, 0x0, 0x0, 0x0, 0⟩,  -- LCS_STATE
  ⟨0x4, 0x0, 1, 0x0, 1, 0x0, 0x0, 0x0, 0x0, 0⟩,  -- LCS_WORDS
  ⟨0x8, 0x0, 1, 0x0, 1, 0x0, 0x0, 0x0, 0x0, 0⟩,  -- LCS_KILL
  ⟨0xC, 0x0, 1, 0x0, 1, 0x0, 0x0, 0x0, 0x0, 0⟩,  -- LCS_CTRL
  ⟨0x10, 0x0, 1, 0x0, 1, 0x0, 0x0, 0x0, 0x0, 0⟩,  -- LCS_RESULT
  ⟨0x14, 0x0, 1, 0x0, 1, 0x0, 0x0, 0xF, 0x0, 0⟩,  -- LCS_EVENT
  ⟨0x20, 0x4, 4, 0x0, 1, 0x0, 0x0, 0x0, 0x0, 0⟩,  -- LCS_CHALLENGE
  ⟨0x30, 0x0, 1, 0x0, 1, 0x0, 0x7, 0x0, 0x0, 0⟩,  -- LCS_NEXT_BOOT
  ⟨0x1000, 0x4, 1472, 0x0, 1, 0x0, 0x0, 0x0, 0x0, 0⟩]  -- LCS_TOKEN_BUF

/-- Registers of a RST block, offsets from the block's base. -/
def regsRST : List RegDesc := [
  ⟨0x0, 0x0, 1, 0x0, 1, 0x1, 0x0, 0x0, 0x0, 0⟩,  -- RST_CAUSE
  ⟨0x4, 0x0, 1, 0x0, 1, 0x2, 0x0, 0x0, 0x0, 0⟩,  -- RST_SOURCES
  ⟨0x8, 0x0, 1, 0x0, 1, 0x0, 0x0, 0x0, 0x0, 0⟩,  -- RST_COUNT
  ⟨0xC, 0x0, 1, 0x0, 1, 0x2, 0x3, 0x0, 0x0, 0⟩,  -- RST_CFG
  ⟨0x10, 0x0, 1, 0x0, 1, 0x0, 0x0, 0x0, 0x0, 0⟩,  -- RST_CTRL
  ⟨0x14, 0x0, 1, 0x0, 1, 0x0, 0x0, 0x0, 0x0, 0⟩,  -- RST_LAST_HOST
  ⟨0x18, 0x0, 1, 0x0, 1, 0x0, 0x0, 0x0, 0x0, 0⟩,  -- RST_HOLDOFF
  ⟨0x20, 0x0, 1, 0x0, 1, 0x1, 0x0, 0x0, 0x0, 0⟩,  -- RST_BRINGUP
  ⟨0x24, 0x0, 1, 0x0, 1, 0x4, 0x3F, 0x0, 0x0, 0⟩,  -- RST_WDT
  ⟨0x28, 0x0, 1, 0x0, 1, 0x0, 0x0, 0xF, 0x0, 0⟩,  -- RST_EVENT
  ⟨0x30, 0x0, 1, 0x0, 1, 0x0, 0x13FF001F, 0x0, 0x0, 0⟩,  -- RST_SWRST
  ⟨0x34, 0x0, 1, 0x0, 1, 0x0, 0x0, 0x0, 0x0, 0⟩,  -- RST_SWRST_STATUS
  ⟨0x40, 0x0, 1, 0x0, 1, 0x0, 0xFF, 0x0, 0x0, 0⟩,  -- RST_CLK_SEL
  ⟨0x44, 0x0, 1, 0x0, 1, 0x0, 0x0, 0x0, 0x0, 0⟩,  -- RST_CLK_STAT
  ⟨0x100, 0x4, 14, 0x0, 1, 0x0, 0x0, 0x0, 0x0, 0⟩]  -- RST_STEP_MS

/-- Registers of a NVJ block, offsets from the block's base. -/
def regsNVJ : List RegDesc := [
  ⟨0x0, 0x0, 1, 0x0, 1, 0x0, 0x0, 0x0, 0x0, 0⟩,  -- NVJ_STATUS
  ⟨0x4, 0x0, 1, 0x0, 1, 0x0, 0x0, 0x1F, 0x0, 0⟩,  -- NVJ_EVENT
  ⟨0x8, 0x0, 1, 0x0, 1, 0x0, 0x0, 0x0, 0x0, 0⟩,  -- NVJ_USED
  ⟨0xC, 0x0, 1, 0x0, 1, 0x0, 0x0, 0x0, 0x0, 0⟩,  -- NVJ_GEN
  ⟨0x10, 0x0, 1, 0x0, 1, 0x0, 0xFFFFFFFF, 0x0, 0x0, 0⟩,  -- NVJ_COMPACT
  ⟨0x18, 0x0, 1, 0x0, 1, 0x0, 0x0, 0x0, 0x0, 1⟩,  -- NVJ_SEQ_LO
  ⟨0x1C, 0x0, 1, 0x0, 1, 0x0, 0x0, 0x0, 0x0, 2⟩,  -- NVJ_SEQ_HI
  ⟨0x40, 0x4, 4, 0x0, 1, 0x0, 0x0, 0x0, 0x0, 0⟩,  -- NVJ_FW_STATE
  ⟨0x60, 0x4, 4, 0x0, 1, 0x0, 0x0, 0x0, 0x0, 0⟩,  -- NVJ_FW_VER
  ⟨0x80, 0x0, 1, 0x0, 1, 0x0, 0x7, 0x0, 0x0, 0⟩,  -- NVJ_FW_CTRL
  ⟨0xA0, 0x0, 1, 0x0, 1, 0x0, 0x1F, 0x0, 0x0, 0⟩,  -- NVJ_DDR_CTRL
  ⟨0xA4, 0x0, 1, 0x0, 1, 0x0, 0x0, 0x0, 0x0, 0⟩]  -- NVJ_DDR_STATUS

/-! ### Lookup -/

/-- The block that holds an offset: its base there, and its registers. -/
def blockOf (off : Nat) : Nat × List RegDesc :=
  if off < 0x10000 then (0, regsGLB)
  else if off < 0x20000 then (0x10000, regsTICK)
  else if off < 0x40000 then (0x20000, regsCOMP)
  else if off < 0x60000 then (0x40000, regsHOST)
  else if off < 0x80000 then (0x60000, regsXLAT)
  else if off < 0xA0000 then (0x80000, regsRAS)
  else if off < 0xC0000 then (0xA0000, regsPWR)
  else if off < 0xD0000 then (0xC0000, regsSEC)
  else if off < 0xE0000 then (0xD0000, regsLCS)
  else if off < 0xF0000 then (0xE0000, regsRST)
  else if off < 0x100000 then (0xF0000, regsNVJ)
  else if off < 0x200000 then (0x100000, regsTWIN)
  else if off < 0x310000 then (0x200000 + (off - 0x200000) / 0x10000 * 0x10000, regsLINK)
  else if off < 0x400000 then (off, [])
  else if off < 0x500000 then (0x400000 + (off - 0x400000) / 0x40000 * 0x40000, regsMEM)
  else if off < 0x800000 then (off, [])
  else if off < 0xC00000 then (0x800000 + (off - 0x800000) / 0x1000 * 0x1000, regsCORE)
  else if off < 0xC40000 then (0xC00000 + (off - 0xC00000) / 0x1000 * 0x1000, regsSTW)
  else if off < 0x1000000 then (off, [])
  else if off < 0x2000000 then (0x1000000, regsSEQ)
  else if off < 0x1_0000_0000 then (off, [])
  else (off / 0x1_0000_0000 * 0x1_0000_0000, regsVF)

/-- Does the row cover the offset within its block? -/
def RegDesc.covers (d : RegDesc) (rel : Nat) : Bool :=
  d.off ≤ rel &&
    (let x := rel - d.off
     if d.stride1 = 0 then x == 0
     else x / d.stride1 < d.count1 &&
       (let y := x % d.stride1
        if d.stride2 = 0 then y == 0 else y % d.stride2 == 0 && y / d.stride2 < d.count2))

/-- The row of the register at an offset, if the offset names one. -/
def descOf (off : Nat) : Option RegDesc :=
  let (base, ds) := blockOf off
  ds.find? (·.covers (off - base))

/-- Default thresholds of R377, by index: count and window in seconds. -/
def threshDefault (i : Nat) : Nat × Nat :=
  ([(3, 86400), (4096, 86400), (2, 86400), (4096, 86400), (4, 86400), (65536, 86400), (4, 86400), (65536, 86400),
    (64, 86400), (1024, 1), (256, 1), (3, 3600)] : List (Nat × Nat)).getD i (0, 0)

/-- Default limit and clamp of a rail in A (R398). -/
def railDefault (r : Nat) : Nat × Nat :=
  if r < 0x08 then (560, 640) else if r < 0x10 then (120, 150) else if r < 0x18 then (90, 110) else if r < 0x1C then (70, 90)
  else if r < 0x20 then (110, 130) else if r < 0x24 then (30, 40) else if r < 0x26 then (60, 75) else (90, 110)

/-- The value of a register after reset, before the profile image is applied. -/
def regReset (off : Nat) : Word :=
  if 0xA0100 ≤ off ∧ off < 0xA0380 ∧ off % 16 = 0 then
    let t := railDefault ((off - 0xA0100) / 16)
    BitVec.ofNat 32 (t.1 + 65536 * t.2)
  else if off ≥ 0x80100 ∧ off < 0x80160 ∧ off % 4 = 0 then
    let t := threshDefault ((off - 0x80100) / 8)
    BitVec.ofNat 32 (if off % 8 = 0 then t.1 else t.2)
  else match descOf off with
    | some d => BitVec.ofNat 32 d.reset
    | none => 0

end Sys2Proof.Machine
end

