-- ==== Sys2Proof/Machine/Ops.lean ====
section
/-!
DEFINITION. The shared operations: sparse maps and byte memory in canonical form, registers and their fields (R8, R9),
event bits and MSI-X messages (R342), and the wrapping of an effect as a command's outcome.
-/
namespace Sys2Proof.Machine

/-! ### Sparse maps and tables -/

/-- The value at a key; `d` says what an unlisted key reads as. -/
def SMap.get {α : Type} (d : Nat → α) (m : SMap α) (k : Nat) : α :=
  match m with
  | [] => d k
  | (j, v) :: r => if j = k then v else if k < j then d k else SMap.get d r k

/-- Set the value at a key, keeping the canonical form. -/
def SMap.set {α : Type} [DecidableEq α] (d : Nat → α) (m : SMap α) (k : Nat) (v : α) : SMap α :=
  match m with
  | [] => if v = d k then [] else [(k, v)]
  | (j, w) :: r =>
    if j = k then (if v = d k then r else (k, v) :: r)
    else if k < j then (if v = d k then (j, w) :: r else (k, v) :: (j, w) :: r)
    else (j, w) :: SMap.set d r k v

/-- The canonical form: keys strictly rising and no listed value equal to what its key reads as unlisted. -/
def SMap.wf {α : Type} [DecidableEq α] (d : Nat → α) : SMap α → Bool
  | [] => true
  | [(k, v)] => decide (v ≠ d k)
  | (k, v) :: (j, w) :: r => decide (v ≠ d k) && decide (k < j) && SMap.wf d ((j, w) :: r)

/-- The record of an identifier. -/
def Tbl.get? {α : Type} (t : Tbl α) (k : Nat) : Option α :=
  match t with
  | [] => none
  | (j, v) :: r => if j = k then some v else if k < j then none else Tbl.get? r k

/-- Put a record. -/
def Tbl.put {α : Type} (t : Tbl α) (k : Nat) (v : α) : Tbl α :=
  match t with
  | [] => [(k, v)]
  | (j, w) :: r =>
    if j = k then (k, v) :: r
    else if k < j then (k, v) :: (j, w) :: r
    else (j, w) :: Tbl.put r k v

/-- Remove a record. -/
def Tbl.del {α : Type} (t : Tbl α) (k : Nat) : Tbl α := t.filter (fun e => e.1 != k)

/-- Change the record of an identifier, if there is one. -/
def Tbl.mod {α : Type} (t : Tbl α) (k : Nat) (f : α → α) : Tbl α :=
  t.map (fun e => if e.1 = k then (e.1, f e.2) else e)

/-- Identifiers strictly rising. -/
def Tbl.wf {α : Type} : Tbl α → Bool
  | [] => true
  | [_] => true
  | (k, _) :: (j, w) :: r => decide (k < j) && Tbl.wf ((j, w) :: r)

/-! ### Byte memory -/

/-- What an unlisted byte reads as: zero, the value the module writes after training (R132). -/
def memDefault (_ : Nat) : Byte := 0

/-- One byte. -/
def Mem.byte (m : Mem) (a : Nat) : Byte := SMap.get memDefault m a

/-- `n` bytes from address `a`. -/
def Mem.read (m : Mem) (a : Nat) : Nat → List Byte
  | 0 => []
  | n + 1 =>
    let r := m.dropWhile (fun e => e.1 < a)
    Mem.byte r a :: Mem.read r (a + 1) n

/-- The cells that hold a byte string at an address, without the zero bytes. -/
def cellsOf (a : Nat) : List Byte → Mem
  | [] => []
  | b :: bs => if b = 0 then cellsOf (a + 1) bs else (a, b) :: cellsOf (a + 1) bs

/-- Write a byte string at an address. -/
def Mem.write (m : Mem) (a : Nat) (bs : List Byte) : Mem :=
  m.takeWhile (fun e => e.1 < a) ++ cellsOf a bs ++ m.dropWhile (fun e => e.1 < a + bs.length)

/-- The canonical form of memory. -/
def Mem.wf (m : Mem) : Bool := SMap.wf memDefault m

/-! ### Outcomes -/

/-- The outcome of a command whose effect is `f`. -/
def run (s : State) (f : Module → Module) : Host.Outcome State Fault Refusal :=
  .next { s with m := f s.m }

/-- The outcome of a command whose effect is `f`: while the internal reset is asserted, nothing it acts on runs (R465). -/
def runOn (s : State) (f : Module → Module) : Host.Outcome State Fault Refusal :=
  if s.m.rst.inReset then .next s else run s f

/-- Apply an effect once for each element of a list, in order. -/
def each {α : Type} (l : List α) (m : Module) (f : Module → α → Module) : Module := l.foldl f m

/-! ### Registers -/

/-- A register word as a number. -/
def Module.reg (m : Module) (off : Nat) : Nat := (SMap.get regReset m.regs off).toNat

/-- Set a register word. -/
def Module.setReg (m : Module) (off v : Nat) : Module :=
  { m with regs := SMap.set regReset m.regs off (BitVec.ofNat 32 v) }

/-- A field of a register. -/
def Module.fld (m : Module) (f : Fld) : Nat := bits (m.reg f.off) f.lo f.len

/-- A one-bit field as a Bool. -/
def Module.flag (m : Module) (f : Fld) : Bool := m.fld f != 0

/-- A word with the field replaced. -/
def putField (w lo len v : Nat) : Nat := w - bits w lo len * 2 ^ lo + (v % 2 ^ len) * 2 ^ lo

/-- Set a field of a register. -/
def Module.setFld (m : Module) (f : Fld) (v : Nat) : Module :=
  m.setReg f.off (putField (m.reg f.off) f.lo f.len v)

/-- Add to a saturating counter field. -/
def Module.count (m : Module) (f : Fld) (n : Nat) : Module :=
  m.setFld f (min (m.fld f + n) (2 ^ f.len - 1))

/-- The value of a pair of registers, low word first (R8). -/
def Module.reg64 (m : Module) (lo hi : Nat) : Nat := m.reg lo + 2 ^ 32 * m.reg hi

/-- Set a pair of registers. -/
def Module.setReg64 (m : Module) (lo hi v : Nat) : Module :=
  (m.setReg lo (v % 2 ^ 32)).setReg hi (v / 2 ^ 32 % 2 ^ 32)

/-! ### What goes out -/

/-- Send something to the surroundings. -/
def Module.emit (m : Module) (o : Out) : Module := { m with out := m.out ++ [o] }

/-- Is a function under a reset, so that no request of it leaves (R458, R459)? -/
def Module.inFlr (m : Module) (fn : Nat) : Bool := m.pcie.hostReset.isSome || m.pcie.flr.any (fun e => e.1 == fn)

/-- Is the module in a hold-off or in reset: no tile starts, nothing is picked up, no record or signal is written (R455)? -/
def Module.quiet (m : Module) : Bool := m.rst.hold.isSome || m.rst.inReset

/-! ### The frame -/

/-- The frame number. -/
def Module.F (m : Module) : Nat := m.tick.frame

/-- Frame numbers are 48 bits and wrap (R14). -/
def frameAdd (f n : Nat) : Nat := (f + n) % 2 ^ 48

/-- Is frame `a` at or after frame `b`, wrap-aware? -/
def frameGe (a b : Nat) : Bool := decide (subMod 48 a b < 2 ^ 47)

/-- Is frame `a` before frame `b`, wrap-aware? -/
def frameLt (a b : Nat) : Bool := !frameGe a b

/-- Set the tick structure. -/
def Module.setTick (m : Module) (f : Tick → Tick) : Module := { m with tick := f m.tick }

/-! ### Free values -/

/-- Bytes that nothing in the chapters decides (keys, random values): free values. -/
def Module.freeBytes (m : Module) (n : Nat) : Module × List Byte :=
  ({ m with free := m.free + 1 }, (List.range n).map (fun i => BitVec.ofNat 8 (Config.freeNat m.free i)))

/-- A word of 32 bits that nothing in the chapters decides: a free value. -/
def Module.freeWord (m : Module) : Module × Nat := let (m, bs) := m.freeBytes 4; (m, leNat bs)

/-! ### Small lists -/

/-- Set union for a small list without repeats. -/
def insertU {α : Type} [BEq α] (l : List α) (x : α) : List α := if l.contains x then l else l ++ [x]

/-- Insertion sort by a key, stable. -/
def insertBy {α : Type} (key : α → Nat) (x : α) : List α → List α
  | [] => [x]
  | y :: ys => if key x < key y then x :: y :: ys else y :: insertBy key x ys

/-- Sort by a key, keeping the order of equal keys. -/
def sortBy {α : Type} (key : α → Nat) (l : List α) : List α := l.foldl (fun acc x => insertBy key x acc) []

/-- The element at an index, as an option. -/
def nth? {α : Type} (l : List α) (i : Nat) : Option α := l[i]?

/-- Replace the element at an index. -/
def setAt {α : Type} (l : List α) (i : Nat) (x : α) : List α := l.set i x

/-- The first element that satisfies `p`, and the rest without it. -/
def takeFirst {α : Type} (p : α → Bool) : List α → Option α × List α
  | [] => (none, [])
  | x :: xs => if p x then (some x, xs) else let (r, t) := takeFirst p xs; (r, x :: t)

end Sys2Proof.Machine
end

