-- ==== Sys2Proof/Machine/Comp.lean ====
section
/-!
DEFINITION. Reading a composition: the records of R264 by type and key, and what they say about partitions, carve-outs,
virtual devices, bindings, routes, grants and twin modes.
-/
namespace Sys2Proof.Machine

/-- The records of a composition. -/
abbrev Recs := Tbl (List Byte)

/-- The value of the record of a type and key. -/
def recOf (r : Recs) (rtype key : Nat) : Option (List Byte) := r.get? (rtype * 2 ^ 64 + key)

/-- The records of a type: key and value, keys rising. -/
def recsOf (r : Recs) (rtype : Nat) : List (Nat × List Byte) :=
  (r.filter (fun e => e.1 / 2 ^ 64 == rtype)).map (fun e => (e.1 % 2 ^ 64, e.2))

/-- Bit `i` of the bitmap that starts at byte `off` of a value. -/
def bmap (v : List Byte) (off i : Nat) : Bool := ((v.getD (off + i / 8) 0).toNat).testBit (i % 8)

/-- The indices below `n` whose bit is set in a bitmap. -/
def bmapList (v : List Byte) (off n : Nat) : List Nat := (List.range n).filter (bmap v off)

/-! ### Identity and tick -/

/-- This module's ID (R264 SELF); 0 when none is set. -/
def selfId (r : Recs) : Nat := match recOf r 0x0601 0 with | some v => fieldOf v 8 2 | none => 0

/-- Frame period in ns (R11, R264 PARAM). -/
def periodNs (r : Recs) : Nat := match recOf r 0x0101 0 with | some v => fieldOf v 8 4 | none => 20000

/-- The PTP domain. -/
def paramDomain (r : Recs) : Nat := match recOf r 0x0101 0 with | some v => fieldOf v 15 1 | none => 0

/-- Shutter window in ac. -/
def windowAc (r : Recs) : Nat := match recOf r 0x0101 0 with | some v => fieldOf v 12 2 | none => 1024

/-! ### Partitions and virtual functions -/

/-- Partitions of the composition. -/
def partsOf (r : Recs) : List Nat := (recsOf r 0x0201).map (·.1)

/-- The VF of a partition (R334). -/
def partVf (r : Recs) (p : Nat) : Option Nat := (recOf r 0x0201 p).map (fun v => fieldOf v 8 1)

/-- The partition that a VF serves. -/
def vfPart (r : Recs) (f : Nat) : Option Nat :=
  ((recsOf r 0x0201).find? (fun e => fieldOf e.2 8 1 == f)).map (·.1)

/-- The partition of a function: 0xFF for the PF. -/
def fnPart (r : Recs) (f : Nat) : Option Nat := if f = 0 then some 0xFF else vfPart r f

/-- The function of a partition (R173, R358). -/
def partFn (r : Recs) (p : Nat) : Nat := if p = 0xFF then 0 else (partVf r p).getD 0

/-- Context and queue quotas of a partition. -/
def ctxQuota (r : Recs) (p : Nat) : Nat := match recOf r 0x0201 p with | some v => fieldOf v 12 4 | none => 0
def queueQuota (r : Recs) (p : Nat) : Nat := match recOf r 0x0201 p with | some v => fieldOf v 16 4 | none => 0

/-- Is a partition confidential (R264 CONF)? -/
def isConf (r : Recs) (p : Nat) : Bool := match recOf r 0x0B01 p with | some v => bmap v 8 0 | none => false

/-! ### Carve-outs -/

/-- Does the carve-out of an owner hold an HBM channel? -/
def coHbm (v : List Byte) (g : Nat) : Bool := bmap v 8 g

/-- The DDR5 ranges of a CO record: channel, first GiB, count. -/
def coRanges (v : List Byte) : List (Nat × Nat × Nat) :=
  (List.range (fieldOf v 72 1)).map (fun i => (fieldOf v (80 + 8 * i) 1, fieldOf v (82 + 8 * i) 2, fieldOf v (84 + 8 * i) 2))

/-- The owner of an HBM channel. -/
def hbmOwner (r : Recs) (g : Nat) : Option Nat := ((recsOf r 0x0301).find? (fun e => coHbm e.2 g)).map (·.1)

/-- The owner of GiB `i` of a DDR5 channel. -/
def ddrOwner (r : Recs) (c i : Nat) : Option Nat :=
  ((recsOf r 0x0301).find? (fun e => (coRanges e.2).any (fun x => x.1 == c && x.2.1 ≤ i && i < x.2.1 + x.2.2))).map (·.1)

/-! ### Virtual devices and bindings -/

/-- The partition of a virtual device. -/
def vdPart (r : Recs) (vd : Nat) : Option Nat := (recOf r 0x0401 vd).map (fun v => fieldOf v 8 1)

/-- The module ID ranges of a virtual device. -/
def vdRanges (v : List Byte) : List (Nat × Nat) :=
  (List.range (fieldOf v 10 2)).map (fun i => (fieldOf v (16 + 4 * i) 2, fieldOf v (18 + 4 * i) 2))

/-- Does a device have members on a module other than `me`? -/
def vdRemote (v : List Byte) (me : Nat) : Bool := (vdRanges v).any (fun x => !(x.1 == me && x.2 == me))

/-- BIND records: device and value. -/
def bindsOf (r : Recs) : List (Nat × List Byte) := recsOf r 0x0501

def bindCore (v : List Byte) (c : Nat) : Bool := bmap v 8 c
def bindHbm (v : List Byte) (g : Nat) : Bool := bmap v 136 g
def bindStw (v : List Byte) (s : Nat) : Bool := bmap v 200 s
def bindDdr (v : List Byte) (c : Nat) : Bool := bmap v 208 c
def bindPort (v : List Byte) (p : Nat) : Bool := bmap v 212 p

/-- The device that a core is bound to. -/
def coreVd (r : Recs) (c : Nat) : Option Nat := ((bindsOf r).find? (fun e => bindCore e.2 c)).map (·.1)

/-- The device that a steward core is bound to. -/
def stwVd (r : Recs) (s : Nat) : Option Nat := ((bindsOf r).find? (fun e => bindStw e.2 s)).map (·.1)

/-- The device that a port is bound to. -/
def portVd (r : Recs) (p : Nat) : Option Nat := ((bindsOf r).find? (fun e => bindPort e.2 p)).map (·.1)

/-- The device that binds an HBM channel. -/
def hbmVd (r : Recs) (g : Nat) : Option Nat := ((bindsOf r).find? (fun e => bindHbm e.2 g)).map (·.1)

/-- Cores bound to a device, rising. -/
def vdCores (r : Recs) (vd : Nat) : List Nat := match recOf r 0x0501 vd with | some v => bmapList v 8 1024 | none => []

/-- The partition a core is bound to. -/
def corePart (r : Recs) (c : Nat) : Option Nat := (coreVd r c).bind (vdPart r)

/-! ### Grants (R99, R145, R264 QOS) -/

/-- Floor and ceiling of a partition's requester on a path. -/
def floorOf (r : Recs) (p req path : Nat) : Nat × Nat :=
  match recOf r 0x0802 (p + 256 * req + 65536 * path) with
  | some v => (fieldOf v 8 1, fieldOf v 9 1)
  | none => (0, 0)

/-- Class mode and weights of a partition. -/
def classMode (r : Recs) (p : Nat) : Nat := match recOf r 0x0801 p with | some v => fieldOf v 8 1 | none => 0
def classWeight (r : Recs) (p c : Nat) : Nat := match recOf r 0x0801 p with | some v => fieldOf v (16 + c) 1 | none => 1

/-- The grant of a transfer engine: partition, class and path (R99), at most 128. -/
def grant (r : Recs) (p : Nat) (be : Bool) (path : Nat) : Nat := min 128 (floorOf r p (b2n be) path).1

/-! ### Twin (R264 TWIN) -/

/-- Twin mode of a device: 0 SOLO, 1 MIRROR, 2 LOCKSTEP. -/
def twinMode (r : Recs) (vd : Nat) : Nat := match recOf r 0x0A02 vd with | some v => fieldOf v 8 1 | none => 0

/-- The PAIR record: twin ID, enable, twin serial. -/
def pairRec (r : Recs) : Option (Nat × Bool × Nat) :=
  (recOf r 0x0A01 0).map (fun v => (fieldOf v 8 2, bmap v 10 0, fieldOf v 16 16))

/-! ### The composition in force of the module -/

/-- The records in force: what step 3 and step 6 of a window change is in force from its edge (R27, step 9). -/
def Module.recs (m : Module) : Recs := m.comp.oldRecs.getD m.comp.recs

/-- The records of the coming frame, which placement and pick-up in step 7 and step 8 already follow (R29, R286). -/
def Module.nextRecs (m : Module) : Recs := m.comp.recs

/-- Is a composition in force? One that step 6 applies where there was none is so from the edge. -/
def Module.compOn (m : Module) : Bool := m.comp.present && m.comp.oldRecs != some []

def Module.selfId (m : Module) : Nat := Machine.selfId m.recs
def Module.conf (m : Module) (p : Nat) : Bool := isConf m.recs p
def Module.nextConf (m : Module) (p : Nat) : Bool := isConf m.nextRecs p

/-! ### Host traffic (R343, R458) -/

/-- Is a function the VF of a confidential partition? The PF never is. -/
def Module.fnConf (m : Module) (fn : Nat) : Bool := fn != 0 && (match vfPart m.recs fn with | some p => m.conf p | none => false)

/-- The stream that a function's traffic uses: a selective stream whose range includes it, else the link stream 0 (R343). -/
def Module.ideOf (m : Module) (fn : Nat) : Option Nat :=
  match m.pcie.ide.find? (fun e => e.2.sel && e.2.lo ≤ fn && fn ≤ e.2.hi) with
  | some e => some e.1
  | none => (m.pcie.ide.find? (fun e => !e.2.sel)).map (·.1)

/-- Is the stream of a function in the Secure state? -/
def Module.ideSecure (m : Module) (fn : Nat) : Bool :=
  match (m.ideOf fn).bind m.pcie.ide.get? with | some x => x.secure | none => false

/-- Has the stream of a function left the Secure state, so that every TLP on it is discarded (R344)? -/
def Module.ideFailed (m : Module) (fn : Nat) : Bool :=
  match (m.ideOf fn).bind m.pcie.ide.get? with | some x => x.failed | none => false

/-- Is the host traffic of a function accepted (R343, R344)? -/
def Module.trafficOk (m : Module) (fn : Nat) : Bool := if m.fnConf fn then m.ideSecure fn else !m.ideFailed fn

/-- Do the VFs exist: VF Enable is set, and has its effect because ARI Capable Hierarchy is set too (R333)? -/
def Module.vfsOn (m : Module) : Bool := m.pcie.vfEnable && m.pcie.ari

/-- Is a function there: the PF, or a VF that a partition names (R334)? -/
def Module.fnNamed (m : Module) (fn : Nat) : Bool := fn == 0 || (vfPart m.recs fn).isSome

/-- Does a function exist on the link: the PF, or one of the VFs that VF Enable has brought (R333)? -/
def Module.fnExists (m : Module) (fn : Nat) : Bool := fn == 0 || (m.vfsOn && fn ≤ m.pcie.numVfs)

/-- Are writes to a function's BARs taken: VFs exist while VF Enable is set, doorbells and mailbox writes of a function
under reset are ignored, and those of a confidential VF need a Secure stream (R335, R343, R458)? -/
def Module.fnTakes (m : Module) (fn : Nat) : Bool :=
  m.fnExists fn && !m.inFlr fn && m.trafficOk fn

/-- May a request of a function leave on PCIe (R333, R334, R343, R344, R458)? -/
def Module.mayLeave (m : Module) (fn : Nat) : Bool := m.fnExists fn && m.fnNamed fn && !m.inFlr fn && m.trafficOk fn

/-! ### MSI-X and events (R342) -/

/-- Message Control of a function's MSI-X capability: MSI-X Enable and Function Mask. -/
def Module.msixControl (m : Module) (fn : Nat) : Bool × Bool := (m.pcie.msix.get? fn).getD (false, false)

/-- May a vector send: MSI-X is enabled, neither the function nor the vector is masked, and the message may leave, which in a
hold-off none does (R455)? -/
def Module.msixOpen (m : Module) (fn vec : Nat) : Bool :=
  m.msixControl fn == (true, false) && m.unmasked.contains (fn, vec) && m.mayLeave fn && !m.quiet

/-- Signal a vector of a function: a message, or its pending bit while it may not send. -/
def Module.signal (m : Module) (fn vec : Nat) : Module :=
  if m.inFlr fn || !m.fnNamed fn then m
  else if m.msixOpen fn vec then m.emit (.msix fn vec)
  else if m.msixPend.contains (fn, vec) then m
  else { m with msixPend := (fn, vec) :: m.msixPend }

/-- Send the pending messages of a function that may now go. -/
def Module.msixFlush (m : Module) (fn : Nat) : Module :=
  let go := m.msixPend.filter (fun e => e.1 == fn && m.msixOpen fn e.2)
  each go { m with msixPend := m.msixPend.filter (fun e => !go.contains e) } (fun m e => m.emit (.msix e.1 e.2))

/-- Set an event bit; when it becomes set and `irq` holds, PF vector 0 is signalled (R342). -/
def Module.raiseIf (m : Module) (f : Fld) (irq : Bool) : Module :=
  if m.flag f then m
  else
    let m := m.setFld f 1
    if irq then m.signal 0 0 else m

/-- Set an event bit of a block and signal PF vector 0 when it becomes set (R342). -/
def Module.raise (m : Module) (f : Fld) : Module := m.raiseIf f true

/-- Set an event bit of VF_EVENT and signal vector 0 of the VF (R342). -/
def Module.raiseVf (m : Module) (v : Nat) (f : Fld) : Module :=
  if m.flag f then m else (m.setFld f 1).signal v 0

/-- An access that confidential mode refuses (R434). -/
def Module.confRefused (m : Module) : Module := (m.count SEC_REFUSED_count 1).raise SEC_EVENT_conf_refused

/-- A TLP that the module discards: one of a confidential VF off a Secure stream is a refused access (R343, R344, R434). -/
def Module.dropTlp (m : Module) (fn : Nat) : Module := if m.fnConf fn && !m.trafficOk fn then m.confRefused else m

/-- What a TLP of a function brings about, where the module does not discard it (R343, R344). -/
def tlp (fn : Nat) (f : Module → Module) (m : Module) : Module := if m.trafficOk fn then f m else m.dropTlp fn

/-! ### Host memory -/

/-- A read of host memory: zeros while the function is under reset (R458); without a Secure stream no request leaves, and
nothing says what the engine gets. -/
def Module.hostRead (m : Module) (fn pa len : Nat) : Module × List Byte :=
  if m.inFlr fn then (m, zeros len)
  else if !m.trafficOk fn then m.freeBytes len
  else (m, m.hostMem.read pa len)

/-- A write of host memory, discarded where no request may leave, as in a hold-off (R455). -/
def Module.hostWrite (m : Module) (fn pa : Nat) (bs : List Byte) : Module :=
  if m.mayLeave fn && !m.quiet then { m with hostMem := m.hostMem.write pa bs } else m

/-! ### Control messages (R231) -/

/-- Queue a control message of this module (R231). -/
def Module.sendCtrl (m : Module) (dst kind : Nat) (payload : List Byte) : Module :=
  { m with ctrlQ := m.ctrlQ ++ [{ src := m.selfId, dst := dst, kind := kind, hops := 15, port := 255, payload := payload }] }

def ctrlLEASE : Nat := 0x01
def ctrlFAULT : Nat := 0x02
def ctrlCOMP : Nat := 0x03
def ctrlTWIN : Nat := 0x04
def ctrlCOLL : Nat := 0x05
def ctrlMGMT : Nat := 0x06

/-- Fabric tag of a translated address of a module (R174). -/
def fabricAddr (mid off : Nat) : Nat := 0x3E * 2 ^ 58 + mid * 2 ^ 42 + off

/-! ### Fuses and keys -/

/-- The order code and serial number that the module shows (R421). -/
def Module.fuseWord (m : Module) (i : Nat) : Nat := SMap.get (fun _ => 0) m.fuse i
def Module.orderCode (m : Module) : Nat := m.fuseWord 32

/-- The life-cycle state that LCS_STATE shows (R439). -/
def Module.lcState (m : Module) : Nat := m.fld LCS_STATE_state

/-- Is a secret key alive: 0 identity, 1 fleet link, 2 memory encryption? It is set, its kill word is 0x00, and the state
is not INVALID (R442, R448). -/
def Module.keyAlive (m : Module) (k : Nat) : Bool :=
  let kill := if k = 0 then 5 else if k = 1 then 4 else 6
  bit (m.fuseWord 36) k && m.fuseWord kill == 0 && m.lcState != 7

/-! ### What the contact print of a frame tells beside the print (R322) -/

/-- OR flags into the PRINT flags of a LOCKSTEP device: 1 residue, 2 ecc, 4 link, 8 sched. -/
def Module.noteVd (m : Module) (vd f : Nat) : Module :=
  { m with twin := { m.twin with vds := m.twin.vds.mod vd (fun t => if t.mode = 2 then { t with flags := t.flags ||| f } else t) } }

/-- The same for the device a core is bound to. -/
def Module.noteCore (m : Module) (c f : Nat) : Module :=
  match coreVd m.recs c with
  | some vd => m.noteVd vd f
  | none => m

/-- An error in a channel counts for every device that binds it. -/
def Module.noteChan (m : Module) (ch : Nat) : Module :=
  each ((bindsOf m.recs).filter (fun e => if ch < 512 then bindHbm e.2 ch else bindDdr e.2 (ch - 512))) m (fun m e => m.noteVd e.1 2)

/-- A stripe CRC failure, tag failure or resend counts for the device that binds the port; one on port 16 for every device. -/
def Module.notePort (m : Module) (p : Nat) : Module :=
  if p = 16 then each m.twin.vds m (fun m e => m.noteVd e.1 4)
  else match portVd m.recs p with
    | some vd => m.noteVd vd 4
    | none => m

end Sys2Proof.Machine
end

