-- ==== Sys2Proof/Machine/Log.lean ====
section
/-!
DEFINITION. The error log and the error histories (R374 to R377, R390 to R392): writing a record to a die's log or
losing it, and charging an event to its unit.
-/
namespace Sys2Proof.Machine

/-! ### Classes, causes and unit types of R390 -/

def clsCORE : Nat := 0
def clsSTEWARD : Nat := 1
def clsHBM : Nat := 2
def clsDDR5 : Nat := 3
def clsINTEG : Nat := 4
def clsSEAM : Nat := 5
def clsLINK : Nat := 6
def clsPORT : Nat := 7
def clsRANGE : Nat := 8
def clsSEQ : Nat := 9
def clsCONTEXT : Nat := 10
def clsPEER : Nat := 11
def clsRETIRE : Nat := 12

def errRESIDUE_MX : Nat := 0x01
def errRESIDUE_VX : Nat := 0x02
def errACC_PARITY : Nat := 0x03
def errACC_RESIDUE : Nat := 0x04
def errPLATE_CE : Nat := 0x05
def errPLATE_UE : Nat := 0x06
def errOPSTORE_UE : Nat := 0x07
def errTCM_CE : Nat := 0x08
def errTCM_UE : Nat := 0x09
def errMEM_CE : Nat := 0x0A
def errMEM_UE_REREAD_OK : Nat := 0x0B
def errMEM_UE : Nat := 0x0C
def errMAC_REREAD_OK : Nat := 0x0D
def errMAC_FAIL : Nat := 0x0E
def errSCRUB_UE : Nat := 0x0F
def errLANE_CRC : Nat := 0x10
def errSEAM_CRC : Nat := 0x11
def errTRAIN_FAIL : Nat := 0x12
def errBUFFER_UE : Nat := 0x13
def errTAG_FAIL : Nat := 0x14
def errRANGE_REFUSED : Nat := 0x15
def errTWIN_REPAIRED : Nat := 0x16
def errDATA_LOST : Nat := 0x17
def errCONTEXT_LOST : Nat := 0x18
def errSTATE_LOST : Nat := 0x19
def errORPHANED : Nat := 0x1A
def errRECOMPUTE_REQ : Nat := 0x1B
def errRETIRED : Nat := 0x1C
def errRETIRED_REPEAT : Nat := 0x1D
def errDIE_CUT : Nat := 0x1E
def errPORT_DOWN : Nat := 0x1F
def errTWIN_LOST : Nat := 0x20
def errTICK_LOST : Nat := 0x21
def errSYSTEM_UE : Nat := 0x22

/-- The die whose log takes the events of a unit (R390): compute 0 to 7, memory-side m + 8, I/O 12 and 13. -/
def dieOfUnit (unitType unit : Nat) : Nat :=
  match unitType with
  | 1 => unit / 128
  | 2 => unit / 8 % 8
  | 3 => 8 + unit / 128
  | 4 => 8 + unit / 3
  | 5 => 12 + unit / 128 % 2
  | 6 => 8 + unit / 640
  | 7 => 12 + unit / 8 % 2
  | _ => 12

/-- Lose a record of a class: count it and the frames of the first and last loss (R392). -/
def Module.loseRecord (m : Module) (cls frame : Nat) : Module :=
  let first := m.reg (RAS_LOST_CNT cls) = 0
  let m := if first then m.setReg64 (RAS_LOST_FIRST_LO cls) (RAS_LOST_FIRST_HI cls) frame else m
  let m := m.setReg64 (RAS_LOST_LAST_LO cls) (RAS_LOST_LAST_HI cls) frame
  let m := m.count (RAS_LOST_CNT_count cls) 1
  let m := { m with ras := { m.ras with lostDirty := insertU m.ras.lostDirty cls } }
  m.raise RAS_EVENT_log_lost

/-- Write a record to its die's log, or lose it when the log holds 512 (R390). Records of a confidential partition
carry no context and no detail (R391). -/
def Module.logRec (m : Module) (r : LogRec) : Module :=
  let hide := match r.part with | some p => m.conf p | none => false
  let r := if hide then { r with ctx := none, detail := 0 } else r
  if (m.ras.logs.filter (·.die == r.die)).length ≥ 512 then m.loseRecord r.cls r.frame
  else
    let m := { m with ras := { m.ras with logs := m.ras.logs ++ [r] } }
    if r.cause = errDATA_LOST then m.raise RAS_EVENT_data_lost else m

/-- An EVENT record of the present frame. -/
def Module.logEvent (m : Module) (cls cause sub unitType unit : Nat) (part ctx : Option Nat) (detail : Nat) : Module :=
  m.logRec
    { cls := cls, rtype := 0, cause := cause, sub := sub, unitType := unitType, unit := unit, module_ := m.selfId,
      frame := m.F, part := part, die := dieOfUnit unitType unit, ctx := ctx, detail := detail, phase := m.tick.ns }

/-- A record laid out as its 32 bytes (R390). -/
def LogRec.bytes (r : LogRec) : List Byte :=
  leBytes 1 (r.cls + 16 * r.rtype) ++ leBytes 1 r.cause ++ leBytes 1 r.sub ++ leBytes 1 r.unitType ++
  leBytes 2 r.unit ++ leBytes 2 r.module_ ++ leBytes 6 r.frame ++
  leBytes 1 (match r.part with | some p => p % 64 + 64 | none => 0) ++ leBytes 1 r.die ++
  leBytes 4 (match r.ctx with | some c => c + 2 ^ 31 | none => 0) ++ leBytes 8 r.detail ++ leBytes 4 (r.phase % 2 ^ 18)

/-! ### Histories -/

/-- Unit type of a threshold index (R377). -/
def rowUnitType (row : Nat) : Nat := ([1, 1, 2, 2, 3, 3, 4, 4, 4, 5, 6, 7] : List Nat).getD row 0

/-- Length of a history window in whole frames (R375). -/
def Module.histFrames (m : Module) (row : Nat) : Nat :=
  ceilDiv (m.reg (RAS_THRESH_W row) * 1000000000) (periodNs m.recs)

/-- Is the window of a history still open? -/
def Module.histOpen (m : Module) (h : Hist) : Bool := decide (subMod 48 m.F h.opened < h.frames)

/-- Count an event in the history of its unit (R375, R376): an uncorrectable line counts once per window. -/
def Module.charge (m : Module) (row unit : Nat) (line : Option Nat) : Module :=
  let key := row * 2 ^ 16 + unit
  let fresh : Hist := { count := 0, opened := m.F, frames := m.histFrames row, lines := [] }
  let h := match m.ras.hist.get? key with
    | some h => if m.histOpen h then h else fresh
    | none => fresh
  let again := match line with | some l => h.lines.contains l | none => false
  let h := if again then h
    else { h with count := h.count + 1, lines := match line with | some l => l :: h.lines | none => h.lines }
  { m with ras := { m.ras with hist := m.ras.hist.put key h } }

/-- Has the open window of a history reached its threshold? -/
def Module.overThreshold (m : Module) (row unit : Nat) : Bool :=
  match m.ras.hist.get? (row * 2 ^ 16 + unit) with
  | some h => m.histOpen h && decide (m.reg (RAS_THRESH_N row) ≤ h.count)
  | none => false

/-- The immediate retry of a unit met its error again: the unit fails in step 3, and nothing more is counted (R377). -/
def Module.repeatEvent (m : Module) (row unit : Nat) : Module :=
  { m with ras := { m.ras with events := m.ras.events ++ [{ row := row, unitType := rowUnitType row, unit := unit, repeat_ := true }] } }

/-- Charge an event and leave it for the judgement of step 3 (R378). -/
def Module.errEvent (m : Module) (row unit : Nat) (line : Option Nat) (again : Bool) : Module :=
  let m := m.charge row unit line
  { m with ras := { m.ras with events := m.ras.events ++
      [{ row := row, unitType := rowUnitType row, unit := unit, repeat_ := again }] } }

end Sys2Proof.Machine
end

