-- ==== Sys2Proof/Machine/Offsets.lean ====
section
/-!
DEFINITION. The local offset map (R127) and which bytes a partition's carve-out holds (R129).
-/
namespace Sys2Proof.Machine

/-! ### The local offset map -/

/-- What a local offset names (R127). -/
inductive Loc where
  | hbm (g off : Nat)
  | ddr (c off : Nat)
  | plate (core byte : Nat)
  | tcm (s byte : Nat)
  | seqTables (off : Nat)
  | hole
  deriving DecidableEq, Repr

def hbmSize : Nat := 0x6000_0000
def ddrBase : Nat := 0x100_0000_0000
def ddrStride : Nat := 0x3E_0000_0000
def winBase : Nat := 0x3F0_0000_0000
def gibSize : Nat := 2 ^ 30

/-- The row of the local offset map that holds an offset. -/
def locate (off : Nat) : Loc :=
  if off < 512 * hbmSize then .hbm (off / hbmSize) (off % hbmSize)
  else if off < ddrBase then .hole
  else if off < ddrBase + 12 * ddrStride then .ddr ((off - ddrBase) / ddrStride) ((off - ddrBase) % ddrStride)
  else if off < winBase then .hole
  else
    let w := off - winBase
    if w < 0x1_0000_0000 then
      (if w % 0x40_0000 < 0x30_0000 then .plate (w / 0x40_0000) (w % 0x40_0000) else .hole)
    else if w < 0x2_0000_0000 then
      let x := w - 0x1_0000_0000
      (if x / 0x10_0000 < 64 && x % 0x10_0000 < 0x8_0000 then .tcm (x / 0x10_0000) (x % 0x10_0000) else .hole)
    else if w < 0x3_0000_0000 then .seqTables (w - 0x2_0000_0000)
    else .hole

/-- Local offset of a byte of an HBM channel or a DDR5 channel (512 + c). -/
def chanOffset (ch byte : Nat) : Nat :=
  if ch < 512 then ch * hbmSize + byte else ddrBase + (ch - 512) * ddrStride + byte

/-- The memory-side die of an offset (R124); 4 for an offset that no die serves. -/
def dieOf (off : Nat) : Nat :=
  match locate off with
  | .hbm g _ => g / 128
  | .ddr c _ => c / 3
  | _ => 4

/-- Channel number of an offset: 0 to 511 HBM, 512 + c DDR5. -/
def chanOf (off : Nat) : Nat :=
  match locate off with
  | .hbm g _ => g
  | .ddr c _ => 512 + c
  | _ => 1024

/-- Local channel index n of R124 of a channel number. -/
def localIdx (ch : Nat) : Nat := if ch < 512 then ch % 128 else 128 + (ch - 512) % 3

/-- Is a DDR5 channel reachable: online, or retired but still held (R127, R385)? -/
def Module.ddrReach (m : Module) (c gib : Nat) : Bool :=
  match m.mem.ddr.get? c with
  | some d => (d.state == .online || d.state == .retired) && gib < d.gib
  | none => false

/-! ### The carve-out check -/

/-- Does the carve-out of `p` hold HBM channel `g`? -/
def Module.ownsHbm (m : Module) (p g : Nat) : Bool := m.compOn && hbmOwner m.recs g == some p

/-- Does the carve-out of `p` hold GiB `i` of DDR5 channel `c`? -/
def Module.ownsDdr (m : Module) (p c i : Nat) : Bool := m.ddrReach c i && ddrOwner m.recs c i == some p

/-- May a request on behalf of `p` reach `len` bytes at `off` (R129)? -/
def Module.allowed (m : Module) (p off len : Nat) : Bool :=
  let last := off + (if len = 0 then 0 else len - 1)
  match locate off, locate last with
  | .hbm g _, .hbm h _ => (List.range (h + 1 - g)).all (fun i => m.ownsHbm p (g + i))
  | .ddr c a, .ddr c' b =>
    -- the 248 GiB of a channel end where the next channel begins
    let first := c * 248 + a / gibSize
    (List.range (c' * 248 + b / gibSize + 1 - first)).all (fun i => m.ownsDdr p ((first + i) / 248) ((first + i) % 248))
  | _, _ => false

end Sys2Proof.Machine
end

