-- ==== Sys2Proof/Machine/Records.lean ====
section
/-!
DEFINITION. The object tables (R348 to R350): where each lies in the system carve-out and the bytes of every record,
so that a read of a table range returns the records.
-/
namespace Sys2Proof.Machine

def ObjState.code : ObjState → Nat
  | .free => 0
  | .live => 1
  | .releasing => 2

/-- A context record, 256 bytes; `hide` zeroes what a confidential partition hides (R350). -/
def Ctx.bytes (c : Ctx) (hide : Bool) : List Byte :=
  leBytes 1 (c.state.code + 4 * b2n c.lost) ++ leBytes 1 (b2n c.be + 2 * c.label) ++ leBytes 1 c.cause ++
  leBytes 1 c.part ++ leBytes 4 c.pasid ++ leBytes 2 c.vd ++ leBytes 1 c.fn ++ leBytes 1 c.queues ++
  leBytes 4 c.hostCount ++ leBytes 4 c.devCount ++ leBytes 12 c.lostFrame ++
  leBytes 8 (if hide then 0 else c.stale) ++ leBytes 8 (if hide then 0 else c.tiles) ++
  (if hide then zeros 16 else (c.lastError ++ zeros 16).take 16) ++ zeros 192

/-- A queue record, 64 bytes. -/
def Queue.bytes (q : Queue) : List Byte :=
  leBytes 2 q.state.code ++ leBytes 2 q.dbSlot ++ leBytes 4 q.ctx ++ leBytes 8 q.cmdVa ++ leBytes 8 q.cplVa ++
  leBytes 2 q.log2 ++ leBytes 2 q.vector ++ leBytes 4 q.tail ++ leBytes 4 q.picked ++ leBytes 4 q.written ++
  leBytes 4 q.head ++ leBytes 4 q.hostCount ++ leBytes 4 q.devCount ++ leBytes 4 q.cswBase ++ zeros 8

/-- A memory object record, 64 bytes. -/
def MemObj.bytes (o : MemObj) : List Byte :=
  leBytes 1 o.state.code ++ leBytes 3 (b2n o.read + 2 * b2n o.write + 4 * b2n o.precious) ++ leBytes 4 o.ctx ++
  leBytes 8 o.va ++ leBytes 8 o.size ++ leBytes 4 o.hostCount ++ leBytes 4 o.devCount ++ leBytes 1 o.gen ++ zeros 31

/-- A timeline record, 32 bytes. -/
def Timeline.bytes (t : Timeline) : List Byte :=
  leBytes 4 (t.state.code + 4 * b2n t.lost + 8 * b2n t.exhausted) ++ leBytes 4 t.ctx ++ leBytes 8 t.value ++
  leBytes 8 t.shadowVa ++ leBytes 4 t.hostCount ++ leBytes 4 t.devCount

/-! ### Table bases -/

def Module.ctxBase (m : Module) : Nat := m.reg64 HOST_CTX_BASE_LO HOST_CTX_BASE_HI
def Module.qBase (m : Module) : Nat := m.reg64 HOST_Q_BASE_LO HOST_Q_BASE_HI
def Module.tlBase (m : Module) : Nat := m.reg64 HOST_TL_BASE_LO HOST_TL_BASE_HI
def Module.moBase (m : Module) : Nat := m.reg64 HOST_MO_BASE_LO HOST_MO_BASE_HI
def Module.cswTable (m : Module) : Nat := m.reg64 HOST_CSW_BASE_LO HOST_CSW_BASE_HI
def Module.moCount (m : Module) : Nat := m.fld HOST_MO_COUNT_entries
def Module.cswWords (m : Module) : Nat := m.fld HOST_CSW_ENTRIES_words

/-- The five table ranges: base and size (R348). -/
def Module.tables (m : Module) : List (Nat × Nat) :=
  [(m.ctxBase, 2 ^ 28), (m.qBase, 2 ^ 28), (m.tlBase, 2 ^ 27), (m.moBase, m.moCount * 64), (m.cswTable, m.cswWords * 4)]

def alignedMiB (off : Nat) : Bool := off % 2 ^ 20 == 0

/-- Do the five tables meet R348? -/
def Module.tablesOk (m : Module) : Bool :=
  let ts := m.tables
  ts.all (fun t => alignedMiB t.1 && (t.2 == 0 || m.allowed 0xFF t.1 t.2)) &&
  (ts.zipIdx).all (fun a => (ts.zipIdx).all (fun b => a.2 ≥ b.2 || a.1.1 + a.1.2 ≤ b.1.1 || b.1.1 + b.1.2 ≤ a.1.1 || a.1.2 == 0 || b.1.2 == 0)) &&
  m.moCount ≤ 2 ^ 24 && m.cswWords ≤ 2 ^ 28

/-- Do the HOST registers name the table ranges of R350: HOST_CTRL.enable was accepted, or they meet R348 while it is 0 (log entry 108)? -/
def Module.tablesHeld (m : Module) : Bool := m.obj.running || m.tablesOk

/-- Does an offset lie in a table range? -/
def Module.inTable (m : Module) (off : Nat) : Bool :=
  m.tablesHeld && m.tables.any (fun t => t.1 ≤ off && off < t.1 + t.2)

/-- The byte of the object tables at an offset. -/
def Module.tableByte (m : Module) (off : Nat) : Byte :=
  let pick (base rec : Nat) (f : Nat → List Byte) : Byte := (f ((off - base) / rec)).getD ((off - base) % rec) 0
  let inT (base size : Nat) : Bool := base ≤ off && off < base + size
  if inT m.ctxBase (2 ^ 28) then
    pick m.ctxBase 256 (fun i => match m.obj.ctxs.get? i with | some c => c.bytes (m.conf c.part) | none => [])
  else if inT m.qBase (2 ^ 28) then
    pick m.qBase 64 (fun i => match m.obj.queues.get? i with | some q => q.bytes | none => [])
  else if inT m.tlBase (2 ^ 27) then
    pick m.tlBase 32 (fun i => match m.obj.tls.get? i with | some t => t.bytes | none => [])
  else if inT m.moBase (m.moCount * 64) then
    pick m.moBase 64 (fun i => match m.obj.mos.get? i with
      | some o => o.bytes
      | none => setBytes (zeros 64) 32 (leBytes 1 (SMap.get (fun _ => 0) m.obj.gens i)))
  else pick m.cswTable 4 (fun i => leBytes 4 (SMap.get (fun _ => 0) m.obj.csw i).toNat)

/-- The bytes of device memory at an offset, object tables included (R350). -/
def Module.bytesAt (m : Module) (off len : Nat) : List Byte :=
  if m.tables.any (fun t => t.1 < off + len && off < t.1 + t.2) && m.tablesHeld then
    (List.range len).map (fun i => if m.inTable (off + i) then m.tableByte (off + i) else m.mem.bytes.byte (off + i))
  else m.mem.bytes.read off len

/-- The records that the object tables hold: where each lies, and its bytes. -/
def Module.tableRecs (m : Module) : List (Nat × List Byte) :=
  m.obj.ctxs.map (fun e => (m.ctxBase + 256 * e.1, e.2.bytes (m.conf e.2.part))) ++
  m.obj.queues.map (fun e => (m.qBase + 64 * e.1, e.2.bytes)) ++ m.obj.tls.map (fun e => (m.tlBase + 32 * e.1, e.2.bytes)) ++
  m.obj.gens.map (fun e => (m.moBase + 64 * e.1, setBytes (zeros 64) 32 (leBytes 1 e.2))) ++
  m.obj.mos.map (fun e => (m.moBase + 64 * e.1, e.2.bytes)) ++ m.obj.csw.map (fun e => (m.cswTable + 4 * e.1, leBytes 4 e.2.toNat))

/-- What the object tables hold of the 256-byte line at an offset: nothing where no table lies. -/
def Module.tablePart (m : Module) (off : Nat) : List Byte :=
  if m.tables.any (fun t => t.1 < off + 256 && off < t.1 + t.2) && m.tablesHeld then
    (List.range 256).map (fun i => if m.inTable (off + i) then m.tableByte (off + i) else 0)
  else []

end Sys2Proof.Machine
end

