-- ==== Sys2Proof/Machine/Mem.lean ====
section
/-!
DEFINITION. Device memory: checked reads and writes of lines with ECC and tag outcomes (R133 to R140, R373, R382).
-/
namespace Sys2Proof.Machine

/-! ### Refusals -/

/-- Log a refusal with the offset and the partition (R129). -/
def Module.refuse (m : Module) (p off : Nat) : Module :=
  let d := dieOf off
  m.logRec
    { cls := clsRANGE, rtype := 0, cause := errRANGE_REFUSED, sub := 0, unitType := 0, unit := 0, module_ := m.selfId,
      frame := m.F, part := if p < 64 then some p else none, die := if d < 4 then 8 + d else 12, ctx := none,
      detail := off, phase := m.tick.ns }

/-! ### Redirects of a migration (R296) -/

/-- The migration whose source holds an offset, while it redirects. -/
def Module.migAt (m : Module) (off : Nat) : Option Mig :=
  (m.mem.migs.find? (fun e => (e.2.state ≥ 2) && e.2.src ≤ off && off < e.2.src + e.2.size)).map (·.2)

/-- Where a read of an offset goes. -/
def Module.readAt (m : Module) (off : Nat) : Nat :=
  match m.migAt off with
  | some g => if g.state = 4 || off - g.src < g.bound then g.dst + (off - g.src) else off
  | none => off

/-- The offset that reads of a line are made through: a line at the destination of a migration stands for its source offset (R296). -/
def Module.offsetOf (m : Module) (line : Nat) : Nat :=
  match m.mem.migs.find? (fun e => e.2.dst ≤ line && line < e.2.dst + e.2.size && m.readAt (e.2.src + (line - e.2.dst)) == line) with
  | some (_, g) => g.src + (line - g.dst)
  | none => line

/-- Where a write of an offset goes. -/
def Module.writeAt (m : Module) (off : Nat) : List Nat :=
  match m.migAt off with
  | some g =>
    let o := off - g.src
    if g.state = 4 || o < g.bound then [g.dst + o]
    else if o < g.bound + g.slice then [off, g.dst + o] else [off]
  | none => [off]

/-- Cut a byte string at offset `off` into pieces that no line boundary crosses. -/
def linePieces (off : Nat) (bs : List Byte) : List (Nat × List Byte) := go off bs bs.length
where
  go (off : Nat) (bs : List Byte) : Nat → List (Nat × List Byte)
    | 0 => []
    | fuel + 1 =>
      if bs.isEmpty then []
      else let n := 64 - off % 64; (off, bs.take n) :: go (off + n) (bs.drop n) fuel

/-! ### Line reads -/

/-- The first aligned block of `size` bytes that holds `off`. -/
def alignDown (off size : Nat) : Nat := off - off % size

/-- The aligned lines of 64 bytes that `len` bytes at `off` touch. -/
def linesOf (off len : Nat) : List Nat :=
  if len = 0 then []
  else (List.range ((off + len - 1) / 64 + 1 - off / 64)).map (fun i => (off / 64 + i) * 64)

/-- Outcome of one checked line read. -/
inductive LineOutcome where
  | good | uncorrectable
  deriving DecidableEq, Repr

def Module.setMem (m : Module) (f : MemSys → MemSys) : Module := { m with mem := f m.mem }

/-- The partition whose carve-out holds a line: records of the line concern it (R391). -/
def Module.linePart (m : Module) (line : Nat) : Option Nat :=
  let owner := match locate line with
    | .hbm g _ => hbmOwner m.recs g
    | .ddr c o => ddrOwner m.recs c (o / gibSize)
    | _ => none
  owner.bind (fun p => if p < 64 then some p else none)

/-- Account for a corrected read (R135, R373): counted, logged and charged. -/
def Module.memCorrected (m : Module) (line cause : Nat) : Module :=
  let ch := chanOf line
  let part := m.linePart line
  let m := (m.count (MEM_ECC_corrected (dieOf line) (localIdx ch)) 1).noteChan ch
  if ch < 512 then
    (m.logEvent clsHBM cause 0 3 ch part none line).errEvent 5 ch none false
  else
    (m.logEvent clsDDR5 cause 0 4 (ch - 512) part none line).errEvent 7 (ch - 512) none false

/-- Does a line lie in the system carve-out? -/
def Module.systemLine (m : Module) (line : Nat) : Bool :=
  match locate line with
  | .hbm g _ => m.compOn && hbmOwner m.recs g == some 0xFF
  | .ddr c o => ddrOwner m.recs c (o / gibSize) == some 0xFF
  | _ => false

/-- Account for a line that failed both reads (R373, R376); one of the system carve-out waits to be acted on (R384). -/
def Module.memUncorrectable (m : Module) (line cause : Nat) : Module :=
  let m := if m.systemLine line then { m with ras := { m.ras with sysLines := m.ras.sysLines ++ [line] } } else m
  let ch := chanOf line
  let m := (m.count (MEM_ECC_uncorrected (dieOf line) (localIdx ch)) 1).noteChan ch
  if ch < 512 then
    (m.logEvent clsHBM cause 0 3 ch (m.linePart line) none line).errEvent 4 ch (some line) false
  else
    (m.logEvent clsDDR5 cause 0 4 (ch - 512) (m.linePart line) none line).errEvent 6 (ch - 512) (some line) false

/-- Account for a granule whose tag failed twice (R139): counted as mac_fail and logged in the integrity class. -/
def Module.macFailed (m : Module) (line : Nat) : Module :=
  let c := chanOf line - 512
  let m := if m.systemLine line then { m with ras := { m.ras with sysLines := m.ras.sysLines ++ [line] } } else m
  let m := (m.count (MEM_INTEG_mac_fail (dieOf line) (localIdx (512 + c))) 1).noteChan (512 + c)
  (m.logEvent clsINTEG errMAC_FAIL 0 4 c (m.linePart line) none line).errEvent 6 c (some line) false

/-- Account for a tag mismatch that the second read cleared (R139). -/
def Module.macReread (m : Module) (line : Nat) : Module :=
  let c := chanOf line - 512
  let m := (m.count (MEM_INTEG_mac_reread_ok (dieOf line) (localIdx (512 + c))) 1).noteChan (512 + c)
  (m.logEvent clsINTEG errMAC_REREAD_OK 0 4 c (m.linePart line) none line).errEvent 8 c none false

/-- Class, unit type and unit of a line's channel. -/
def lineUnit (line : Nat) : Nat × Nat × Nat :=
  let ch := chanOf line
  if ch < 512 then (clsHBM, 3, ch) else (clsDDR5, 4, ch - 512)

/-- An uncorrectable line is lost to its consumer: the DATA_LOST record carries the consumer code of R382. -/
def Module.dataLost (m : Module) (line code part : Nat) (ctx : Option Nat) : Module :=
  let u := lineUnit line
  m.logEvent u.1 errDATA_LOST code u.2.1 u.2.2 (if part < 64 then some part else m.linePart line) ctx line

/-- The event that made a line uncorrectable: class and cause of the record just logged for it. -/
def Module.lineCause (m : Module) (line : Nat) : Nat × Nat :=
  match m.ras.logs.getLast? with
  | some r => if r.cause = errMAC_FAIL && r.detail = line then (r.cls, r.cause) else ((lineUnit line).1, errMEM_UE)
  | none => ((lineUnit line).1, errMEM_UE)

/-- Does a line lie in the carve-out of a confidential partition? -/
def Module.lineConf (m : Module) (line : Nat) : Bool :=
  match m.linePart line with | some p => m.conf p | none => false

/-- What a code makes of a word with errors (R133, R134): one symbol or device is corrected; more are reported, two or three
symbols or two devices always, and a larger error unless it is taken for another word. -/
inductive CodeSays where
  | good
  | fixed
  | lost
  deriving DecidableEq, Repr

/-- The verdict on `n` symbols (HBM) or devices (DDR5) in error; `as_` is the word that a larger error is taken for. -/
def codeSays (ddr : Bool) (n : Nat) (as_ : Option (List Byte)) : CodeSays :=
  if n = 0 then .good
  else if n = 1 then .fixed
  else if n ≤ (if ddr then 2 else 3) then .lost
  else if as_.isSome then .fixed else .lost

/-- A line without errors, by index. -/
def LineErr.none_ (i : Nat) : LineErr := { line := i, first := 0, again := 0, firstAs := none, againAs := none }

/-- The errors of line `i`. -/
def ReadErrs.of (e : ReadErrs) (i : Nat) : LineErr := (e.lines.find? (fun x => x.line == i)).getD (LineErr.none_ i)

/-- The armed injections that the next read of a die sees (R149) on its first line `i`: an error of two symbols or devices in
both reads, which leaves the stored line as it is, or of one. Space of a confidential partition is passed by. -/
def Module.inject (m : Module) (base i : Nat) (errs : ReadErrs) : Module × ReadErrs × Bool :=
  let d := dieOf base
  let ddr : Bool := chanOf base ≥ 512
  let put (n k : Nat) : ReadErrs :=
    { errs with lines := { line := i, first := n, again := k, firstAs := none, againAs := none } :: errs.lines }
  if m.lineConf base then (m, errs, false)
  else if (if ddr then m.mem.injDdrUe else m.mem.injHbmUe).contains d then
    (m.setMem (fun x => if ddr then { x with injDdrUe := x.injDdrUe.filter (· != d) } else { x with injHbmUe := x.injHbmUe.filter (· != d) }),
     put 2 2, true)
  else if (if ddr then m.mem.injDdrCe else m.mem.injHbmCe).contains d then
    let m := m.setMem (fun x => if ddr then { x with injDdrCe := x.injDdrCe.filter (· != d) } else { x with injHbmCe := x.injHbmCe.filter (· != d) })
    (m, if (errs.of i).first = 0 then put 1 0 else errs, false)
  else (m, errs, false)

/-- What a word read gives. -/
structure WordBack where
  lost : Bool
  marks : Bool           -- both reads failed on the medium itself: the line stays uncorrectable
  as_ : Option (List Byte)
  deriving DecidableEq, Repr

/-- The code on one line of 64 bytes and its one immediate re-read (R135, R373). `known` says that the line stayed
uncorrectable (R382), `inj` that the error is injected. -/
def Module.readWord (m : Module) (line : Nat) (e : LineErr) (known inj : Bool) (ue : Nat) : Module × WordBack :=
  let ddr : Bool := chanOf line ≥ 512
  if known then (m.memUncorrectable line ue, { lost := true, marks := false, as_ := none })
  else match codeSays ddr e.first e.firstAs with
    | .good => (m, { lost := false, marks := false, as_ := none })
    | .fixed => (m.memCorrected line errMEM_CE, { lost := false, marks := false, as_ := if e.first ≤ 1 then none else e.firstAs })
    | .lost =>
      match codeSays ddr e.again e.againAs with
      | .lost => (m.memUncorrectable line (if inj then errMEM_UE else ue), { lost := true, marks := !inj, as_ := none })
      | _ => (m.memCorrected line errMEM_UE_REREAD_OK, { lost := false, marks := false, as_ := if e.again ≤ 1 then none else e.againAs })

/-- Does the tag of a granule match what the DIMM gave (R138)? -/
def tagOk (base : Nat) (raw : List Byte × List Byte) : Bool := granuleTag base raw.1 == raw.2

/-- The pair of ciphertext and tag that a read of the granule at `base`, whose plaintext is `pt`, meets: the DIMM's own where
it gives another than the module wrote, with the lines that the code took for other words. None: what the module wrote. -/
def rawOf (base : Nat) (pt : List Byte) (dimm : Option (List Byte × List Byte)) (as_ : List (Nat × List Byte)) :
    Option (List Byte × List Byte) :=
  if dimm.isNone && as_.isEmpty then none
  else
    let ct := granuleEnc base pt
    let raw := dimm.getD (ct, granuleTag base ct)
    some (as_.foldl (fun (r : List Byte × List Byte) x =>
      if x.1 = 4 then (r.1, (x.2.drop (base / 256 % 8 * 8)).take 8) else (setBytes r.1 (64 * x.1) (x.2.take 64), r.2)) raw)

/-- One tag check: an armed injection makes it fail (R149). -/
def Module.tagCheck (m : Module) (base : Nat) (bad : Bool) (raw : Option (List Byte × List Byte)) : Module × Bool :=
  let d := dieOf base
  let ok := !bad && (match raw with | some r => tagOk base r | none => true)
  if m.lineConf base then (m, ok)
  else match m.mem.injDdrMac.find? (·.1 == d) with
    | some (_, n) =>
      (m.setMem (fun x => { x with injDdrMac := x.injDdrMac.filter (·.1 != d) ++ (if n ≥ 2 then [(d, n - 1)] else []) }), false)
    | none => (m, ok)

/-- What a channel read brings. -/
structure GranBack where
  lost : List Nat        -- indices of lost lines; all of a DDR5 granule
  mark : List Nat        -- lines that stay uncorrectable from now on, by index
  badTag : Bool          -- the granule's tag stays wrong from now on
  as_ : List (Nat × List Byte) -- lines whose delivered and stored bytes are others than the module wrote
  deriving DecidableEq, Repr

/-- The code on the granule and its tag line as the second read of R139 brings them; true when that read is uncorrectable. -/
def Module.againEcc (m : Module) (base : Nat) (errs : ReadErrs) (ue : Nat) : Module × Bool :=
  ([0, 1, 2, 3, 4] : List Nat).foldl (fun (acc : Module × Bool) i =>
    let e := errs.of i
    let line := if i = 4 then base else base + 64 * i
    if acc.2 then acc
    else match codeSays true e.again e.againAs with
      | .good => acc
      | .fixed => (acc.1.memCorrected line errMEM_CE, false)
      | .lost => (acc.1.memUncorrectable line ue, true)) (m, false)

/-- The tag checks of a DDR5 granule, with the one re-read of R139. -/
def Module.granuleTags (m : Module) (base : Nat) (pt : List Byte) (badTag : Bool) (errs : ReadErrs) (as_ : List (Nat × List Byte))
    (ue : Nat) : Module × GranBack :=
  let give (r : Option (List Byte × List Byte)) : List (Nat × List Byte) :=
    match r with
    | none => []
    | some r => let d := granuleDec base r.1; (List.range 4).map (fun i => (i, (d.drop (64 * i)).take 64))
  let first := rawOf base pt errs.dimm.head? as_
  match m.tagCheck base badTag first with
  | (m, true) => (m, { lost := [], mark := [], badTag := false, as_ := give first })
  | (m, false) =>
    let second := rawOf base pt (errs.dimm.drop 1).head? (errs.lines.filterMap (fun e =>
      if e.again ≥ 3 then e.againAs.map (fun b => (e.line, b)) else none))
    let injected := !badTag && (match first with | some r => tagOk base r | none => true)
    match m.againEcc base errs ue with
    | (m, true) => (m, { lost := [0, 1, 2, 3], mark := [], badTag := false, as_ := [] })
    | (m, false) =>
    match m.tagCheck base badTag second with
    | (m, true) => (m.macReread base, { lost := [], mark := [], badTag := false, as_ := give second })
    | (m, false) => (m.macFailed base, { lost := [0, 1, 2, 3], mark := [], badTag := !injected, as_ := [] })

/-- A read of lines `is_` of the 256-byte line at channel offset `base`, whose bytes were `pt` when it was ordered (R133 to
R139): a DDR5 read takes the whole granule and its tag. `known` lists the lines that were uncorrectable then, and `i0` is the line
that an armed injection strikes. -/
def Module.granuleRead (m : Module) (base : Nat) (is_ : List Nat) (pt : List Byte) (known : List Nat) (badTag : Bool) (errs : ReadErrs)
    (ue i0 : Nat) : Module × GranBack :=
  let ddr : Bool := chanOf base ≥ 512
  let is_ := if ddr then [0, 1, 2, 3, 4] else is_
  let (m, errs, inj) := m.inject base i0 errs
  let (m, back) := is_.foldl (fun (acc : Module × GranBack) i =>
    let line := if i = 4 then base else base + 64 * i
    let (m, w) := acc.1.readWord line (errs.of i) (i < 4 && known.contains i) (inj && i == i0) ue
    (m, { acc.2 with lost := if w.lost then acc.2.lost ++ [i % 4] else acc.2.lost,
                     mark := if w.marks then acc.2.mark ++ [i % 4] else acc.2.mark,
                     as_ := match w.as_ with | some b => acc.2.as_ ++ [(i, b)] | none => acc.2.as_ }))
    (m, { lost := [], mark := [], badTag := false, as_ := [] })
  if !ddr then (m, back)
  else if !back.lost.isEmpty then (m, { back with lost := (back.lost ++ [0, 1, 2, 3]).eraseDups, as_ := [] })
  else m.granuleTags base pt badTag errs back.as_ ue

/-- Lines of a 256-byte line at `base`, by index, that a write of `n` bytes at `off` makes anew: those it covers, and on DDR5
the whole granule, which is encrypted and tagged again (R140). -/
def renewed (base off n : Nat) : List Nat :=
  if !(base < off + n && off < base + 256) then []
  else if chanOf base ≥ 512 then [0, 1, 2, 3]
  else (List.range 4).filter (fun i => off ≤ base + 64 * i && base + 64 * i + 64 ≤ off + n)

/-- What a read leaves on the medium: lines that stay uncorrectable, a wrong tag, and the words that were taken for others,
which a corrected read writes back (R135). `wrote` lists the writes since the read was ordered: lines they made anew keep what they
now hold, and so do the bytes they wrote (R142). -/
def Module.granuleLeaves (m : Module) (base : Nat) (wrote : List (Nat × Nat)) (g : GranBack) : Module :=
  let stale := wrote.flatMap (fun w => renewed base w.1 w.2)
  let mark := (g.mark.filter (fun i => !stale.contains i)).map (fun i => base + 64 * i)
  let m := if mark.isEmpty then m else m.setMem (fun x => { x with uncorr := mark.foldl insertU x.uncorr })
  let m := if g.badTag && stale.isEmpty then m.setMem (fun x => { x with badTag := insertU x.badTag base }) else m
  each (g.as_.filter (fun e => e.1 < 4 && !stale.contains e.1)) m (fun m e =>
    let at_ := base + 64 * e.1
    let bs := (e.2.take 64).zipIdx.map (fun b =>
      if wrote.any (fun w => w.1 ≤ at_ + b.2 && at_ + b.2 < w.1 + w.2) then m.mem.bytes.byte (at_ + b.2) else b.1)
    m.setMem (fun x => { x with bytes := x.bytes.write at_ bs }))

/-- Lines of the 256 at `base` that stay uncorrectable, by index. -/
def Module.knownLost (m : Module) (base : Nat) : List Nat := (List.range 4).filter (fun i => m.mem.uncorr.contains (base + 64 * i))

/-- A read made and finished in one step: the lost lines, as local offsets. -/
def Module.readNow (m : Module) (base : Nat) (is_ : List Nat) (errs : ReadErrs) (ue : Nat) : Module × List Nat :=
  let pt := if chanOf base ≥ 512 && (!errs.dimm.isEmpty || !errs.lines.isEmpty) then m.mem.bytes.read base 256 else []
  let (m, g) := m.granuleRead base is_ pt (m.knownLost base) (m.mem.badTag.contains base) errs ue (is_.headD 0)
  (m.granuleLeaves base [] g, g.lost.map (fun i => base + 64 * i))

/-- One checked read of the line of 64 bytes at `line`, redirected by a migration. -/
def Module.readLine (m : Module) (line0 : Nat) : Module × LineOutcome :=
  let line := m.readAt line0
  match m.readNow (alignDown line 256) [line % 256 / 64] ReadErrs.clean errMEM_UE with
  | (m, []) => (m, .good)
  | (m, _) => (m, .uncorrectable)

/-- Outcome of a checked access. -/
inductive MemOutcome where
  | ok
  | refused
  | uncorrectable (line : Nat)
  deriving DecidableEq, Repr

/-- The channel reads that `len` bytes at `off` need: the aligned 256-byte line and the lines of 64 bytes of it. -/
def spansOf (off len : Nat) : List (Nat × List Nat) :=
  let ls := linesOf off len
  ((ls.map (fun l => alignDown l 256)).eraseDups).map (fun b => (b, (ls.filter (fun l => alignDown l 256 == b)).map (fun l => l % 256 / 64)))

/-- Read every line of a list of channel reads, redirected by a migration; the first lost line decides. -/
def Module.readSpans (m : Module) (spans : List (Nat × List Nat)) (errs : ReadErrs) : Module × MemOutcome :=
  spans.foldl (fun (acc : Module × MemOutcome) p =>
    match acc.2 with
    | .ok =>
      match acc.1.readNow (acc.1.readAt p.1) p.2 errs errMEM_UE with
      | (m', []) => (m', .ok)
      | (m', l :: _) => (m', .uncorrectable l)
    | o => (acc.1, o)) (m, .ok)

/-- The bytes a read returns, with the redirects of R296; a table range returns the records wherever its space has moved. -/
def Module.dataAt (m : Module) (off len : Nat) : List Byte :=
  if m.mem.migs.isEmpty then m.bytesAt off len
  else (linePieces off (zeros len)).flatMap (fun p =>
    let o := m.offsetOf p.1
    if m.inTable o then m.bytesAt o p.2.length else m.mem.bytes.read (m.readAt p.1) p.2.length)

/-- A checked read of device memory on behalf of `p`. -/
def Module.memRead (m : Module) (p off len : Nat) : Module × MemOutcome × List Byte :=
  if !m.allowed p off len then (m.refuse p off, .refused, [])
  else match m.readSpans (spansOf off len) ReadErrs.clean with
    | (m', .ok) => (m', .ok, m'.dataAt off len)
    | (m', o) => (m', o, [])

/-! ### Writes -/

/-- A write reaches the die: open enlarger entries of its lines close (R141). -/
def Module.closeLines (m : Module) (off n : Nat) : Module :=
  m.setMem (fun x => { x with enl := x.enl.filter (fun e => !(e.2.line < off + n && off < e.2.line + 256)) })

/-- Lines written in full begin again as new lines in the error histories (R376). -/
def Module.forgetLines (m : Module) (off n : Nat) : Module :=
  let full (l : Nat) : Bool := off ≤ l && l + 64 ≤ off + n
  let forget (h : Hist) : Hist := { h with lines := h.lines.filter (fun l => !full l) }
  if m.ras.hist.any (fun e => !e.2.lines.isEmpty) then
    { m with ras := { m.ras with hist := m.ras.hist.map (fun e => (e.1, forget e.2)) } }
  else m

/-- `n` bytes at `off` have been written, by whatever writes them: lines written in full begin again as new lines (R376, R382), open
enlarger entries of a written line close, and reads ordered before keep the line as it was (R141, R142). -/
def Module.overwritten (m : Module) (off n : Nat) : Module :=
  (m.setMem (fun x => { x with
    uncorr := x.uncorr.filter (fun l => !(off ≤ l && l + 64 ≤ off + n)),
    badTag := x.badTag.filter (fun g => !(off ≤ g && g + 256 ≤ off + n)),
    reads := x.reads.map (fun r =>
      if r.line < off + n && off < r.line + 256 then { r with wrote := r.wrote ++ [(off, n)] } else r),
    enl := x.enl.filter (fun e => !(e.2.line < off + n && off < e.2.line + 256)) })).forgetLines off n

/-- Store bytes. -/
def Module.storeBytes (m : Module) (off : Nat) (bs : List Byte) : Module :=
  (m.setMem (fun x => { x with bytes := x.bytes.write off bs })).overwritten off bs.length

/-- Put a byte at `o` before runs of bytes: the first run begins with it where it follows at once. -/
def addRun (o : Nat) (b : Byte) (runs : List (Nat × List Byte)) : List (Nat × List Byte) :=
  match runs with
  | (p, l) :: rest => if p = o + 1 then (o, b :: l) :: rest else (o, [b]) :: (p, l) :: rest
  | [] => [(o, [b])]

/-- The runs of a byte string at `off` that lie in no object table. -/
def Module.outsideTables (m : Module) (off : Nat) (bs : List Byte) : List (Nat × List Byte) :=
  (bs.zipIdx.filter (fun b => !m.inTable (off + b.2))).foldr (fun b => addRun (off + b.2) b.1) []

/-- Store bytes outside the table ranges; those within are discarded (R350). -/
def Module.storeRaw (m : Module) (off : Nat) (bs : List Byte) : Module :=
  if m.tables.any (fun t => t.1 < off + bs.length && off < t.1 + t.2) && m.tablesHeld then
    each (m.outsideTables off bs) m (fun m p => m.storeBytes p.1 p.2)
  else m.storeBytes off bs

/-- Store bytes where the redirects of R296 send them. -/
def Module.store (m : Module) (off : Nat) (bs : List Byte) : Module :=
  if m.mem.migs.isEmpty then m.storeRaw off bs
  else each (linePieces off bs) m (fun m p => each (m.writeAt p.1) m (fun m t => m.storeRaw t p.2))

/-- The granules of 256 bytes that a write covers only in part (R140). -/
def partialGranules (off len : Nat) : List Nat :=
  if len = 0 then []
  else ((List.range ((off + len - 1) / 256 + 1 - off / 256)).map (fun i => (off / 256 + i) * 256)).filter
    (fun g => !(off ≤ g && g + 256 ≤ off + len))

/-- A checked write of device memory on behalf of `p`; `errs` is what the read of a partial DDR5 granule meets (R140). -/
def Module.memWriteErrs (m : Module) (p off : Nat) (bs : List Byte) (errs : ReadErrs) : Module × MemOutcome :=
  if !m.allowed p off bs.length then (m.refuse p off, .refused)
  else if chanOf off < 512 then (m.store off bs, .ok)
  else
    match m.readSpans ((partialGranules off bs.length).map (fun g => (g, [0, 1, 2, 3]))) errs with
    | (m', .ok) => (m'.store off bs, .ok)
    | (m', o) => (each (partialGranules off bs.length) m' (fun m g => m.closeLines (m.readAt g) 256), o)

/-- A checked write that meets no new error. -/
def Module.memWrite (m : Module) (p off : Nat) (bs : List Byte) : Module × MemOutcome := m.memWriteErrs p off bs ReadErrs.clean

/-! ### Bandwidth buckets (R145, R146) -/

def pathOf (off : Nat) : Nat := if chanOf off < 512 then 0 else 1

/-- A bucket belongs to a requester (kind 0 transfer engine, 2 steward, 3 sequence engine, 4 host), a partition and a class. -/
def bucketKey (req idx part cls : Nat) : Nat := (((if req ≤ 1 then 0 else req) * 4096 + idx) * 256 + part) * 8 + cls

/-- Floor and ceiling of a requester of a partition on a path: a quarter for each of the four sequence engines. -/
def Module.floorCeil (m : Module) (part req path : Nat) : Nat × Nat :=
  let (f, c) := floorOf m.recs part req path
  if req = 3 then (f / 4, c / 4) else (f, c)

/-- Rate of R146 from the largest fill `f`. -/
def rateOf (floor ceil f : Nat) : Nat := floor + (ceil - floor) * (255 - f) / 255

/-- `t` ac at the rate of R146, of which the floor `f` earns assured tokens; 1,024 bytes at most. -/
def Bucket.fill (x : Bucket) (f ceil t : Nat) : Bucket :=
  let a := min 1024 (x.assured + t * f)
  { x with assured := a, surplus := min (1024 - a) (x.surplus + t * (rateOf f ceil x.press - f)), at_ := x.at_ + t, since := x.since + t }

/-- A bucket filled until `now`, with the floor and ceiling of the requester and path that it has served. -/
def Module.filled (m : Module) (part : Nat) (x : Bucket) (now : Nat) : Bucket :=
  let (f, c) := m.floorCeil part x.req x.path
  x.fill f c (now - x.at_)

/-- A bucket is full when first used at `now`, and with no fill reported yet its requester runs at the ceiling (log entry 78). Reports
come at the multiples of 64 ac. -/
def bucketInit (req path now : Nat) : Bucket :=
  { assured := 1024, surplus := 0, press := 0, at_ := now, since := now % 64, req := req, path := path, chans := [] }

/-- The bucket of a request at `now`, filled at the rate of what it served until then, and with the requester kind and path that it now
serves: its rate follows their floor and ceiling from here on (R146). -/
def Module.bucketOf (m : Module) (q i part cls off now : Nat) : Bucket :=
  match m.mem.buckets.get? (bucketKey q i part cls) with
  | some x => { m.filled part x now with req := q, path := pathOf off }
  | none => bucketInit q (pathOf off) now

/-- Tokens for `b` bytes: those earned within the floor go first, and the request is assured when they suffice. -/
def Bucket.take (x : Bucket) (b : Nat) : Bucket × Bool :=
  if b ≤ x.assured then ({ x with assured := x.assured - b }, true)
  else ({ x with assured := 0, surplus := x.surplus - (b - x.assured) }, false)

end Sys2Proof.Machine
end

