-- ==== Sys2Proof/Machine/Fabric.lean ====
section
/-!
DEFINITION. The module fabric (R192 to R205): seams and the dies on them, lane groups, the routes between dies with those
that a retired seam changes, and the assured load of each seam direction.
-/
namespace Sys2Proof.Machine

/-- A die of the package. -/
inductive Node where
  | comp (c : Nat)
  | mem (d : Nat)
  | io (i : Nat)
  deriving DecidableEq, Repr

/-- The die on seam `k` of memory-side die `d` (R192). -/
def seamNode (d k : Nat) : Node := if k = 4 then .io (d / 2) else .comp ((2 * d + 6 + k) % 8)

/-- The two memory-side dies that compute die `c` has seams to (R192). -/
def memsOf (c : Nat) : List Nat := [c / 2 % 4, (c / 2 + 1) % 4]

/-- The seam between a die and memory-side die `d`, as d * 5 + k. -/
def seamOf (n : Node) (d : Nat) : Option Nat := ((List.range 5).find? (fun k => seamNode d k == n)).map (fun k => d * 5 + k)

/-- The memory-side die that two compute dies share, the lower choice by `b` when they share both. -/
def sharedMem (c c' : Nat) (b : Bool) : Option Nat :=
  let l := (memsOf c).filter (fun d => (memsOf c').contains d)
  if b && l.length = 2 then l[1]? else l.head?

/-! ### Lane groups (R202 to R204) -/

/-- Groups of a direction that are retired. -/
def Module.groupsGone (m : Module) (d k dir : Nat) : Nat := (m.seams.gone.filter (fun u => u / 64 == (d * 5 + k) * 2 + dir)).length

/-- Active groups and spare groups left of a direction: a group retired in this frame is replaced at its edge. -/
def Module.groupsNow (m : Module) (d k dir : Nat) : Nat × Nat :=
  let pend := (m.seams.pend.filter (fun u => u / 64 == (d * 5 + k) * 2 + dir)).length
  let left := 34 - (m.groupsGone d k dir - pend)
  (min 32 left - pend, left - min 32 left)

/-- Is a seam (d * 5 + k) retired? -/
def Module.seamGone (m : Module) (i : Nat) : Bool := m.fld (MEM_SEAM_STATE_state (i / 5) (i % 5)) == 2

/-! ### Routes (R194, R204) -/

/-- A crossing: seam (d * 5 + k) times 2, plus 0 towards the memory-side die and 1 away from it. -/
abbrev Crossing := Nat

/-- The way back over the same crossings. -/
def wayBack (l : List Crossing) : List Crossing := (l.map (fun x => if x % 2 = 0 then x + 1 else x - 1)).reverse

/-- One crossing from a die to memory-side die `d`. -/
def cross (n : Node) (d : Nat) : List Crossing := match seamOf n d with | some i => [2 * i] | none => []

/-- From compute die `c` to a memory-side die with a seam to it: direct, and over the partner die once that seam is retired
(R204). -/
def Module.legTo (m : Module) (c d : Nat) : List Crossing :=
  match seamOf (.comp c) d with
  | none => []
  | some i =>
    if !m.seamGone i then [2 * i]
    else
      let other := ((memsOf c).find? (· != d)).getD d
      cross (.comp c) other ++ wayBack (cross (.comp (c ^^^ 1)) other) ++ cross (.comp (c ^^^ 1)) d

/-- From compute die `c` through a memory-side die to compute die `c'` next to it. -/
def Module.hop (m : Module) (c c' : Nat) (b : Bool) : List Crossing :=
  match sharedMem c c' b with
  | some d => m.legTo c d ++ wayBack (m.legTo c' d)
  | none => []

/-- Does a route use no retired seam? -/
def Module.routeUp (m : Module) (l : List Crossing) : Bool := l.all (fun x => !m.seamGone (x / 2))

/-- Of two routes the one that bit 8 chooses, or the other one when a seam of it is retired (R194, R204). -/
def Module.either (m : Module) (b : Bool) (first second : List Crossing) (up1 up2 : Bool) : List Crossing :=
  let pick := if b then (if up2 || !up1 then second else first) else (if up1 || !up2 then first else second)
  if m.seams.gone.isEmpty then (if b then second else first) else pick

/-- Are the seams between compute die `c` and the memory-side die it shares with `c'` (choice `b`) up at both ends? -/
def Module.hopUp (m : Module) (c c' : Nat) (b : Bool) : Bool :=
  match sharedMem c c' b with
  | some d => m.routeUp (cross (.comp c) d ++ cross (.comp c') d)
  | none => false

/-- From compute die `c` to memory-side die `d`. -/
def Module.routeMem (m : Module) (c d : Nat) : List Crossing :=
  if (memsOf c).contains d then m.legTo c d
  else
    let t := if d = (c / 2 + 2) % 4 then (c + 2) % 8 else (c + 6) % 8
    m.hop c t false ++ m.legTo t d

/-- From compute die `c` to compute die `c'`; `b` is bit 8 of the target. -/
def Module.routeComp (m : Module) (c c' : Nat) (b : Bool) : List Crossing :=
  if c = c' then []
  else if c' = c ^^^ 1 then m.either b (m.hop c c' false) (m.hop c c' true) (m.hopUp c c' false) (m.hopUp c c' true)
  else if c' / 2 = (c / 2 + 2) % 4 then
    let t1 := (c + 2) % 8
    let t2 := (c + 6) % 8
    m.either b (m.hop c t1 false ++ m.hop t1 c' false) (m.hop c t2 false ++ m.hop t2 c' false)
      (m.hopUp c t1 false && m.hopUp t1 c' false) (m.hopUp c t2 false && m.hopUp t2 c' false)
  else m.hop c c' false

/-- From memory-side die `d` to I/O die `i`. -/
def Module.routeIo (m : Module) (d i : Nat) (b : Bool) : List Crossing :=
  let own := cross (.io (d / 2)) d
  if d / 2 = i && m.routeUp own then wayBack own
  else
    -- the ring neighbour on the other I/O die, and the pair of compute dies that both have seams to
    let d' := 3 - d
    let pair := (List.range 8).filter (fun c => (memsOf c).contains d && (memsOf c).contains d')
    let via (c : Nat) : List Crossing := wayBack (cross (.comp c) d) ++ cross (.comp c) d' ++ wayBack (cross (.io (d' / 2)) d')
    let r1 := via (pair.headD 0)
    let r2 := via (pair.getD 1 0)
    m.either b r1 r2 (m.routeUp r1) (m.routeUp r2)

/-- From memory-side die `d` to memory-side die `d'`, as a redirected request and a copy go (R296): neighbours by one of the two compute
dies that both have seams to, chosen as R194 chooses, and opposite ones through the die after `d` (log entry 109). -/
def Module.routeMem2 (m : Module) (d d' : Nat) (b : Bool) : List Crossing :=
  let next (d d' : Nat) : List Crossing :=
    let pair := (List.range 8).filter (fun c => (memsOf c).contains d && (memsOf c).contains d')
    let via (c : Nat) : List Crossing := wayBack (cross (.comp c) d) ++ cross (.comp c) d'
    let r1 := via (pair.headD 0)
    let r2 := via (pair.getD 1 0)
    m.either b r1 r2 (m.routeUp r1) (m.routeUp r2)
  if d = d' then []
  else if (d + 1) % 4 = d' || (d' + 1) % 4 = d then next d d'
  else next d ((d + 1) % 4) ++ next ((d + 1) % 4) d'

/-- The crossings of data from die `n` to memory-side die `d`. -/
def Module.routeTo (m : Module) (n : Node) (d : Nat) (b : Bool) : List Crossing :=
  match n with
  | .comp c => m.routeMem c d
  | .mem d' => m.routeMem2 d' d b
  | .io i => wayBack (m.routeIo d i b)

/-- From compute die `c` to I/O die `i` and back are one way, over the memory-side die with seams to both, or the nearest to `c` with a
seam to the I/O die where there is none (log entry 109). -/
def Module.routeCompIo (m : Module) (c i : Nat) (b : Bool) : List Crossing :=
  let ds := (List.range 4).filter (fun d => d / 2 == i)
  let d := ((memsOf c).find? (fun d => ds.contains d)).getD (ds.headD 0)
  m.routeMem c d ++ m.routeIo d i b

/-- The I/O die of the PCIe port, a fact of the part that the chapters do not give. -/
def hostIo : Nat := Config.fixedNat 40 0 % 2

/-! ### The assured load (R199, R205) -/

/-- Clock in MHz of an operating point (R400). -/
def pointMHz (p : Nat) : Nat := 600 + 50 * p

def Module.setSeams (m : Module) (f : Seams → Seams) : Module := { m with seams := f m.seams }

/-- Add `n` assured bytes to each crossing. -/
def addLoad (l : List Crossing) (n : Nat) (s : Seams) : Seams :=
  { s with load := l.foldl (fun a x => SMap.set (fun _ => 0) a x (SMap.get (fun _ => 0) a x + n)) s.load }

/-- Is `x` the transfer that `f` goes on with? -/
def SeamFlow.joins (f x : SeamFlow) : Bool := x.owner == f.owner && x.way == f.way && x.floor == f.floor && x.line == f.line

/-- A transfer of `left` bytes begins, or goes on where its engine moves data that way already. -/
def Module.addFlow (m : Module) (f : SeamFlow) : Module :=
  if f.way.isEmpty || f.left = 0 || f.rate = 0 then m
  else m.setSeams (fun s => { s with
    flows := if s.flows.any f.joins then s.flows.map (fun x => if f.joins x then { x with left := x.left + f.left } else x)
      else s.flows ++ [f] })

/-- The floor of a requester, in bytes per ac, counts for 64 ac on each direction that its traffic crosses, once for each
crossing of the route and once in an interval. -/
def Module.floorLoad (m : Module) (key floor : Nat) (l : List Crossing) : Module :=
  let new := l.filter (fun x => !m.seams.seen.contains (x, key))
  m.setSeams (fun s => { addLoad new (64 * floor) s with seen := new.eraseDups.map (fun x => (x, key)) ++ s.seen })

/-- Does a route pass through a transit die: does it leave one memory-side die for the next (R194)? -/
def transits : List Crossing → Bool
  | a :: b :: l => (a % 2 == 1 && b % 2 == 0) || transits (b :: l)
  | _ => false

/-- A request crosses the seams of its route with its mark; transit traffic is always assured (R198). DEDUCED (log entry 98): transit
traffic is what crosses a transit die, on every seam of its route. -/
def Module.markWay (m : Module) (way : List Crossing) (assured : Bool) : Module :=
  m.setSeams (fun s => { s with marks := s.marks ++ way.map (fun x => (x, assured || transits way)) })

/-- What a transfer under way adds to the interval: its floor, once, or the bytes it moves. -/
def Module.flowLoad (m : Module) (f : SeamFlow) : Module :=
  match f.floor with
  | some (k, n) => m.floorLoad k n f.way
  | none => m.setSeams (addLoad f.way (min f.left f.rate))

/-- The transfers that count in an interval: reads of the same data by several engines of a die share the multicast of the enlarger,
which counts once for each seam, at the largest of their floors (R141, R199). -/
def flowsOnce (l : List SeamFlow) : List SeamFlow :=
  l.foldl (fun acc f =>
    match acc.find? (fun x => f.line.isSome && x.line == f.line && x.way == f.way) with
    | some x => if (x.floor.map (·.2)).getD 0 < (f.floor.map (·.2)).getD 0 then acc.map (fun y => if y == x then f else y) else acc
    | none => acc ++ [f]) []

/-- An interval of 64 ns ends: the largest loads of the frame. -/
def Module.loadInterval (m : Module) : Module :=
  (each (flowsOnce m.seams.flows) m Module.flowLoad).setSeams (fun s => { s with
    peak := s.load.foldl (fun a e => SMap.set (fun _ => 0) a e.1 (max e.2 (SMap.get (fun _ => 0) a e.1))) s.peak, load := [], seen := [],
    marks := [],
    flows := (s.flows.filter (fun f => f.rate < f.left)).map (fun f => { f with left := f.left - f.rate }) })

/-- A load of 64 ns in percent of the direction's present capacity of 125 B/ns for each active group, saturating. -/
def Module.loadPercent (m : Module) (x n : Nat) : Nat :=
  let cap := 64 * 125 * (m.groupsNow (x / 10) (x / 2 % 5) (x % 2)).1
  if n = 0 then 0 else if cap = 0 then 255 else min 255 (100 * n / cap)

/-- The edge: the largest loads of the frame that ends are shown until the next. -/
def Module.loadEdge (m : Module) : Module :=
  let m := m.loadInterval
  m.setSeams (fun s => { s with
    flows := [],
    shown := s.peak.foldl (fun a e => SMap.set (fun _ => 0) a e.1 (m.loadPercent e.1 e.2)) [], peak := [] })

/-- MEM_SEAM_LOAD of seam `k` of die `d`. -/
def Module.seamLoadWord (m : Module) (d k : Nat) : Nat :=
  SMap.get (fun _ => 0) m.seams.shown ((d * 5 + k) * 2) + 256 * SMap.get (fun _ => 0) m.seams.shown ((d * 5 + k) * 2 + 1)

end Sys2Proof.Machine
end

