-- ==== Sys2Proof/Machine/Xlat.lean ====
section
/-!
DEFINITION. Address translation (R172 to R191): the caches and their lookup, merging and eviction; ATS requests and
their joiners; Page Requests and their responses; invalidations and flushes.
-/
namespace Sys2Proof.Machine

def Module.setXlat (m : Module) (f : Xlat → Xlat) : Module := { m with xlat := f m.xlat }
def Module.setObj (m : Module) (f : Objects → Objects) : Module := { m with obj := f m.obj }

/-- A core that nothing has used since reset. -/
def coreInit : Core :=
  { plate := [], tags := [], run := none, acc := none, injResidue := false, injPlateCe := false, injPlateUe := false,
    injAccParity := false, lastCtx := none, clearing := false }

def Module.core (m : Module) (c : Nat) : Core := (m.cores.get? c).getD coreInit
def Module.setCore (m : Module) (c : Nat) (k : Core) : Module := { m with cores := m.cores.put c k }
def Module.modCore (m : Module) (c : Nat) (f : Core → Core) : Module := m.setCore c (f (m.core c))

/-- A context is found to be lost: it is marked in step 3 of the window of this frame (R369). -/
def Module.willLose (m : Module) (ctx cause : Nat) : Module :=
  m.setObj (fun o => { o with toLose := o.toLose ++ [(ctx, cause)] })

/-! ### LOST causes (R369) -/

def lostBUDGET : Nat := 0x01
def lostTILE_INVALID : Nat := 0x02
def lostSTEWARD_FAULT : Nat := 0x03
def lostMEM_RANGE : Nat := 0x04
def lostSEQ_RANGE : Nat := 0x05
def lostXLAT_FAULT : Nat := 0x06
def lostCOLL_POST : Nat := 0x07
def lostFENCE_JUMP : Nat := 0x08
def lostBAD_OBJECT : Nat := 0x09
def lostOBJ_RANGE : Nat := 0x0A
def lostHOST_LINK : Nat := 0x0B
def lostDATA_LOST : Nat := 0x0C
def lostTWIN : Nat := 0x0D
def lostDRIVER : Nat := 0x0E
def lostFUNCTION_RESET : Nat := 0x0F

/-! ### The caches -/

/-- The home die of a virtual address (R176). -/
def homeDie (va pasid : Nat) : Nat := bits va 30 2 ^^^ bits pasid 0 2

/-- Bytes an entry covers. -/
def XEntry.size (e : XEntry) : Nat := 2 ^ (e.pageLog + e.k)

/-- Does an entry cover an address of a function and PASID? -/
def XEntry.covers (e : XEntry) (fn pasid va : Nat) : Bool :=
  e.fn == fn && e.pasid == pasid && e.vbase ≤ va && va < e.vbase + e.size

/-- The entry of the home cache that translates an access to an address (R176, R183). -/
def Module.xFind (m : Module) (fn pasid va : Nat) (write : Bool) : Option XEntry :=
  m.xlat.entries.find? (fun e => e.die == homeDie va pasid && e.covers fn pasid va && e.read && (!write || e.write))

/-- Mark an entry used, and pinned by a tile whose fetch found it (R182). -/
def Module.xTouch (m : Module) (e : XEntry) (pin : Option Nat) : Module :=
  m.setXlat (fun x => { x with
    stamp := x.stamp + 1,
    entries := x.entries.map (fun o =>
      if o == e then { o with used := x.stamp + 1, pins := match pin with | some u => insertU o.pins u | none => o.pins } else o) })

/-- Do two entries stand for one translated run: are they copies of one entry (R177)? -/
def XEntry.sameRun (a b : XEntry) : Bool := a.fn == b.fn && a.pasid == b.pasid && a.vbase == b.vbase && a.size == b.size

/-- Pin every copy of an entry that a tile's fetch installed (R182). -/
def Module.xPin (m : Module) (e : XEntry) (uid : Nat) : Module :=
  m.setXlat (fun x => { x with entries := x.entries.map (fun o => if o.sameRun e then { o with pins := insertU o.pins uid } else o) })

/-- Does an entry lie wholly within another of its function and PASID? -/
def XEntry.within (a b : XEntry) : Bool :=
  a.fn == b.fn && a.pasid == b.pasid && b.vbase ≤ a.vbase && a.vbase + a.size ≤ b.vbase + b.size

/-- Tiles that pin any of a list of entries. -/
def pinsOf (es : List XEntry) : List Nat := es.foldl (fun l e => e.pins.foldl insertU l) []

/-- The entry with which `e` merges, if any, whichever cache holds its copies (R177): same owner, page size and permissions,
contiguous in both spaces, the run aligned in both to its own size, and at most 2^9 pages. -/
def mergeOf (es : List XEntry) (e : XEntry) : Option XEntry :=
  let two := 2 * e.size
  if e.k ≥ 9 then none
  else es.find? (fun f =>
    f.fn == e.fn && f.pasid == e.pasid && f.pageLog == e.pageLog && f.k == e.k && f.read == e.read && f.write == e.write &&
    (let lo := min e.vbase f.vbase
     let plo := min e.pbase f.pbase
     lo % two == 0 && plo % two == 0 &&
     max e.vbase f.vbase == lo + e.size && max e.pbase f.pbase == plo + e.size &&
     decide (e.vbase < f.vbase) == decide (e.pbase < f.pbase)))

/-- Merge an entry with its neighbours while it can; the result is the entries left and the merged one, pinned by every
tile that pinned a part of it. The fuel bounds the ten sizes. -/
def mergeIn : Nat → List XEntry → XEntry → List XEntry × XEntry
  | 0, es, e => (es, e)
  | n + 1, es, e =>
    match mergeOf es e with
    | none => (es, e)
    | some f =>
      mergeIn n (es.filter (fun o => !o.sameRun f))
        { e with vbase := min e.vbase f.vbase, pbase := min e.pbase f.pbase, k := e.k + 1,
                 pins := (pinsOf (es.filter (·.sameRun f))).foldl insertU e.pins }

/-- The least recently used entry of a list. -/
def lru (es : List XEntry) : Option XEntry :=
  es.foldl (fun b e => match b with | none => some e | some x => if e.used < x.used then some e else some x) none

/-- Make room for one entry of a function in a cache (R178); none when no entry can be evicted. -/
def Module.xRoom (m : Module) (die fn : Nat) : Option Module :=
  let here := m.xlat.entries.filter (·.die == die)
  if here.length < 16384 then some m
  else
    let free := here.filter (·.pins.isEmpty)
    let own := free.filter (·.fn == fn)
    let cand := if (here.filter (·.fn == fn)).length ≥ m.fld (XLAT_QUOTA_entries fn) then lru own else lru free
    match cand with
    | none => none
    | some v => some (m.setXlat (fun x => { x with entries := x.entries.filter (· != v) }))

/-- The home dies of the addresses an entry covers. -/
def entryDies (vbase size pasid : Nat) : List Nat :=
  (List.range (min 4 (max 1 (size / 2 ^ 30)))).foldl (fun l i => insertU l (homeDie (vbase + i * 2 ^ 30) pasid)) []

/-- Put one copy of an entry into the cache of a die, if there is room (R178). -/
def Module.xCopy (m : Module) (e : XEntry) (die : Nat) : Module × Bool :=
  match m.xRoom die e.fn with
  | none => (m.raise XLAT_EVENT_cache_full, false)
  | some m => (m.setXlat (fun x => { x with entries := x.entries ++ [{ e with die := die, used := x.stamp }] }), true)

/-- Install a translation in the caches of its home dies (R177, R178): it takes the place of the entries within it, with
their pins, and merges with its neighbours. The second result says whether the home cache of `page` took it. -/
def Module.xInstall (m : Module) (e : XEntry) (page : Nat) : Module × Bool :=
  let e := { e with pins := pinsOf (m.xlat.entries.filter (·.within e)) }
  let r := mergeIn 10 (m.xlat.entries.filter (fun o => !o.within e)) e
  (entryDies r.2.vbase r.2.size r.2.pasid).foldl (fun (acc : Module × Bool) d =>
    let c := acc.1.xCopy r.2 d
    (c.1, acc.2 || (c.2 && d == homeDie page e.pasid)))
    (m.setXlat (fun x => { x with stamp := x.stamp + 1, entries := r.1 }), false)

/-! ### Capabilities (R190) -/

/-- What every function exposes of its ATS, PRI and PASID capabilities. -/
structure XlatCaps where
  invalidateQueueDepth : Nat
  pageAlignedRequest : Bool
  globalInvalidate : Bool
  pageRequestCapacity : Nat
  prgResponsePasid : Bool
  maxPasidWidth : Nat
  executePermission : Bool
  privilegedMode : Bool
  deriving DecidableEq, Repr

/-- The values of R190, the same for every function; the Smallest Translation Unit that software programs changes nothing. -/
def xlatCaps : XlatCaps :=
  { invalidateQueueDepth := 32, pageAlignedRequest := true, globalInvalidate := true, pageRequestCapacity := 512,
    prgResponsePasid := true, maxPasidWidth := 20, executePermission := false, privilegedMode := false }

/-! ### Requests -/

/-- The 4 KiB page of an address. -/
def pageOf (va : Nat) : Nat := va - va % 4096

/-- Outstanding ATS requests of a die. -/
def Module.atsCount (m : Module) (die : Nat) : Nat :=
  (m.xlat.ats.filter (fun r => r.sent && homeDie r.page r.pasid == die)).length

/-- Send the requests that wait for room, oldest first (R179). -/
def Module.atsPump (m : Module) : Module :=
  m.xlat.ats.foldl (fun (acc : Module) r =>
    if !r.sent && acc.mayLeave r.fn && acc.atsCount (homeDie r.page r.pasid) < 256 then
      (acc.setXlat (fun x => { x with ats := x.ats.map (fun q => if q == r then { q with sent := true } else q) })).emit
        (.atsRequest r.fn r.pasid r.page r.write)
    else acc) m

/-- Add a joiner to a list of them. -/
def addNeed (l : List Need) (n : Need) : List Need := insertU l n

/-- Ask for a translation: join the outstanding request of the page, or make one (R179). One that has not gone out asks for write
access as soon as a joiner needs it (R181). -/
def Module.askAts (m : Module) (fn pasid va : Nat) (n : Need) : Module :=
  let p := pageOf va
  if m.xlat.ats.any (fun r => r.fn == fn && r.pasid == pasid && r.page == p) then
    m.setXlat (fun x => { x with ats := x.ats.map (fun r =>
      if r.fn == fn && r.pasid == pasid && r.page == p then { r with joiners := addNeed r.joiners n, write := r.write || (!r.sent && n.write) } else r) })
  else
    (m.setXlat (fun x => { x with ats := x.ats ++
      [{ fn := fn, pasid := pasid, page := p, write := n.write, joiners := [n], after := [], sent := false }] })).atsPump

/-- Page Requests outstanding. -/
def Module.pagesOut (m : Module) : Nat := (m.xlat.pages.filter (·.sent)).length

/-- Those of one function. -/
def Module.pagesOutOf (m : Module) (fn : Nat) : Nat := (m.xlat.pages.filter (fun p => p.sent && p.fn == fn)).length

/-- How many a function may have outstanding: the allocation that software wrote into its PRI capability (R184). -/
def Module.priAlloc (m : Module) (fn : Nat) : Nat :=
  min xlatCaps.pageRequestCapacity ((m.xlat.alloc.get? fn).getD xlatCaps.pageRequestCapacity)

/-- Send the Page Requests that wait, in fault order, as far as the module and the function have room (R184). -/
def Module.pagePump (m : Module) : Module :=
  m.xlat.pages.foldl (fun (acc : Module) r =>
    if !r.sent && acc.mayLeave r.fn && acc.pagesOut < xlatCaps.pageRequestCapacity && acc.pagesOutOf r.fn < acc.priAlloc r.fn then
      (acc.setXlat (fun x => { x with pages := x.pages.map (fun q => if q == r then { q with sent := true } else q) })).emit
        (.pageRequest r.fn r.pasid r.page r.write r.prg)
    else acc) m

/-- Send a Page Request for a page, with write access when `write` says that someone who needs the page now needs it, or join the one
outstanding (R184); a request that has not gone out asks for write access as soon as a joiner needs it. A joiner counts once. -/
def Module.askPage (m : Module) (fn pasid va : Nat) (write : Bool) (n : Need) : Module :=
  let p := pageOf va
  if m.xlat.pages.any (fun r => r.fn == fn && r.pasid == pasid && r.page == p && r.joiners.contains n) then m
  else if m.xlat.pages.any (fun r => r.fn == fn && r.pasid == pasid && r.page == p) then
    (m.count (XLAT_PRI_joined (homeDie p pasid)) 1).setXlat (fun x => { x with pages := x.pages.map (fun r =>
      if r.fn == fn && r.pasid == pasid && r.page == p then
        { r with joiners := addNeed r.joiners n, write := r.write || (!r.sent && n.write) } else r) })
  else
    (m.setXlat (fun x => { x with
      prgNext := x.prgNext + 1,
      pages := x.pages ++ [{ fn := fn, pasid := pasid, page := p, write := write, joiners := [n], sent := false,
                             prg := x.prgNext }] })).pagePump

/-! ### Causes of XLAT_FAULT_INFO (R191) -/

def xPRI_INVALID : Nat := 1
def xPRI_FAILURE : Nat := 2
def xPRI_TIMEOUT : Nat := 3
def xNO_WRITE : Nat := 4
def xNO_ACCESS : Nat := 5
def xATS_ERROR : Nat := 6

/-- Record a failure (R185); a confidential partition's failures leave the registers as they are. -/
def Module.xFault (m : Module) (fn pasid va cause : Nat) : Module :=
  let hide := match fnPart m.recs fn with | some p => m.conf p | none => false
  let m := if hide then m
    else (m.setReg64 XLAT_FAULT_VA_LO XLAT_FAULT_VA_HI va).setReg XLAT_FAULT_INFO (pasid + fn * 2 ^ 20 + cause * 2 ^ 27)
  m.raise XLAT_EVENT_xlat_fault

/-- Unpin every entry of a tile (R182). -/
def Module.unpin (m : Module) (uid : Nat) : Module :=
  m.setXlat (fun x => { x with entries := x.entries.map (fun e => { e with pins := e.pins.filter (· != uid) }) })

/-! ### Joiners -/

/-- The request of a joiner is done: the translations that were held for it alone go (R178). -/
def Module.served (m : Module) (j : Joiner) : Module :=
  m.setXlat (fun x => { x with oneShot := x.oneShot.filter (·.1 != j) })

/-- End the running attempt of a core without publishing anything. -/
def Module.dropRun (m : Module) (c : Nat) : Module :=
  (m.modCore c (fun k => { k with run := none })).setXlat (fun x => { x with
    oneShot := x.oneShot.filter (fun o => match o.1 with | .core d _ _ => d != c | _ => true) })

/-- Put a tile among the retries of the next frame (R25, R379), in the order the attempts ended. -/
def Module.retryTile (m : Module) (t : Tile) : Module := { m with retries := m.retries ++ [t] }

/-- The tile with a number, wherever it stands. -/
def Module.tileOf (m : Module) (uid : Nat) : Option Tile :=
  match (m.lists ++ m.retries ++ m.nextLists ++ m.agreeQ).find? (·.uid == uid) with
  | some t => some t
  | none => m.cores.findSome? (fun e => e.2.run.bind (fun r => if r.tile.uid = uid then some r.tile else none))

def Module.failTile (m : Module) (uid : Nat) : Module :=
  match m.tileOf uid with
  | some t => m.willLose t.ctx lostXLAT_FAULT
  | none => m

/-- A need that fails as it is made: its tile is in hand, and may stand in no list (R185). -/
def Module.failInHand (m : Module) (j : Joiner) : Module :=
  match j with
  | .tile u c | .body u c => if (m.tileOf u).isSome then m else m.willLose c lostXLAT_FAULT
  | _ => m

/-- A joiner fails (R185): a tile's context is lost with cause XLAT_FAULT, in the window of this frame. A tier-2 page
is left to the sequence rules (R163), which find no translation. -/
def Module.joinerFail (m : Module) (fn pasid va cause : Nat) (j : Joiner) : Module :=
  let m := m.xFault fn pasid va cause
  match j with
  | .tile u _ => m.failTile u
  | .body u _ => m.failTile u
  | .core c u _ =>
    (match (m.core c).run with
     | some r => if r.tile.uid == u then ((m.dropRun c).retryTile r.tile).willLose r.tile.ctx lostXLAT_FAULT else m
     | none => m)
  | .ring q => (match m.obj.queues.get? q with
    | some k => (m.setObj (fun o => { o with queues := o.queues.mod q (fun k => { k with cmdBad := true }) })).willLose k.ctx lostXLAT_FAULT
    | none => m)
  | .cpl q => (match m.obj.queues.get? q with
    | some k => (m.setObj (fun o => { o with queues := o.queues.mod q (fun k => { k with cplBad := true }) })).willLose k.ctx lostXLAT_FAULT
    | none => m)
  | .stream q => (match m.obj.queues.get? q with | some k => m.willLose k.ctx lostXLAT_FAULT | none => m)
  | .entry _ _ c => m.willLose c lostXLAT_FAULT
  | .shadow _ _ => m
  | .seed vd => { m with twin := { m.twin with vds := m.twin.vds.mod vd (fun t => { t with seedBad := insertU t.seedBad (va / 4096 * 4096) }) } }
  | .seqPage s p => m.setXlat (fun x => { x with pageFails := insertU x.pageFails (s, p) })

/-! ### Translating -/

/-- Result of a translation. -/
inductive XRes where
  | hit (pa : Nat)
  | wait
  deriving DecidableEq, Repr

/-- A lookup misses: the need joins the Page Request of its page, or a Translation Request; after a Response Failure of
the function it fails at once (R179, R184, R185). -/
def Module.xMiss (m : Module) (fn pasid va : Nat) (n : Need) : Module :=
  if m.xlat.failed.contains fn then (m.joinerFail fn pasid va xPRI_FAILURE n.who).failInHand n.who
  else if m.xlat.pages.any (fun r => r.fn == fn && r.pasid == pasid && r.page == pageOf va) then m.askPage fn pasid va n.write n
  else m.askAts fn pasid va n

/-- The die that looks an address up for a joiner: that of its core or, where no core asks, the I/O die of the PCIe port (log entry 109). -/
def Module.lookupNode (m : Module) (j : Joiner) : Node :=
  match j with
  | .core c _ _ => .comp (c / 128)
  | .tile u _ | .body u _ => (match m.tileOf u with | some t => .comp (t.core / 128) | none => .io hostIo)
  | _ => .io hostIo

/-- Translate an address for a joiner, at the home die, to which the lookup crosses as control traffic (R176, R200): a hit, or a miss that waits or fails (R178, R179, R183). Hits and misses are
counted at the home die; a translation that could not be installed serves the joiner it was fetched for, until its request is
done. -/
def Module.translate (m : Module) (fn pasid va : Nat) (write : Bool) (j : Joiner) : Module × XRes :=
  let d := homeDie va pasid
  let m := m.markWay (m.routeTo (m.lookupNode j) d (va.testBit 8)) false
  match m.xFind fn pasid va write with
  | some e =>
    ((m.count (XLAT_HITS_count d) 1).xTouch e (match j with | .tile u _ => some u | _ => none), .hit (e.pbase + (va - e.vbase)))
  | none =>
    let m := m.count (XLAT_MISSES_count d) 1
    match m.xlat.oneShot.find? (fun o => o.1 == j && o.2.covers fn pasid va && (!write || o.2.write)) with
    | some o => (m, .hit (o.2.pbase + (va - o.2.vbase)))
    | none => (m.xMiss fn pasid va { who := j, write := write, retry := false }, .wait)

/-- Where a translated piece lies. -/
inductive Place where
  | loc (off : Nat)
  | host (pa : Nat)
  | remote
  deriving DecidableEq, Repr

/-- The place of a translated address (R174). -/
def Module.place (m : Module) (pa : Nat) : Place :=
  if bits pa 58 6 = 0x3E then (if bits pa 42 16 = m.selfId then .loc (bits pa 0 42) else .remote) else .host pa

/-- The pieces of a byte range: place and length. -/
inductive Pieces where
  | got (ps : List (Place × Nat))
  | wait
  deriving DecidableEq, Repr

/-- Translate a byte range in pieces of one 4 KiB page each; every missing page is asked for. -/
def Module.translateRange (m : Module) (fn pasid va len : Nat) (write : Bool) (j : Joiner) : Module × Pieces :=
  go va len (len / 4096 + 2) m (.got [])
where
  go (va len : Nat) : Nat → Module → Pieces → Module × Pieces
    | 0, m, acc => (m, acc)
    | fuel + 1, m, acc =>
      if len = 0 then (m, acc)
      else
        let n := min len (4096 - va % 4096)
        let (m, r) := m.translate fn pasid va write j
        let acc := match r, acc with
          | .hit pa, .got ps => .got (ps ++ [(m.place pa, n)])
          | .wait, _ => .wait
          | .hit _, a => a
        go (va + n) (len - n) fuel m acc

/-- Write the shadow of a timeline at a translated address; a remote or refused address is logged and nothing else
follows (R368). -/
def Module.shadowStore (m : Module) (part pa value : Nat) : Module :=
  if m.quiet then m
  else if bits pa 58 6 = 0x3E then
    if bits pa 42 16 = m.selfId then (m.memWrite part (bits pa 0 42) (leBytes 8 value)).1
    else m.refuse part (bits pa 0 42)
  else m.hostWrite (partFn m.recs part) pa (leBytes 8 value)

/-- A joiner whose translation arrived resumes: the prefetch of a tile that is still there pins its entry in every cache that took
it, a shadow is written; the others look their address up again when they are next served, with the translation itself where it
was not installed. -/
def Module.joinerResume (m : Module) (e : XEntry) (installed : Bool) (page : Nat) (j : Joiner) : Module :=
  match j with
  | .tile u _ =>
    (match m.xFind e.fn e.pasid page e.write with
     | some o => if installed && (m.tileOf u).isSome then m.xPin o u else m
     | none => m)
  | .shadow tl value =>
    (match m.obj.tls.get? tl with
     | some t =>
       let part := match m.obj.ctxs.get? t.ctx with | some c => c.part | none => 0xFF
       m.shadowStore part (e.pbase + (t.shadowVa - e.vbase)) value
     | none => m)
  | _ => if installed then m else m.setXlat (fun x => { x with oneShot := x.oneShot ++ [(j, e)] })

/-! ### Completions and responses -/

/-- Does an invalidation overlap a range of a function and PASID? -/
def Inval.hits (i : Inval) (fn pasid base size : Nat) : Bool :=
  i.fn == fn && (match i.pasid with | some p => p == pasid | none => true) &&
  (i.size == 0 || (i.base < base + size && base < i.base + i.size))

/-- The page size and k of a translated range of 2^s bytes (R177). -/
def sizeOf (s : Nat) : Nat × Nat := if s ≥ 30 then (30, min 9 (s - 30)) else if s ≥ 21 then (21, s - 21) else (12, s - 12)

/-- An ATS completion arrives for a page: `ok` false means it completed with UR or CA (R180, R184). -/
def effTranslationCompletion (fn pasid page : Nat) (ok : Bool) (pa sizeLog : Nat) (r w : Bool) (m : Module) : Module :=
  match m.xlat.ats.find? (fun q => q.sent && q.fn == fn && q.pasid == pasid && q.page == page) with
  | none => m
  | some q =>
    let s := max 12 sizeLog
    let (pl, k) := sizeOf s
    let reach := if ok then 2 ^ (pl + k) else 4096
    if q.after.any (fun i => i.hits fn pasid (alignDown page reach) reach) then
      -- asked for again, as far as the function's requests leave (R334, R343, R458)
      (m.setXlat (fun x => { x with ats := x.ats.map (fun y => if y == q then { y with after := [], sent := false } else y) })).atsPump
    else
      let m := m.setXlat (fun x => { x with ats := x.ats.filter (· != q) })
      let m :=
        if !ok then each q.joiners m (fun m j => m.joinerFail fn pasid page xATS_ERROR j.who)
        else
          let e : XEntry :=
            { die := homeDie page pasid, fn := fn, pasid := pasid, vbase := alignDown page reach,
              pbase := alignDown pa reach, pageLog := pl, k := k, read := r, write := w, pins := [], used := 0 }
          let (m, inst) := if r then m.xInstall e page else (m, true)
          each q.joiners m (fun m j =>
            if r && (!j.write || w) then m.joinerResume e inst page j.who
            else if j.retry then m.joinerFail fn pasid page (if r then xNO_WRITE else xNO_ACCESS) j.who
            else m.askPage fn pasid page (q.joiners.any (·.write)) j)
      m.atsPump

/-- Take a Page Request out and let the next one go. -/
def Module.pageDone (m : Module) (p : PageReq) : Module :=
  m.setXlat (fun x => { x with pages := x.pages.filter (· != p) })

/-- Every request of a function fails: those that wait or ask for pages, and the joiners of its Translation Requests,
whose own completions then serve nobody (R185). -/
def Module.failFunction (m : Module) (fn : Nat) : Module :=
  let pages := m.xlat.pages.filter (·.fn == fn)
  let ats := m.xlat.ats.filter (·.fn == fn)
  let m := m.setXlat (fun x => { x with
    pages := x.pages.filter (·.fn != fn),
    ats := (x.ats.filter (fun r => r.fn != fn || r.sent)).map (fun r => if r.fn = fn then { r with joiners := [] } else r),
    failed := insertU x.failed fn })
  let m := each pages m (fun m q => each q.joiners m (fun m j => m.joinerFail fn q.pasid q.page xPRI_FAILURE j.who))
  each ats m (fun m q => each q.joiners m (fun m j => m.joinerFail fn q.pasid q.page xPRI_FAILURE j.who))

/-- A PRG Response arrives for the Page Request of a group (R185). One that names no request outstanding is discarded: its
request timed out (R186). -/
def effPrgResponse (fn prg code : Nat) (m : Module) : Module :=
  match m.xlat.pages.find? (fun p => p.sent && p.fn == fn && p.prg == prg) with
  | none => m
  | some p =>
    (if code = 0 then each p.joiners (m.pageDone p) (fun m j => m.askAts fn p.pasid p.page { j with retry := true })
     else if code = 1 then each p.joiners (m.pageDone p) (fun m j => m.joinerFail fn p.pasid p.page xPRI_INVALID j.who)
     else (m.raise XLAT_EVENT_pri_failed).failFunction fn).pagePump

/-- A Page Request is unanswered after XLAT_PRI_TIMEOUT (R186). -/
def effPriTimeout (fn pasid page : Nat) (m : Module) : Module :=
  match m.xlat.pages.find? (fun p => p.sent && p.fn == fn && p.pasid == pasid && p.page == page) with
  | none => m
  | some p =>
    (each p.joiners ((m.pageDone p).raise XLAT_EVENT_pri_timeout)
      (fun m j => m.joinerFail fn pasid page xPRI_TIMEOUT j.who)).pagePump

/-- Software clears and sets the PRI Enable bit of a function (R185), with the allocation it has programmed (R184). -/
def effPriEnable (fn alloc : Nat) (m : Module) : Module :=
  (m.setXlat (fun x => { x with failed := x.failed.filter (· != fn), alloc := x.alloc.put fn alloc })).pagePump

/-! ### Invalidation -/

/-- Receive an invalidation: step 5 of the next window to open acts on it (R187); outstanding requests of the
function remember it (R180). -/
def Module.addInval (m : Module) (i : Inval) : Module :=
  m.setXlat (fun x => { x with
    invals := x.invals ++ [i],
    ats := x.ats.map (fun r => if r.sent && r.fn == i.fn then { r with after := r.after ++ [i] } else r) })

def effInvalidateRequest (fn : Nat) (pasid : Option Nat) (base size tag : Nat) (m : Module) : Module :=
  m.addInval { fn := fn, pasid := pasid, base := base, size := size, tag := tag, flush := false }

/-- A write of XLAT_FLUSH; with go set, the flush waits like an invalidation received now (R189). -/
def effXlatFlush (value : Nat) (m : Module) : Module :=
  let m := m.setReg XLAT_FLUSH (bits value 0 28)
  if bit value 28 then
    m.addInval { fn := bits value 20 7, pasid := if bit value 27 then none else some (bits value 0 20), base := 0,
                 size := 0, tag := 0, flush := true }
  else m

/-- Step 5: remove what the invalidations received before the window opened name, and send their completions (R187). -/
def Module.applyInvals (m : Module) : Module :=
  let due := m.xlat.invals
  let m := m.setXlat (fun x => { x with invals := [] })
  each due m (fun m i =>
    let dead := m.xlat.entries.filter (fun e => i.hits e.fn e.pasid e.vbase e.size)
    let m := each dead m (fun m e => m.count (XLAT_INV_count e.die) 1)
    let m := m.setXlat (fun x => { x with entries := x.entries.filter (fun e => !i.hits e.fn e.pasid e.vbase e.size),
                                          oneShot := x.oneShot.filter (fun o => !i.hits o.2.fn o.2.pasid o.2.vbase o.2.size) })
    if i.flush then m else m.emit (.invalCompletion i.fn i.tag))

end Sys2Proof.Machine
end

