-- ==== Sys2Proof/Machine/Objects.lean ====
section
/-!
DEFINITION. Host objects (R348 to R371): handles and their liveness, command state words and their completing updates,
device counts, timelines and signals, and marking a context LOST.
-/
namespace Sys2Proof.Machine

/-! ### Lookups -/

def Module.ctx? (m : Module) (c : Nat) : Option Ctx := m.obj.ctxs.get? c
def Module.queue? (m : Module) (q : Nat) : Option Queue := m.obj.queues.get? q
def Module.modCtx (m : Module) (c : Nat) (f : Ctx → Ctx) : Module := m.setObj (fun o => { o with ctxs := o.ctxs.mod c f })
def Module.modQueue (m : Module) (q : Nat) (f : Queue → Queue) : Module := m.setObj (fun o => { o with queues := o.queues.mod q f })
def Module.modMo (m : Module) (i : Nat) (f : MemObj → MemObj) : Module := m.setObj (fun o => { o with mos := o.mos.mod i f })
def Module.modTl (m : Module) (t : Nat) (f : Timeline → Timeline) : Module := m.setObj (fun o => { o with tls := o.tls.mod t f })

/-- The partition of a context; 0xFF when there is none. -/
def Module.ctxPart (m : Module) (c : Nat) : Nat := match m.ctx? c with | some x => x.part | none => 0xFF

/-- The queue that a doorbell slot of a function serves (R353). -/
def Module.slotQueue (m : Module) (fn slot : Nat) : Option (Nat × Queue) :=
  m.obj.queues.find? (fun e => e.2.state != .free && e.2.dbSlot == slot &&
    (match m.ctx? e.2.ctx with | some c => c.fn == fn | none => false))

/-- Was command index `i` of queue `q` submitted before the UNREF that released an object (R357, R367)? -/
def before (unrefAt : List (Nat × Nat)) (q i : Nat) : Bool :=
  match unrefAt.find? (·.1 == q) with
  | some (_, tail) => let d := subMod 32 tail i; 1 ≤ d && d ≤ 65536
  | none => false

/-- Is an object usable by a command of queue `q` and index `i`: LIVE, or RELEASING but submitted before? -/
def usable (st : ObjState) (unrefAt : List (Nat × Nat)) (cmd : Option (Nat × Nat)) : Bool :=
  match st with
  | .live => true
  | .free => false
  | .releasing => match cmd with | some (q, i) => before unrefAt q i | none => false

/-- The memory object a handle names (R349), usable by a command of context `c`. -/
def Module.moOf (m : Module) (handle c : Nat) (cmd : Option (Nat × Nat)) : Option (Nat × MemObj) :=
  let i := bits handle 0 24
  match m.obj.mos.get? i with
  | some o => if i ≠ 0 && o.gen == bits handle 24 8 && o.gen != 0 && o.ctx == c && usable o.state o.unrefAt cmd
      then some (i, o) else none
  | none => none

/-- A timeline usable by partition `p` (R351, R357). -/
def Module.tlOf (m : Module) (t p : Nat) (cmd : Option (Nat × Nat)) : Option Timeline :=
  match m.obj.tls.get? t with
  | some x => if usable x.state x.unrefAt cmd && m.ctxPart x.ctx == p then some x else none
  | none => none

/-! ### Events of the HOST block -/

def Module.dbBad (m : Module) : Module := (m.count HOST_DB_BAD_count 1).raise HOST_EVENT_db_bad
def Module.refBad (m : Module) : Module := (m.count HOST_REF_BAD_count 1).raise HOST_EVENT_ref_bad

/-! ### Command state words (R361) -/

def cswEMPTY : Nat := 0
def cswQUEUED : Nat := 1
def cswPICKED : Nat := 2
def cswDONE : Nat := 3
def cswABORTED : Nat := 4

def stOK : Nat := 0
def stCONTEXT_LOST : Nat := 1
def stDEP_LOST : Nat := 2
def stABORTED : Nat := 3
def stALREADY_DONE : Nat := 4
def stSTATE_LOST : Nat := 5
def stDIVERGENT : Nat := 6
def stREJECTED : Nat := 7

/-- Pool index of the state word of a command. -/
def Queue.word (q : Queue) (index : Nat) : Nat := q.cswBase + index % 2 ^ q.log2

def Module.csw (m : Module) (w : Nat) : Nat := (SMap.get (fun _ => (0 : Word)) m.obj.csw w).toNat
def Module.setCsw (m : Module) (w v : Nat) : Module :=
  m.setObj (fun o => { o with csw := SMap.set (fun _ => (0 : Word)) o.csw w (BitVec.ofNat 32 v) })

/-- State of the word of a command. -/
def Module.wordState (m : Module) (q index : Nat) : Nat :=
  match m.queue? q with | some k => bits (m.csw (k.word index)) 0 3 | none => 0

def Module.setWord (m : Module) (q index state status tiles : Nat) : Module :=
  match m.queue? q with
  | some k => m.setCsw (k.word index) (state + status * 2 ^ 8 + tiles * 2 ^ 16)
  | none => m

/-- Is a command in a state from which it may leave by a completing update? -/
def Module.wordOpen (m : Module) (q index : Nat) : Bool :=
  let s := m.wordState q index
  s == cswQUEUED || s == cswPICKED

def Module.cmd? (m : Module) (q index : Nat) : Option Cmd := m.obj.cmds.find? (fun c => c.queue == q && c.index == index)
def Module.modCmd (m : Module) (q index : Nat) (f : Cmd → Cmd) : Module :=
  m.setObj (fun o => { o with cmds := o.cmds.map (fun c => if c.queue == q && c.index == index then f c else c) })

/-! ### Device counts (R366) -/

def Module.holdMo (m : Module) (i : Nat) : Module := m.modMo i (fun o => { o with devCount := o.devCount + 1 })
def Module.dropMo (m : Module) (i : Nat) : Module := m.modMo i (fun o => { o with devCount := o.devCount - 1 })
def Module.holdTl (m : Module) (t : Nat) : Module := m.modTl t (fun o => { o with devCount := o.devCount + 1 })
def Module.dropTl (m : Module) (t : Nat) : Module := m.modTl t (fun o => { o with devCount := o.devCount - 1 })
def Module.holdCtx (m : Module) (c : Nat) : Module := m.modCtx c (fun o => { o with devCount := o.devCount + 1 })
def Module.dropCtx (m : Module) (c : Nat) : Module := m.modCtx c (fun o => { o with devCount := o.devCount - 1 })
def Module.holdQueue (m : Module) (q n : Nat) : Module := m.modQueue q (fun o => { o with devCount := o.devCount + n })
def Module.dropQueue (m : Module) (q n : Nat) : Module := m.modQueue q (fun o => { o with devCount := o.devCount - n })

/-! ### Timelines (R368) -/

def tlMax : Nat := 2 ^ 64 - 1

/-- Has a timeline reached a value? -/
def Timeline.reached (t : Timeline) (v : Nat) : Bool := !t.lost && decide (subMod 64 t.value v < 2 ^ 63)

/-- A stale signal of a context. -/
def Module.staleSignal (m : Module) (c : Nat) : Module :=
  ((m.modCtx c (fun x => { x with stale := x.stale + 1 })).count HOST_STALE_CNT_count 1).raise HOST_EVENT_stale

/-- Write a timeline's shadow under its owner's PASID (R368). -/
def Module.writeShadow (m : Module) (tl value : Nat) : Module :=
  match m.obj.tls.get? tl with
  | none => m
  | some t =>
    if t.shadowVa = 0 then m
    else match m.ctx? t.ctx with
      | none => m
      | some c =>
        match m.translate c.fn c.pasid t.shadowVa true (.shadow tl value) with
        | (m', .hit pa) => m'.shadowStore c.part pa value
        | (m', _) => m'

/-- Signal `v` on a timeline by context `c`: the procedure of R368. A timeline of another partition, or one that is
free, takes no signal. -/
def Module.signalTl (m : Module) (tl v c : Nat) : Module :=
  match m.obj.tls.get? tl with
  | none => m
  | some t =>
    if t.state == .free || m.ctxPart t.ctx != m.ctxPart c then m
    else if t.lost then m
    else if t.exhausted || v == tlMax then m.staleSignal c
    else
      let d := subMod 64 v t.value
      if d = 0 ∨ d ≥ 2 ^ 63 then m.staleSignal c
      else if d > 2 ^ 62 then (m.willLose c lostFENCE_JUMP).raise HOST_EVENT_fence_jump
      else
        let m := m.modTl tl (fun t => { t with value := v })
        let m := if v = tlMax - 1 then (m.modTl tl (fun t => { t with exhausted := true })).raise HOST_EVENT_tl_exhausted else m
        m.writeShadow tl v

/-! ### Completing updates (R361, R362, R365) -/

/-- The update of a command to DONE: it succeeds only from QUEUED or PICKED, and its record waits for step 2. -/
def Module.finish (m : Module) (q index status detail : Nat) : Module :=
  if !m.wordOpen q index then m
  else
    let m := m.setWord q index cswDONE status 0
    let m := m.setObj (fun o => { o with done := o.done ++ [{ queue := q, index := index, status := status, detail := detail }] })
    if status = stDEP_LOST then (m.count HOST_DEP_LOST_CNT_count 1).raise HOST_EVENT_dep_lost else m

/-- Signal sig_tl of a command that completed with OK or DIVERGENT (R365). -/
def Module.signalCmd (m : Module) (q index status : Nat) : Module :=
  match m.cmd? q index with
  | some c => if c.sig && (status == stOK || status == stDIVERGENT) then m.signalTl c.sigTl c.sigValue c.ctx else m
  | none => m

/-- A completing update followed by its signal. -/
def Module.complete (m : Module) (q index status detail : Nat) : Module :=
  if m.wordOpen q index then (m.finish q index status detail).signalCmd q index status else m

/-! ### Tiles in the lists -/

/-- The memory objects that a placed steward entry holds, each once: that of the entry and those of the tile's header (R119, R366). -/
def entryObjs (stream : Nat) (objs : List Nat) : List Nat := objs.foldl (fun l h => insertU l (bits h 0 24)) [bits stream 0 24]

/-- The timelines that a tile names, each once. -/
def namedTls (deps : List Nat) (ops : List TileOp) : List Nat :=
  (deps ++ ops.filterMap (fun o => match o.body with
    | .wait tl _ _ => some tl | .signal tl _ => some tl | _ => none)).foldl insertU []

/-- Drop what a tile of a steward entry holds (R119). -/
def Module.dropStewardTile (m : Module) (t : Tile) : Module :=
  match t.src with
  | .steward _ _ =>
    let m := each (entryObjs t.stream t.hdr.objs) m (fun m i => m.dropMo i)
    each (namedTls (t.hdr.deps.map (·.1)) t.ops) m (fun m x => m.dropTl x)
  | _ => m

/-- Take a tile out of the module: its pins and what it holds go with it. -/
def Module.forgetTile (m : Module) (t : Tile) : Module := ((m.unpin t.uid).served (.body t.uid t.ctx)).dropStewardTile t

/-- Remove the listed tiles that satisfy `p`. -/
def Module.removeTiles (m : Module) (p : Tile → Bool) : Module :=
  let gone := m.lists.filter p ++ m.nextLists.filter p ++ m.retries.filter p ++ m.agreeQ.filter p
  let m := { m with lists := m.lists.filter (fun t => !p t), nextLists := m.nextLists.filter (fun t => !p t),
                    retries := m.retries.filter (fun t => !p t), agreeQ := m.agreeQ.filter (fun t => !p t) }
  each gone m (fun m t => m.forgetTile t)

/-- Is a tile one of a command's? -/
def Tile.ofCmd (t : Tile) (q index : Nat) : Bool :=
  match t.src with | .host q' i _ => q' == q && i == index | _ => false

/-! ### Marking a context LOST (R369, R370) -/

/-- The last_error of a context (R391). -/
def lastErrorBytes (cls cause sub unitType unit attempts frame : Nat) : List Byte :=
  leBytes 1 cls ++ leBytes 1 cause ++ leBytes 1 sub ++ leBytes 1 unitType ++ leBytes 2 unit ++ leBytes 2 (attempts % 256) ++
  leBytes 8 frame

/-- Mark a context LOST in the window: the first cause stands. -/
def Module.markLost (m : Module) (c cause : Nat) : Module :=
  match m.ctx? c with
  | none => m
  | some x =>
    if x.lost || x.state == .free then m
    else
      let part := if x.part < 64 then some x.part else none
      let last := lastErrorBytes clsCONTEXT errCONTEXT_LOST cause 0 0 0 m.F
      let m := m.modCtx c (fun x => { x with lost := true, cause := cause, lostFrame := m.F, lastError := last })
      let m := m.setObj (fun o => { o with lostNow := insertU o.lostNow c })
      let m := m.logEvent clsCONTEXT errCONTEXT_LOST cause 0 0 part (some c) 0
      let m := (m.count HOST_LOST_CNT_count 1).raise HOST_EVENT_ctx_lost
      let m := if m.conf x.part then m else m.setReg HOST_LAST_LOST (c + cause * 2 ^ 20 + 2 ^ 31)
      let m := if cause = lostBUDGET then
          (m.count TICK_BUDGET_CNT_budget_losses 1).raiseIf TICK_EVENT_budget_lost (m.flag TICK_CTRL_budget_irq_en)
        else m
      let m := m.removeTiles (fun t => t.ctx == c)
      -- every PICKED command becomes DONE now; QUEUED words likewise, their records follow in step 2
      let m := each (m.obj.cmds.filter (·.ctx == c)) m (fun m k => m.complete k.queue k.index stCONTEXT_LOST cause)
      each (m.obj.queues.filter (fun e => e.2.state != .free && e.2.ctx == c)) m (fun m e =>
        (List.range (min 65536 (subMod 32 e.2.tail e.2.picked))).foldl (fun m i =>
          let idx := (e.2.picked + i) % 2 ^ 32
          if m.wordState e.1 idx == cswQUEUED then m.setWord e.1 idx cswDONE stCONTEXT_LOST 0 else m) m)

/-- Step 3: mark the contexts found lost during the frame. -/
def Module.markFound (m : Module) : Module :=
  let l := m.obj.toLose
  let m := m.setObj (fun o => { o with toLose := [] })
  each l m (fun m e => m.markLost e.1 e.2)

/-- A failure that becomes known while a window is open loses its context in that window (R185). -/
def Module.markInWindow (m : Module) : Module := if m.tick.phase == .open_ then m else m.markFound

/-- The contexts that a failed translation loses while the window is open are marked in that window (R185). -/
def Module.markXlat (m : Module) : Module :=
  let (l, rest) := m.obj.toLose.partition (fun e => e.2 == lostXLAT_FAULT)
  each l (m.setObj (fun o => { o with toLose := rest })) (fun m e => m.markLost e.1 e.2)

/-- Is a timeline lost for step 8: already lost, or its owner marked LOST in this window before step 8 (R371)? -/
def Module.tlLost (m : Module) (t : Timeline) : Bool := t.lost || (m.obj.lostNow.contains t.ctx && !m.obj.lost8.contains t.ctx)

/-- The contexts marked LOST since `old` were marked by step 8 (R371). -/
def Module.inStep8 (old m : Module) : Module :=
  m.setObj (fun o => { o with lost8 := o.lost8 ++ o.lostNow.filter (fun c => !old.obj.lostNow.contains c) })

/-- The edge: timelines of the contexts marked LOST become lost and their shadows are written (R370). -/
def Module.loseTimelines (m : Module) : Module :=
  let l := m.obj.lostNow
  let m := m.setObj (fun o => { o with lostNow := [], lost8 := [] })
  each (m.obj.tls.filter (fun e => e.2.state != .free && l.contains e.2.ctx && !e.2.lost)) m (fun m e =>
    (m.modTl e.1 (fun t => { t with lost := true, value := tlMax })).writeShadow e.1 tlMax)

/-- A command ends with DEP_LOST: its remaining tiles are removed (R371). -/
def Module.depLost (m : Module) (q index : Nat) : Module :=
  (m.complete q index stDEP_LOST 0).removeTiles (fun t => t.ofCmd q index)

end Sys2Proof.Machine
end

