-- ==== Sys2Proof/Machine/Seq.lean ====
section
/-!
DEFINITION. Sequences (R150 to R171): records and page entries, pools and copies, the effects of sequence commands at
the edge, leases, and the loss of a sequence.
-/
namespace Sys2Proof.Machine

def Module.setSeq (m : Module) (f : SeqSys → SeqSys) : Module := { m with seq := f m.seq }
def Module.seq? (m : Module) (id : Nat) : Option SeqRec := m.seq.recs.get? id
def Module.modSeqRec (m : Module) (id : Nat) (f : SeqRec → SeqRec) : Module :=
  m.setSeq (fun s => { s with recs := s.recs.mod id f })


/-! ### Records and page entries -/

def leaseHELD : Nat := 0
def leaseOFFERED : Nat := 1
def leaseOTHER : Nat := 2
def leaseORPHANED : Nat := 3

def lcPOOL_FAIL : Nat := 1
def lcHOLD_LIMIT : Nat := 2
def lcNO_TIER : Nat := 3
def lcDRIVER : Nat := 4

/-- No expiry. -/
def noExpiry : Nat := 2 ^ 48 - 1

/-- A sequence record, 64 bytes (R152). -/
def SeqRec.bytes (q : SeqRec) : List Byte :=
  leBytes 1 ((if q.lost then 2 else 1) + 8 * q.lease + 64 * b2n q.direct + 128 * b2n q.released) ++ leBytes 3 q.ctx ++
  leBytes 4 q.pageCount ++ leBytes 6 q.listBase ++ leBytes 2 q.owner ++ leBytes 8 q.segId ++ leBytes 8 q.commitSeq ++
  leBytes 4 q.epoch ++ leBytes 4 q.maxEpoch ++ leBytes 6 q.expiry ++ leBytes 1 q.hold ++ leBytes 1 q.lostCause ++
  leBytes 6 q.lostFrame ++ zeros 10

/-- A page entry (R151). -/
structure PageEntry where
  tier : Nat
  open_ : Bool
  pulling : Bool
  page : Nat
  deriving DecidableEq, Repr

def PageEntry.ofNat (w : Nat) : PageEntry :=
  { tier := bits w 0 3, open_ := bit w 3, pulling := bit w 4, page := bits w 16 48 }

def PageEntry.toNat (e : PageEntry) : Nat := e.tier + 8 * b2n e.open_ + 16 * b2n e.pulling + 2 ^ 16 * e.page

def tierABSENT : Nat := 4

/-- Byte address of an entry's page. -/
def PageEntry.addr (e : PageEntry) : Nat := e.page * 65536

/-- Entry i of a sequence's list. -/
def Module.pageEntry (m : Module) (q : SeqRec) (i : Nat) : PageEntry :=
  PageEntry.ofNat (leNat (m.dataAt (q.listBase + 8 * i) 8))

/-- Write entry i: only the engine does (R151). -/
def Module.setEntry (m : Module) (q : SeqRec) (i : Nat) (e : PageEntry) : Module :=
  m.store (q.listBase + 8 * i) (leBytes 8 e.toNat)

/-- Is a lease serving in frame `g` (R158)? -/
def SeqRec.serving (q : SeqRec) (g : Nat) : Bool :=
  q.lease == leaseHELD && decide (q.maxEpoch ≤ q.epoch) && (q.expiry == noExpiry || decide (g ≤ q.expiry))

/-- Does an op name a sequence in a GATHER? -/
def TileOp.gathers (o : TileOp) (id : Nat) : Bool := match o.body with | .gather g => g.seqId == id | _ => false

def Tile.gathers (t : Tile) (id : Nat) : Bool := t.ops.any (·.gathers id)

/-! ### Loss of a sequence (R160) -/

/-- A SEQ record of the error log: the sequence in the unit field, seg_id as detail. -/
def Module.logSeq (m : Module) (id : Nat) (q : SeqRec) (cause sub : Nat) : Module :=
  m.logRec
    { cls := clsSEQ, rtype := 0, cause := cause, sub := sub, unitType := 0, unit := id, module_ := m.selfId, frame := m.F,
      part := if q.part < 64 then some q.part else none, die := 8 + id / 1024 % 4, ctx := some q.ctx, detail := q.segId,
      phase := m.tick.ns }

/-- A command ends with STATE_LOST: all its tiles leave the lists. -/
def Module.stateLostCmd (m : Module) (t : Tile) : Module :=
  match t.src with
  | .host q i _ => (m.finish q i stSTATE_LOST 0).removeTiles (fun x => x.ofCmd q i)
  | _ => m.removeTiles (fun x => x.uid == t.uid)

/-- A sequence becomes STATE_LOST: the commands whose tiles name it complete, and software is asked to recompute. -/
def Module.loseSeq (m : Module) (id cause : Nat) : Module :=
  match m.seq? id with
  | none => m
  | some q =>
    if q.lost then m
    else
      let m := m.modSeqRec id (fun q => { q with lost := true, lostCause := cause, lostFrame := m.F })
      let m := m.setReg SEQ_LAST_LOST (id + cause * 2 ^ 12 + 2 ^ 31)
      let m := (m.logSeq id q errSTATE_LOST cause).raise SEQ_EVENT_recompute_req
      let m := m.logSeq id q errRECOMPUTE_REQ cause
      each ((m.lists ++ m.nextLists ++ m.retries ++ m.agreeQ).filter (·.gathers id)) m (fun m t => m.stateLostCmd t)

/-- Step 3: sequences whose pages could not be read during the frame (R163, R164). -/
def Module.loseFoundSeqs (m : Module) : Module :=
  let l := m.seq.toLose
  let m := m.setSeq (fun s => { s with toLose := [] })
  each l m (fun m e => m.loseSeq e.1 e.2)

/-- A loss found while a window is open belongs to that window (R163). -/
def Module.loseInWindow (m : Module) : Module := if m.tick.phase == .open_ then m else m.loseFoundSeqs

/-! ### Pools (R155) -/

/-- Pool number of a die, partition and tier (R171); the system carve-out's owner has no pool, which number 512 stands for. -/
def poolNo (die part tier : Nat) : Nat := if part < 64 then (die * 64 + part) * 2 + tier else 512

def Module.poolBase (m : Module) (k : Nat) : Nat := m.reg64 (SEQ_POOL_BASE_LO k) (SEQ_POOL_BASE_HI k)
def Module.poolPages (m : Module) (k : Nat) : Nat := if k < 512 then m.fld (SEQ_POOL_PAGES_pages k) else 0

/-- Pages of a pool in use. -/
def Module.poolUsed (m : Module) (k : Nat) : List Nat := (m.seq.used.filter (·.1 == k)).map (·.2)

def Module.poolFree (m : Module) (k : Nat) : Nat := m.poolPages k - (m.poolUsed k).length

/-- The lowest-numbered free page of a pool. -/
def Module.poolLowest (m : Module) (k : Nat) : Option Nat :=
  let used := m.poolUsed k
  let base := m.poolBase k
  -- at most one page more than are in use need be looked at
  ((List.range (min (m.poolPages k) (used.length + 1))).find? (fun i => !used.contains (base + i * 65536))).map
    (fun i => base + i * 65536)

/-- Take the lowest free page. -/
def Module.poolTake (m : Module) (k : Nat) : Option (Module × Nat) :=
  (m.poolLowest k).map (fun off => (m.setSeq (fun s => { s with used := s.used ++ [(k, off)] }), off))

/-- Give a page back to its pool, if it lies in one. -/
def Module.poolGive (m : Module) (off : Nat) : Module :=
  m.setSeq (fun s => { s with used := s.used.filter (·.2 != off) })

/-- An adopted page that lies in a pool of the partition counts as allocated. -/
def Module.poolAdopt (m : Module) (part : Nat) (e : PageEntry) : Module :=
  if e.tier ≤ 1 then
    match (List.range 4).find? (fun d =>
      let k := poolNo d part e.tier
      m.poolBase k ≤ e.addr && e.addr < m.poolBase k + m.poolPages k * 65536) with
    | some d => if m.seq.used.any (·.2 == e.addr) then m else m.setSeq (fun s => { s with used := s.used ++ [(poolNo d part e.tier, e.addr)] })
    | none => m
  else m

/-- Free the pool page of an entry. -/
def Module.freeEntry (m : Module) (e : PageEntry) : Module := if e.tier ≤ 1 then m.poolGive e.addr else m

/-! ### Pulls and demotions (R156, R157) -/

/-- Does a page count as tier 0 for the check of R158? The last copy of it that completed before step 8 began decides,
else its entry (R157). -/
def Module.tier0 (m : Module) (id : Nat) (q : SeqRec) (page : Nat) : Bool :=
  (m.seq.copies.filter (fun c => c.seq == id && c.page == page && c.early)).foldl (fun _ c => !c.demote)
    ((m.pageEntry q page).tier == 0)

/-- Start the pull of one page; an empty pool is counted in the event tier_short. -/
def Module.startPull (m : Module) (id page : Nat) : Module :=
  match m.seq? id with
  | none => m
  | some q =>
    let e := m.pageEntry q page
    if m.tier0 id q page || e.tier == tierABSENT || e.open_ || e.pulling then m
    else match m.poolTake (poolNo (id / 1024) q.part 0) with
      | none => m.raise SEQ_EVENT_tier_short
      | some (m, dst) =>
        (m.setEntry q page { e with pulling := true }).setSeq (fun s => { s with
          copies := s.copies ++ [{ seq := id, page := page, demote := false, dst := dst, done := false, early := false }] })

/-- Drop the copies of pages that satisfy `p`, with their pool pages. -/
def Module.dropCopies (m : Module) (id : Nat) (p : Nat → Bool) : Module :=
  let gone := m.seq.copies.filter (fun c => c.seq == id && p c.page)
  let m := m.setSeq (fun s => { s with copies := s.copies.filter (fun c => !(c.seq == id && p c.page)) })
  each gone m (fun m c => m.poolGive c.dst)

/-- A copy is abandoned: the page keeps its tier and pulling is cleared (R382 code 5). -/
def Module.abandonCopy (m : Module) (c : SeqCopy) : Module :=
  let m := (m.setSeq (fun s => { s with copies := s.copies.filter (· != c) })).poolGive c.dst
  match m.seq? c.seq with
  | some q => m.setEntry q c.page { m.pageEntry q c.page with pulling := false }
  | none => m

/-- Function of a context (R173). -/
def Module.ctxFn (m : Module) (c : Nat) : Nat := match m.ctx? c with | some x => x.fn | none => 0
def Module.ctxPasid (m : Module) (c : Nat) : Nat := match m.ctx? c with | some x => x.pasid | none => 0

/-- Outcome of reading a piece of a sequence page. -/
inductive PageRead where
  | data (bs : List Byte)
  | wait
  | uncorrectable (line : Nat)
  | fail
  deriving DecidableEq, Repr

/-- Read bytes of a page wherever it lies; a tier-2 page in pieces of one 4 KiB page, each translated (R151, R161, R163, R174). -/
def Module.readPage (m : Module) (q : SeqRec) (e : PageEntry) (off len : Nat) (j : Joiner) : Module × PageRead :=
  match e.tier with
  | 0 => dev m
  | 1 => dev m
  | 2 =>
    let fn := m.ctxFn q.ctx
    let pasid := m.ctxPasid q.ctx
    (match m.translateRange fn pasid (e.addr + off) len false j with
     | (m, .wait) => (m, .wait)
     | (m, .got ps) => ps.foldl (fun acc p => match acc with
       | (m, .data bs) => (match piece m fn p with
         | (m, .data b) => (m, .data (bs ++ b))
         | r => r)
       | r => r) (m, .data []))
  | 3 => if m.fld (LINK_STATE_state 16) = 3 then (m, .data (m.twinMem.read (e.addr + off) len)) else (m, .fail)
  | _ => (m, .fail)
where
  local_ (m : Module) (a len : Nat) : Module × PageRead :=
    match m.memRead q.part a len with
    | (m, .ok, bs) => (m, .data bs)
    | (m, .uncorrectable l, _) => (m, .uncorrectable l)
    | (m, .refused, _) => (m, .fail)
  dev (m : Module) : Module × PageRead := local_ m (e.addr + off) len
  piece (m : Module) (fn : Nat) (p : Place × Nat) : Module × PageRead :=
    match p.1 with
    | .loc a => local_ m a p.2
    | .host pa => let (m, b) := m.hostRead fn pa p.2; (m, .data b)
    | .remote => (m, .fail)

/-- A tier-2 or tier-3 page that a copy reads cannot be read: the copy is abandoned and the sequence is lost in the
window of the frame (R163). -/
def Module.copyFails (m : Module) (c : SeqCopy) : Module :=
  ((m.abandonCopy c).setSeq (fun s => { s with toLose := s.toLose ++ [(c.seq, lcPOOL_FAIL)] })).loseInWindow

/-- A copy of a page completes (R157), or is abandoned when its source is uncorrectable; one whose host or twin page cannot be
read loses the sequence. -/
def effCopyComplete (demote : Bool) (id page : Nat) (m : Module) : Module :=
  match m.seq.copies.find? (fun c => c.seq == id && c.page == page && c.demote == demote && !c.done), m.seq? id with
  | some c, some q =>
    let e := m.pageEntry q page
    (match m.readPage q e 0 65536 (.seqPage id page) with
     | (m, .data bs) =>
       let m := m.store c.dst bs
       let m := (m.served (.seqPage id page)).setSeq (fun s => { s with copies := s.copies.map (fun x => if x == c then { x with done := true, early := m.tick.phase == .open_ } else x) })
       m.count (if demote then SEQ_DEMOTES_count else SEQ_PULLS_count) 1
     | (m, .wait) => m
     | (m, .uncorrectable l) => (m.dataLost l 5 q.part none).abandonCopy c
     | (m, .fail) => m.copyFails c)
  | _, _ => m

/-- The edge: completed copies change their entries, and the pages they leave return to their pools. -/
def Module.copiesAtEdge (m : Module) : Module :=
  let l := m.seq.copies.filter (·.done)
  let m := m.setSeq (fun s => { s with copies := s.copies.filter (fun c => !c.done) })
  each l m (fun m c =>
    match m.seq? c.seq with
    | none => m.poolGive c.dst
    | some q =>
      let e := m.pageEntry q c.page
      let m := m.freeEntry e
      let kept := c.demote && e.pulling
      m.setEntry q c.page { tier := if c.demote then 1 else 0, open_ := e.open_, pulling := kept, page := c.dst / 65536 })

/-! ### Commands (R154) -/

def rjNO_FREE_SEQ : Nat := 1
def rjBAD_SEQ : Nat := 2
def rjBAD_ENTRY : Nat := 3
def rjRANGE : Nat := 4
def rjLEASE : Nat := 5
def rjEPOCH : Nat := 6
def rjPOOL_EMPTY : Nat := 7
def rjSEQ_RESERVED : Nat := 8

/-- Outcome of a command that takes effect at the edge: the state, and the reason it was rejected or its result. -/
structure CmdOut where
  m : Module
  reason : Option Nat
  result : Nat

def okOut (m : Module) (result : Nat) : CmdOut := { m := m, reason := none, result := result }
def rejOut (m : Module) (r : Nat) : CmdOut := { m := m, reason := some r, result := 0 }

/-- Is an entry that software wrote fit to be adopted (R154 BAD_ENTRY)? -/
def Module.entryOk (m : Module) (part w : Nat) (last : Bool) : Bool :=
  let e := PageEntry.ofNat w
  e.tier ≤ 4 && bits w 5 11 == 0 && (!e.open_ || last) && (e.tier > 1 || m.allowed part e.addr 65536)

/-- Pages named by PULL, DEMOTE or REMAP: within the count and none open. -/
def Module.seqRangeOk (m : Module) (q : SeqRec) (first n : Nat) : Bool :=
  first + n ≤ q.pageCount && (List.range n).all (fun i => !(m.pageEntry q (first + i)).open_)

/-- The lowest FREE record of a die. -/
def Module.freeSeq (m : Module) (die : Nat) : Option Nat :=
  ((List.range 1024).find? (fun i => (m.seq? (die * 1024 + i)).isNone)).map (fun i => die * 1024 + i)

/-- Return every pool page of entries from `lo` on. -/
def Module.freePages (m : Module) (q : SeqRec) (lo : Nat) : Module :=
  (List.range (q.pageCount - lo)).foldl (fun m i => m.freeEntry (m.pageEntry q (lo + i))) m

/-- Close a sequence: its pool pages return, and the record is FREE. -/
def Module.closeSeq (m : Module) (id : Nat) : Module :=
  match m.seq? id with
  | none => m
  | some q =>
    let m := (m.dropCopies id (fun _ => true)).freePages q 0
    (m.setSeq (fun s => { s with recs := s.recs.del id })).dropCtx q.ctx

/-- An OPEN at its edge. DESIGN CHOICE (log entry 77): operand bits above a field's width are dropped, where R154 does not say
that they are reserved; so in RECLAIM and RENEW. DESIGN CHOICE (log entry 97): R154 gives no reason for a list_base that is no
multiple of 64 or lies outside the carve-out; the OPEN is accepted. -/
def Module.seqOpen (m : Module) (ctx flags id a b c e : Nat) : CmdOut :=
  let adopt := bit flags 0
  if flags ≥ 2 || (a ≥ 2 && !adopt) || bits a 1 15 != 0 || id ≥ 4 || c ≥ 2 ^ 64 then rejOut m rjSEQ_RESERVED
  else match m.freeSeq (id % 4) with
    | none => rejOut m rjNO_FREE_SEQ
    | some n =>
      let q : SeqRec :=
        { lost := false, lease := if adopt then leaseOTHER else leaseHELD, direct := bit a 0, released := false, ctx := ctx,
          part := m.ctxPart ctx, pageCount := 0, listBase := b % 2 ^ 48, owner := if adopt then bits a 16 16 else m.selfId,
          segId := c, commitSeq := 0, epoch := if adopt then 0 else 1, maxEpoch := if adopt then 0 else 1,
          expiry := e % 2 ^ 48, hold := 0, lostCause := 0, lostFrame := 0, moveTo := false, offer := none }
      okOut ((m.setSeq (fun s => { s with recs := s.recs.put n q })).holdCtx ctx) n

/-- An APPEND at its edge. DESIGN CHOICE (log entry 97), R154 giving no reason: n = 0 or above 64 gets RANGE, and entries that lie
outside the partition's carve-out get BAD_ENTRY. -/
def Module.seqAppend (m : Module) (id : Nat) (q : SeqRec) (flags a : Nat) : CmdOut :=
  if flags ≥ 2 then rejOut m rjSEQ_RESERVED
  else if a = 0 || a > 64 || q.pageCount + a > 65536 then rejOut m rjRANGE
  else
    let ws := (List.range a).map (fun i => leNat (m.dataAt (q.listBase + 8 * (q.pageCount + i)) 8))
    if !(m.allowed q.part (q.listBase + 8 * q.pageCount) (8 * a) &&
         ws.zipIdx.all (fun w => m.entryOk q.part w.1 (w.2 + 1 == a))) then rejOut m rjBAD_ENTRY
    else
      let m := if bit flags 0 && q.pageCount > 0 then
          m.setEntry q (q.pageCount - 1) { m.pageEntry q (q.pageCount - 1) with open_ := false } else m
      let m := each ws m (fun m w => m.poolAdopt q.part (PageEntry.ofNat w))
      okOut (m.modSeqRec id (fun q => { q with pageCount := q.pageCount + a, commitSeq := q.commitSeq + a })) 0

/-- A DEMOTE at its edge: its copies start; with drop, a page that finds the pool empty becomes ABSENT. -/
def Module.seqDemote (m : Module) (id : Nat) (q : SeqRec) (flags first n : Nat) : CmdOut :=
  let k := poolNo (id / 1024) q.part 1
  let pages := ((List.range n).map (first + ·)).filter (fun p =>
    let e := m.pageEntry q p
    e.tier == 0 && !m.seq.copies.any (fun c => c.seq == id && c.page == p))
  if flags ≥ 2 then rejOut m rjSEQ_RESERVED
  else if !m.seqRangeOk q first n then rejOut m rjRANGE
  else if !bit flags 0 && m.poolFree k < pages.length then rejOut m rjPOOL_EMPTY
  else okOut (each pages m (fun m p =>
    let e := m.pageEntry q p
    match m.poolTake k with
    | some (m, dst) => m.setSeq (fun s => { s with copies := s.copies ++ [{ seq := id, page := p, demote := true, dst := dst, done := false, early := false }] })
    | none => (m.freeEntry e).setEntry q p { tier := tierABSENT, open_ := false, pulling := false, page := 0 })) 0

/-- A REMAP at its edge. DESIGN CHOICE (log entry 97): entries that lie outside the partition's carve-out get BAD_ENTRY. -/
def Module.seqRemap (m : Module) (id : Nat) (q : SeqRec) (first n c : Nat) : CmdOut :=
  if !m.seqRangeOk q first n then rejOut m rjRANGE
  else
    let ws := (List.range n).map (fun i => leNat (m.dataAt (q.listBase + c + 8 * i) 8))
    if !(m.allowed q.part (q.listBase + c) (8 * n) &&
         ws.zipIdx.all (fun w => m.entryOk q.part w.1 (first + w.2 + 1 == q.pageCount))) then rejOut m rjBAD_ENTRY
    else
      let m := m.dropCopies id (fun p => first ≤ p && p < first + n)
      okOut (each ws.zipIdx m (fun m w =>
        let e := PageEntry.ofNat w.1
        (m.poolAdopt q.part e).setEntry q (first + w.2) e)) 0

/-- A TRUNCATE at its edge (R165). -/
def Module.seqTruncate (m : Module) (id : Nat) (q : SeqRec) (a : Nat) : CmdOut :=
  if a > q.pageCount then rejOut m rjRANGE
  else
    let m := (m.dropCopies id (fun p => a ≤ p)).freePages q a
    okOut (m.modSeqRec id (fun q => { q with pageCount := a, commitSeq := a, lost := false, lostCause := 0, hold := 0 })) 0

/-- An OFFER at its edge (R168); the message goes out in the next frame. -/
def Module.seqOffer (m : Module) (id : Nat) (q : SeqRec) (flags a e : Nat) : CmdOut :=
  if flags ≥ 2 || a ≥ 2 ^ 16 then rejOut m rjSEQ_RESERVED
  else if q.lease ≠ leaseHELD then rejOut m rjLEASE
  else if q.epoch ≥ 2 ^ 32 - 1 then rejOut m rjEPOCH
  else okOut (m.modSeqRec id (fun q => { q with lease := leaseOFFERED, moveTo := bit flags 0, offer := some (a, e % 2 ^ 48) })) 0

/-- Raise max_epoch of the sequences of a segment; a HELD lease that falls below it becomes OTHER (R166). -/
def Module.raiseEpoch (m : Module) (seg epoch : Nat) : Module :=
  m.setSeq (fun s => { s with recs := s.recs.map (fun e =>
    if e.2.segId = seg then
      let q := { e.2 with maxEpoch := max e.2.maxEpoch epoch }
      (e.1, if q.lease = leaseHELD && q.epoch < q.maxEpoch then { q with lease := leaseOTHER } else q)
    else e) })

/-- A RECLAIM at its edge (R169). -/
def Module.seqReclaim (m : Module) (id : Nat) (q : SeqRec) (a b e : Nat) : CmdOut :=
  if a ≤ q.maxEpoch then rejOut m rjEPOCH
  else
    let m := (m.raiseEpoch q.segId a).modSeqRec id (fun q =>
      { q with lease := leaseHELD, epoch := a, maxEpoch := a, owner := m.selfId, expiry := e % 2 ^ 48 })
    let n := bits b 0 16
    okOut (if n = 0xFFFF then m else m.setSeq (fun s => { s with notify := s.notify ++ [(n, q.segId, a)] })) 0

/-- A sequence command at the edge ending the frame of its pick-up (R154). -/
def Module.seqApply (m : Module) (cmd : Cmd) : CmdOut :=
  let p := cmd.payload
  let sop := fieldOf p 0 1
  let flags := fieldOf p 1 1
  let id := fieldOf p 2 2
  let a := fieldOf p 4 4
  let b := fieldOf p 8 8
  let c := fieldOf p 16 8
  let e := fieldOf p 24 8
  if !allZero ((p.drop 32).take 32) || sop = 0 || sop > 0x0A then rejOut m rjSEQ_RESERVED
  else if sop = 0x01 then m.seqOpen cmd.ctx flags id a b c e
  else match m.seq? id with
    | none => rejOut m rjBAD_SEQ
    | some q =>
      if q.part ≠ m.ctxPart cmd.ctx || (q.lost && sop != 0x06 && sop != 0x07) then rejOut m rjBAD_SEQ
      else match sop with
        | 0x02 => m.seqAppend id q flags a
        | 0x03 =>
          if flags ≠ 0 then rejOut m rjSEQ_RESERVED
          else if !m.seqRangeOk q a b then rejOut m rjRANGE
          else okOut ((List.range b).foldl (fun m i => m.startPull id (a + i)) m) 0
        | 0x04 => m.seqDemote id q flags a b
        | 0x05 => if flags ≠ 0 then rejOut m rjSEQ_RESERVED else m.seqRemap id q a b c
        | 0x06 => if flags ≠ 0 then rejOut m rjSEQ_RESERVED else m.seqTruncate id q a
        | 0x07 => if flags ≠ 0 then rejOut m rjSEQ_RESERVED else okOut (m.closeSeq id) 0
        | 0x08 => m.seqOffer id q flags a e
        | 0x09 =>
          if flags ≠ 0 then rejOut m rjSEQ_RESERVED
          else if q.lease ≠ leaseHELD then rejOut m rjLEASE
          else if e % 2 ^ 48 ≤ q.expiry then rejOut m rjRANGE
          else okOut (m.modSeqRec id (fun q => { q with expiry := e % 2 ^ 48 })) 0
        | _ => if flags ≠ 0 then rejOut m rjSEQ_RESERVED else m.seqReclaim id q a b e

/-! ### Leases (R166 to R170) -/

/-- A lease message laid out as its 40 bytes (R167). -/
def leaseBytes (kind sender dst seg epoch commitSeq expiry : Nat) : List Byte :=
  leBytes 1 kind ++ zeros 3 ++ leBytes 2 sender ++ leBytes 2 dst ++ leBytes 8 seg ++ leBytes 4 epoch ++ zeros 4 ++
  leBytes 8 commitSeq ++ leBytes 6 expiry ++ zeros 2

def Module.sendLease (m : Module) (dst kind seg epoch commitSeq expiry : Nat) : Module :=
  m.sendCtrl dst ctrlLEASE (leaseBytes kind m.selfId dst seg epoch commitSeq expiry)

/-- Receive a lease message: it takes effect at the next edge if the window has not opened, else one edge later. -/
def effLeaseReceived (kind sender seg epoch commitSeq expiry : Nat) (m : Module) : Module :=
  m.setSeq (fun s => { s with msgs := s.msgs ++
    [{ kind := kind, sender := sender, seg := seg, epoch := epoch, commitSeq := commitSeq, expiry := expiry,
       due := m.tick.phase == .open_ }] })

/-- A received OFFER at its edge (R168). -/
def Module.leaseOffer (m : Module) (x : LeaseMsg) : Module :=
  match m.seq.recs.find? (fun e => e.2.segId == x.seg && !e.2.lost && (e.2.lease == leaseOTHER || e.2.lease == leaseORPHANED) &&
      decide (e.2.maxEpoch < x.epoch) && e.2.commitSeq == x.commitSeq) with
  | some (id, q) =>
    let m := (m.raiseEpoch x.seg x.epoch).modSeqRec id (fun q =>
      { q with lease := leaseHELD, epoch := x.epoch, owner := m.selfId, expiry := x.expiry })
    m.sendLease x.sender 2 x.seg x.epoch q.commitSeq 0
  | none => ((m.raiseEpoch x.seg x.epoch).count SEQ_LEASE_IGNORED_count 1).raise SEQ_EVENT_lease_ignored

/-- A received ACCEPT at its edge (R168). -/
def Module.leaseAccept (m : Module) (x : LeaseMsg) : Module :=
  match m.seq.recs.find? (fun e => e.2.segId == x.seg && e.2.lease == leaseOFFERED) with
  | some (id, q) =>
    let m := (m.modSeqRec id (fun q => { q with lease := leaseOTHER, owner := x.sender, offer := none })).raiseEpoch x.seg x.epoch
    let m := m.sendLease x.sender 3 x.seg x.epoch q.commitSeq 0
    if q.moveTo then m.closeSeq id else m
  | none => m.raiseEpoch x.seg x.epoch

/-- A received RELEASE at its edge (R168). -/
def Module.leaseRelease (m : Module) (x : LeaseMsg) : Module :=
  let m := m.raiseEpoch x.seg x.epoch
  (m.setSeq (fun s => { s with recs := s.recs.map (fun e => if e.2.segId = x.seg then (e.1, { e.2 with released := true }) else e) })).raise
    SEQ_EVENT_released

/-- The lease messages due at this edge. -/
def Module.leasesAtEdge (m : Module) : Module :=
  let l := m.seq.msgs.filter (·.due)
  let m := m.setSeq (fun s => { s with msgs := (s.msgs.filter (fun x => !x.due)).map (fun x => { x with due := true }) })
  each l m (fun m x =>
    match x.kind with
    | 1 => m.leaseOffer x
    | 2 => m.leaseAccept x
    | 3 => m.leaseRelease x
    | _ => m.raiseEpoch x.seg x.epoch)

/-- A lease whose expiry frame has ended becomes ORPHANED (R166). -/
def effLeaseExpiry (id : Nat) (m : Module) : Module :=
  match m.seq? id with
  | none => m
  | some q =>
    if q.lease = leaseORPHANED || q.expiry = noExpiry || m.F ≤ q.expiry then m
    else
      ((m.modSeqRec id (fun q => { q with lease := leaseORPHANED })).raise SEQ_EVENT_orphaned).logSeq id q errORPHANED q.lostCause

/-- After the edge: the OFFERs and EPOCHs of the frame just begun (R168, R169). -/
def Module.sendLeases (m : Module) : Module :=
  let offers := m.seq.recs.filter (fun e => e.2.offer.isSome && e.2.lease == leaseOFFERED)
  let notes := m.seq.notify
  let m := m.setSeq (fun s => { s with notify := [] })
  let m := each offers m (fun m e =>
    match e.2.offer with
    | some (dst, expiry) =>
      (m.sendLease dst 1 e.2.segId (e.2.epoch + 1) e.2.commitSeq expiry).modSeqRec e.1 (fun q => { q with offer := none })
    | none => m)
  each notes m (fun m n =>
    let own := m.seq.recs.find? (fun e => e.2.segId == n.2.1 && e.2.epoch == n.2.2)
    m.sendLease n.1 4 n.2.1 n.2.2 (match own with | some e => e.2.commitSeq | none => 0) 0)

/-! ### Pool registers (R171) -/

/-- Is a pool wholly inside its tier of the partition's carve-out? -/
def Module.poolInside (m : Module) (k : Nat) : Bool :=
  let base := m.poolBase k
  let size := m.poolPages k * 65536
  let part := k / 2 % 64
  size == 0 || (m.allowed part base size && (if k % 2 = 0 then base < 512 * hbmSize else base ≥ ddrBase))

/-- A write of one pool register: the page count (`pages`) or the base, low and high word. Ignored while a page of the pool is
allocated, and for a confidential partition; a pool outside its carve-out then reads 0 pages. DESIGN CHOICE (log entry 97): R171
gives 0 to 1,048,576 pages, and a value above is taken as 1,048,576. -/
def effSeqPoolWrite (k : Nat) (pages : Bool) (value : Nat) (m : Module) : Module :=
  let part := k / 2 % 64
  if m.conf part || !(m.poolUsed k).isEmpty then m
  else
    let m := if pages then m.setReg (SEQ_POOL_PAGES k) (min (bits value 0 21) (2 ^ 20))
      else m.setReg64 (SEQ_POOL_BASE_LO k) (SEQ_POOL_BASE_HI k) (bits value 16 26 * 65536)
    if m.poolInside k then m else m.setReg (SEQ_POOL_PAGES k) 0

end Sys2Proof.Machine
end

