-- ==== Sys2Proof/Machine/TwinBase.lean ====
section
/-!
DEFINITION. What the rest of the module needs of twin pairing (R306 to R328): the twinned devices, their digests,
precious writes, running prints and the messages to the twin.
-/
namespace Sys2Proof.Machine

def Module.setTwin (m : Module) (f : Twin → Twin) : Module := { m with twin := f m.twin }
def Module.twinVd? (m : Module) (vd : Nat) : Option TwinVd := m.twin.vds.get? vd
def Module.modTwinVd (m : Module) (vd : Nat) (f : TwinVd → TwinVd) : Module :=
  m.setTwin (fun t => { t with vds := t.vds.mod vd f })

/-! ### States and message types -/

def tsOFF : Nat := 0
def tsWAIT : Nat := 1
def tsJOINING : Nat := 2
def tsPAIRED : Nat := 3
def tsALONE : Nat := 4

def tvSOLO : Nat := 0
def tvUNPROTECTED : Nat := 1
def tvSEEDING : Nat := 2
def tvPROTECTED : Nat := 3
def tvDIVERGENT : Nat := 4
def tvFENCED : Nat := 5
def tvTAKEN_OVER : Nat := 6

def tmHELLO : Nat := 1
def tmJOIN : Nat := 2
def tmBEAT : Nat := 3
def tmNEG : Nat := 4
def tmMWRITE : Nat := 5
def tmPRINT : Nat := 6
def tmSYNC : Nat := 7
def tmFAILED : Nat := 8
def tmDETACH : Nat := 9
def tmRESET_REQ : Nat := 10
def tmSWAP : Nat := 11

/-- Is a port UP? -/
def Module.portUp (m : Module) (p : Nat) : Bool := m.fld (LINK_STATE_state p) == 3

/-- Do messages to the twin go out: inj_beat_stop does not silence this frame (R328), and port 16 is UP? -/
def Module.twinSends (m : Module) : Bool := m.twin.muteFrom != some m.F && m.portUp 16

/-- Queue a TWIN message that belongs to frame `f` for port 16 (R306), unless inj_beat_stop silences this frame (R328) or the port is
not UP. -/
def Module.sendTwinOf (m : Module) (f ty vd flags : Nat) (body : List Byte) : Module :=
  if !m.twinSends then m
  else m.sendCtrl (match pairRec m.recs with | some (id, _, _) => id | none => 0) ctrlTWIN
    (leBytes 1 ty ++ leBytes 1 flags ++ leBytes 2 vd ++ leBytes 6 f ++ leBytes 2 body.length ++ zeros 4 ++ body)

/-- Queue a TWIN message of the present frame. -/
def Module.sendTwin (m : Module) (ty vd flags : Nat) (body : List Byte) : Module := m.sendTwinOf m.F ty vd flags body

/-! ### Digests (R306, R310) -/

/-- A record written as its header followed by its value (R263). -/
def recordBytes (rtype : Nat) (v : List Byte) : List Byte := leBytes 2 rtype ++ zeros 2 ++ leBytes 4 v.length ++ v

/-- The mode digest over the MODE records of the TWIN section in key order. -/
def modeDigest (r : Recs) : List Byte := (sha384 ((recsOf r 0x0A02).flatMap (fun e => recordBytes 0x0A02 e.2))).take 8

/-- The device digest over its VD, BIND and MODE records and the CO record of its partition. -/
def deviceDigest (r : Recs) (vd : Nat) : List Byte :=
  let one (t k : Nat) : List Byte := match recOf r t k with | some v => recordBytes t v | none => []
  (sha384 (one 0x0401 vd ++ one 0x0501 vd ++ one 0x0A02 vd ++ one 0x0301 ((vdPart r vd).getD 0xFF))).take 16

/-! ### Roles -/

/-- Does this module run a device, its tiles, its queues and the entries of its stewards: it is no SHADOW and not FENCED
(R311, R312, R323)? -/
def Module.runsVd (m : Module) (vd : Nat) : Bool :=
  match m.twinVd? vd with
  | some t => !t.shadow && t.state != tvFENCED
  | none => true

/-- Does a device complete with DIVERGENT instead of OK (R324)? -/
def Module.divergentVd (m : Module) (vd : Nat) : Bool :=
  match m.twinVd? vd with
  | some t => t.state == tvDIVERGENT
  | none => false

/-- The status of a command of a device that completes without a fault (R324). -/
def Module.okStatus (m : Module) (vd : Nat) : Nat := if m.divergentVd vd then stDIVERGENT else stOK

/-- Do the lists of a device that was taken over stand (R318)? -/
def Module.restored (m : Module) (vd : Nat) : Bool :=
  match m.twinVd? vd with
  | some t => t.restore.isEmpty
  | none => true

/-- Does this module post the completions of a device: it is no SHADOW (R312)? -/
def Module.postsVd (m : Module) (vd : Nat) : Bool :=
  match m.twinVd? vd with
  | some t => !t.shadow
  | none => true

def Module.isLockstep (m : Module) (vd : Nat) : Bool :=
  match m.twinVd? vd with
  | some t => t.mode == 2
  | none => false

/-- Do the tiles of a device join the lists only in numbers agreed with the twin (R321)? A module that carries on alone
agrees with nobody (R323). -/
def Module.needsAgree (m : Module) (vd : Nat) : Bool :=
  m.twin.state == tsPAIRED && (match m.twinVd? vd with
    | some t => t.mode == 2 && t.state != tvTAKEN_OVER && t.state != tvFENCED
    | none => false)

/-- Key of a steward hart among the agreed counts; a queue's key is its identifier. -/
def hartKey (s h : Nat) : Nat := 2 ^ 32 + s * 16 + h

/-- The agreed count of a key: the lower of the two, once both are known. -/
def Module.agreedAt (m : Module) (vd key : Nat) : Option Nat :=
  (m.twinVd? vd).bind (fun t => (t.agreed.find? (fun e => e.1 == key)).map (·.2))

/-! ### Precious writes (R313, R314) -/

/-- Send a write of an ACTIVE MIRROR device through to the twin: MWRITE messages of at most 4,064 bytes. While the device is SEEDING
the copy still has what it has not reached (R317). Once the negative of the frame has gone, a message belongs to the next frame, whose
negative counts it; one that does not go out is counted by none (R315). -/
def Module.mirrorWrite (m : Module) (vd off : Nat) (bs : List Byte) : Module :=
  match m.twinVd? vd with
  | some t =>
    if t.mode = 1 && !t.shadow && m.twin.state == tsPAIRED && (t.state != tvSEEDING || t.seeded) then go off bs bs.length m
    else m
  | none => m
where
  go (off : Nat) (bs : List Byte) : Nat → Module → Module
    | 0, m => m
    | fuel + 1, m =>
      if bs.isEmpty then m
      else
        let n := min bs.length 4032
        let m := m.sendTwinOf (if m.tick.phase == .cutoff then frameAdd m.F 1 else m.F) tmMWRITE vd 0 (leBytes 8 off ++ bs.take n)
        let m := if !m.twinSends then m else m.modTwinVd vd (fun t => { t with mwSent := t.mwSent + 1, mwBytes := t.mwBytes + n })
        go (off + n) (bs.drop n) fuel m

/-! ### Ports and their sessions -/

def sessInit : Sess :=
  { state := 0, peerMod := 0, peerPort := 0, peerSerial := [], peerEpoch := 0, epoch := 0, nextEpoch := 0, resEnd := 0, authWait := none,
    auth := [], peerAuth := none, run := 0, txRun := [], rxRun := 0, tx := 0, rx := 0, buf := [], resend := [], nakDue := false,
    ackDue := false, asm := [], gather := [], rxq := [], failed := [] }

def portInit : Port :=
  { sess := [], ctrl := [], data := [], ptp := [], tickDue := [], recal := false, epochTop := 0, trains := 0, tagFails := [], injCrc := false, injTag := false,
    sched := 0, unsched := 0, topWidth := 4, slot := 0 }

def Module.port (m : Module) (p : Nat) : Port := (m.links.get? p).getD portInit
def Module.modPort (m : Module) (p : Nat) (f : Port → Port) : Module := { m with links := m.links.put p (f (m.port p)) }
def Module.sess (m : Module) (p s : Nat) : Sess := ((m.port p).sess.get? s).getD sessInit
def Module.modSess (m : Module) (p s : Nat) (f : Sess → Sess) : Module :=
  m.modPort p (fun x => { x with sess := x.sess.put s (f ((x.sess.get? s).getD sessInit)) })

/-! ### What the twin has received -/

/-- Is a flit, of those sent and not yet acknowledged, one of a message that satisfies `p`? A message runs from its first flit to its
last. -/
def unacked (p : List Byte → Bool) : Bool → List Flit → Bool
  | _, [] => false
  | inside, f :: l => let now := if f.first then p f.body else inside; (f.ty == 2 && f.entry == ctrlTWIN && now) || unacked p (now && !f.last) l

/-- Has the twin not yet received a NEG or a MWRITE of a device, of frame `f` or before: does one wait to be sent, or to be acknowledged? -/
def Module.negWaits (m : Module) (vd f : Nat) : Bool :=
  let isNeg (b : List Byte) : Bool := (fieldOf b 0 1 == tmNEG || fieldOf b 0 1 == tmMWRITE) && fieldOf b 2 2 == vd && frameGe f (fieldOf b 4 6)
  m.ctrlQ.any (fun c => c.kind == ctrlTWIN && isNeg c.payload) ||
  (m.port 16).ctrl.any (fun f => f.flit.entry == ctrlTWIN && f.flit.first && isNeg f.flit.body) || unacked isNeg false (m.sess 16 0).buf

/-! ### Contact prints (R322) -/

/-- The value h of a tile that reached END. The order of the bytes that R322 leaves open is the model's: context in 4
bytes, stream handle in 4 and offset in 8; then each written byte after its address in 8; then each signal's timeline in 4
and value in 8. -/
def tilePrint (t : Tile) (writes : List OpWrite) (signals : List (Nat × Nat)) : Nat :=
  leNat ((sha384 (leBytes 4 t.ctx ++ leBytes 4 t.stream ++ leBytes 8 t.offset ++
    (sortBy (·.op) writes).flatMap (fun w => w.data.zipIdx.flatMap (fun b => leBytes 8 (w.addr + b.2) ++ [b.1])) ++
    signals.flatMap (fun s => leBytes 4 s.1 ++ leBytes 8 s.2))).take 32)

/-- Add a tile of a LOCKSTEP device to its running print. -/
def Module.addPrint (m : Module) (t : Tile) (writes : List OpWrite) (signals : List (Nat × Nat)) : Module :=
  if m.isLockstep t.vd then
    m.modTwinVd t.vd (fun x => { x with running := (x.running + tilePrint t writes signals) % 2 ^ 256, tilesEnded := x.tilesEnded + 1 })
  else m

end Sys2Proof.Machine
end

