-- ==== Sys2Proof/Machine/Requests.lean ====
section
/-!
DEFINITION. Who makes memory requests (R144, R145, R198, R199): their classes, buckets and marks, and the seams that their data
crosses.
-/
namespace Sys2Proof.Machine

/-! ### The requesters -/

/-- Is a tile a fill tile that the module made (R20)? -/
def Tile.isFill (t : Tile) : Bool := match t.src with | .fill _ => true | _ => false

def Module.running? (m : Module) (c : Nat) : Option Running := (m.core c).run

def hartInit : Hart :=
  { ctx := none, running := false, stopped := false, block := .none, pc := 0, x := [], f := [], v := [], csr := [], tlb := [],
    resv := none, head := 0, due := 0, late := 0, kept := [], taken := 0 }

def stwInit : Steward :=
  { harts := [], tcm := [], supReady := false, rr := 0, injTcm := false, reload := none, supVersion := 0, slot := 0 }

def Module.stwCore (m : Module) (s : Nat) : Steward := (m.stw.get? s).getD stwInit
def Module.modStw (m : Module) (s : Nat) (f : Steward → Steward) : Module := { m with stw := m.stw.put s (f (m.stwCore s)) }
def Module.hart (m : Module) (s h : Nat) : Hart := ((m.stwCore s).harts.get? h).getD hartInit
def Module.modHart (m : Module) (s h : Nat) (f : Hart → Hart) : Module :=
  m.modStw s (fun k => { k with harts := k.harts.put h (f ((k.harts.get? h).getD hartInit)) })

def collKey (port id : Nat) : Nat := port * 2 ^ 32 + id
def Module.coll? (m : Module) (k : Nat) : Option Coll := m.coll.get? k

/-! ### Classes (R144, R242, R295) -/

/-- The context on whose behalf a request is made and, for a tile, the label it runs under. -/
def Module.reqLabel (m : Module) (req : Requester) : Option Nat :=
  let ofCtx (c : Nat) : Option Nat := (m.ctx? c).map (·.label)
  match req with
  | .tile c _ _ | .gather c _ _ => (m.running? c).map (·.tile.label)
  | .body uid => (m.lists.find? (fun t => t.uid == uid)).map (·.label)
  | .steward s h => (m.hart s h).ctx.bind ofCtx
  | .seqCopy seq _ => (m.seq? seq).bind (fun q => ofCtx q.ctx)
  | .reduce port coll => (m.coll? (collKey port coll)).bind (fun c => ofCtx c.ctx)
  | .timeline c => (m.running? c).map (·.tile.label)
  | .migrate _ | .host | .scrub | .control => none

/-- The class of a requesting port in PORT mode. -/
def Requester.portClass : Requester → Option Nat
  | .body _ | .timeline _ => some 0
  | .tile .. | .gather .. => some 1
  | .seqCopy _ _ => some 2
  | .steward _ _ => some 3
  | .host | .reduce _ _ => some 4
  | .migrate _ | .scrub | .control => none

/-- The control class of the module. -/
def Module.controlClass (m : Module) : Option Nat := (recOf m.recs 0x0803 0).map (fun v => fieldOf v 8 1 % 8)

/-- The class of a request: the label of its context or that of its port, as its partition's mode says; control traffic and a
migration's are of the control class, and so is timeline access where no port class stands for it (R144, R200; log entry 109). `cls`
stands where neither gives one: host traffic in LABEL mode, and scrub. -/
def Module.reqClass (m : Module) (req : Requester) (part cls : Nat) : Nat :=
  let decided := match req with
    | .migrate _ | .control => m.controlClass
    | .timeline c => if classMode m.recs part = 1 then (Requester.timeline c).portClass else m.controlClass
    | r => if classMode m.recs part = 1 then r.portClass else m.reqLabel r
  decided.getD (cls % 8)

/-! ### Buckets and marks (R145, R198) -/

/-- The FLOOR requester of a memory request and its number among those that hold buckets, two for each core's transfer
engines; none for a request outside them. -/
def Module.floorReq (m : Module) (req : Requester) (off : Nat) : Option (Nat × Nat) :=
  match req with
  | .tile c e _ | .gather c e _ => (m.running? c).map (fun r => (b2n r.tile.be, 2 * c + e % 2))
  | .steward s _ => some (2, s)
  | .seqCopy _ _ => some (3, dieOf off)
  | .host | .reduce _ _ => some (4, 0)
  | _ => none

/-- Take the tokens of a request of `b` bytes at `now`: whether it issues, and its mark. A request outside the buckets is surplus. -/
def Module.takeTokens (m : Module) (req : Requester) (part cls off b now : Nat) : Module × Option Bool :=
  match m.floorReq req off with
  | none => (m, some false)
  | some (q, i) =>
    let x := m.bucketOf q i part cls off now
    if x.assured + x.surplus < b then (m, none)
    else
      let (x, mark) := x.take b
      let x : Bucket := { x with chans := insertU x.chans (chanOf off) }
      (m.setMem (fun s => { s with buckets := s.buckets.put (bucketKey q i part cls) x }), some mark)

/-! ### Seams (R198, R199) -/

/-- The die of the core that a tile is placed on. -/
def Module.tileNode (m : Module) (uid : Nat) : Node :=
  match m.tileOf uid with
  | some t => .comp (t.core / 128)
  | none => .io hostIo

/-- The die that a requester stands on; none for one that crosses no seam. A page copy and a migration move their data from the die
that holds the source; control traffic that no core makes starts at the I/O die of the PCIe port (log entry 109). -/
def Module.nodeOf (m : Module) (req : Requester) : Option Node :=
  match req with
  | .tile c _ _ | .gather c _ _ | .timeline c => some (.comp (c / 128))
  | .body uid => some (m.tileNode uid)
  | .steward s _ => some (.comp (s / 8))
  | .host | .control => some (.io hostIo)
  | .reduce p _ => some (.io (p / 8))
  | .seqCopy seq page => (m.seq? seq).map (fun q =>
      let e := m.pageEntry q page
      if e.tier ≤ 1 then .mem (dieOf e.addr) else .io hostIo)
  | .migrate i => (m.mem.migs.get? i).map (fun g => .mem (dieOf g.src))
  | .scrub => none

/-- The seam directions that the data of a request crosses: towards the die of its offset for a write, back for a read, and between
that die and the one that a migration redirects it to (R296). -/
def Module.reqWay (m : Module) (req : Requester) (off : Nat) (write : Bool) : List Crossing :=
  match m.nodeOf req with
  | some n =>
    let b := off.testBit 8
    let on (base : Nat) : List Crossing := m.routeMem2 (dieOf off) (dieOf base) b
    if write then m.routeTo n (dieOf off) b ++ (m.writeAt off).flatMap on
    else wayBack (m.routeTo n (dieOf off) b ++ on (m.readAt off))
  | none => []

/-- A request crosses the seams of its route with its mark (R198), and the floor of its requester counts on them (R199). -/
def Module.reqLoad (m : Module) (req : Requester) (part cls off : Nat) (write mark : Bool) : Module :=
  let way := m.reqWay req off write
  match m.floorReq req off with
  | some (q, i) => (m.markWay way mark).floorLoad (bucketKey q i part cls) (m.floorCeil part q (pathOf off)).1 way
  | none => m.markWay way mark

/-- The data of a transfer op of a core on one of its engines, `n` bytes at `rate` bytes per ac: the floor of the engine counts on the
seams it crosses for as long as it moves, and fill data by its bytes (R199). -/
def Module.engineFlow (m : Module) (req : Requester) (owner part off n rate : Nat) (write fill : Bool) (line : Nat) : Module :=
  let way := m.reqWay req off write
  m.addFlow { owner := owner, way := way, rate := 64 * rate, left := n, line := if write || fill then none else some line, floor :=
    if fill then none else match m.floorReq req off with
      | some (q, i) => some (bucketKey q i part (m.reqClass req part 0), (m.floorCeil part q (pathOf off)).1)
      | none => none }

/-- The data of a transfer op of core `c`: a both-engine op moves half of it on each engine (R91, R93). `at_` is where the op's data
begin, and `req` the request of an engine. -/
def Module.opFlow (m : Module) (c engine : Nat) (both : Bool) (req : Nat → Requester) (part off n rate : Nat) (write fill : Bool) (at_ : Nat) :
    Module :=
  if both then
    (m.engineFlow (req 0) (2 * c) part off ((n + 1) / 2) rate write fill at_).engineFlow (req 1) (2 * c + 1) part off (n / 2) rate write fill at_
  else m.engineFlow (req (engine % 2)) (2 * c + engine % 2) part off n rate write fill at_

/-! ### Traffic beside the memory requests -/

/-- The bytes that a request counts for in its bucket: a partial write of a DDR5 granule reads and writes 256 (R140). -/
def chargeOf (write : Bool) (off n : Nat) : Nat := if write && chanOf off ≥ 512 && n < 256 then 512 else n

/-- The host reads or writes `n` bytes in a window on behalf of a partition: device memory as its host requester, which is not held up
by a lack of tokens (log entry 109), and a plate or TCM across the seams with a surplus mark (R198). -/
def Module.windowWay (m : Module) (part off n : Nat) (write : Bool) : Module :=
  let cross (c : Nat) : Module :=
    let way := m.routeCompIo c hostIo (off.testBit 8)
    m.markWay (if write then wayBack way else way) false
  match locate off with
  | .plate c _ => cross (c / 128)
  | .tcm s _ => cross (s / 8)
  | .hbm .. | .ddr .. =>
    let cls := m.reqClass .host part 0
    let (m, mark) := m.takeTokens .host part cls off (min 1024 (chargeOf write off n)) m.mem.now
    m.reqLoad .host part cls off write (mark.getD false)
  | _ => m

end Sys2Proof.Machine
end

