-- ==== Sys2Proof/Machine/Arith.lean ====
section
/-!
DEFINITION. Element formats, scales, anchored accumulation and conversion (R44 to R69): exact dyadic values, the single
rounding to a target format, AFX128 and AFX64, MX blocks and stochastic rounding.
-/
namespace Sys2Proof.Machine

/-! ### Flags -/

def flags0 : Flags := { ovf := false, afault := false, inv := false, sat := false, nanLost := false }
def flagInv : Flags := { flags0 with inv := true }
def flagSat : Flags := { flags0 with sat := true }
def flagOvf : Flags := { flags0 with ovf := true }
def flagNanLost : Flags := { flags0 with nanLost := true }

/-- OR of two flag sets (R66). -/
def Flags.or (a b : Flags) : Flags :=
  { ovf := a.ovf || b.ovf, afault := a.afault || b.afault, inv := a.inv || b.inv, sat := a.sat || b.sat,
    nanLost := a.nanLost || b.nanLost }

/-- The status word of R97. -/
def Flags.toNat (f : Flags) : Nat := b2n f.ovf + 2 * b2n f.afault + 4 * b2n f.inv + 8 * b2n f.sat + 16 * b2n f.nanLost

/-! ### Exact values -/

/-- A value: NaN, an infinity, or a sign, a natural number and a power of two. -/
inductive Num where
  | nan
  | inf (neg : Bool)
  | fin (neg : Bool) (num : Nat) (exp : Int)
  deriving DecidableEq, Repr

/-- An integer times a power of two. -/
def Num.ofInt (v : Int) (exp : Int) : Num := .fin (decide (v < 0)) v.natAbs exp

/-- Is the value zero? -/
def Num.isZero : Num → Bool
  | .fin _ n _ => n == 0
  | _ => false

/-- Times 2^e. -/
def Num.scale (e : Int) : Num → Num
  | .fin s n x => .fin s n (x + e)
  | v => v

/-- floor(log2 |v|) of a finite non-zero value. -/
def Num.ilog : Num → Option Int
  | .fin _ n e => if n = 0 then none else some ((Nat.log2 n : Int) + e)
  | _ => none

/-- IEEE multiplication, exact, with inv when a NaN arises from 0 × Inf. -/
def Num.mul (a b : Num) : Num × Flags :=
  match a, b with
  | .nan, _ => (.nan, flags0)
  | _, .nan => (.nan, flags0)
  | .inf s, .inf t => (.inf (s != t), flags0)
  | .inf s, .fin t n _ => if n = 0 then (.nan, flagInv) else (.inf (s != t), flags0)
  | .fin t n _, .inf s => if n = 0 then (.nan, flagInv) else (.inf (s != t), flags0)
  | .fin s n e, .fin t k f => (.fin (s != t) (n * k) (e + f), flags0)

/-! ### Formats (R44, R83) -/

def fmtE2M1 : Nat := 0
def fmtE2M3 : Nat := 1
def fmtE3M2 : Nat := 2
def fmtE4M3 : Nat := 3
def fmtE5M2 : Nat := 4
def fmtINT8 : Nat := 5
def fmtFP16 : Nat := 6
def fmtBF16 : Nat := 7
def fmtFP32 : Nat := 8
def fmtAFX64 : Nat := 9

/-- Parameters of a floating-point format. -/
structure Fmt where
  width : Nat
  mant : Nat
  bias : Nat
  maxCode : Nat          -- largest finite code, positive
  infCode : Option Nat
  nanCode : Option Nat   -- canonical NaN (R46)
  deriving DecidableEq, Repr

/-- The table of R44 with the NaN codes of R46. -/
def fmtOf : Nat → Fmt
  | 0 => ⟨4, 1, 1, 0x7, none, none⟩
  | 1 => ⟨6, 3, 1, 0x1F, none, none⟩
  | 2 => ⟨6, 2, 3, 0x1F, none, none⟩
  | 3 => ⟨8, 3, 7, 0x7E, none, some 0x7F⟩
  | 4 => ⟨8, 2, 15, 0x7B, some 0x7C, some 0x7E⟩
  | 6 => ⟨16, 10, 15, 0x7BFF, some 0x7C00, some 0x7E00⟩
  | 7 => ⟨16, 7, 127, 0x7F7F, some 0x7F80, some 0x7FC0⟩
  | _ => ⟨32, 23, 127, 0x7F7F_FFFF, some 0x7F80_0000, some 0x7FC0_0000⟩

/-- Bits per element of a format code. -/
def fmtBits : Nat → Nat
  | 0 => 4
  | 1 => 6
  | 2 => 6
  | 3 => 8
  | 4 => 8
  | 5 => 8
  | 6 => 16
  | 7 => 16
  | 8 => 32
  | _ => 64

/-- Bytes that n elements take (R45). -/
def fmtBytes (f n : Nat) : Nat := ceilDiv (n * fmtBits f) 8

/-- The value of a code (R44); INT8 is its integer. -/
def decodeNum (f c : Nat) : Num :=
  if f = fmtINT8 then Num.ofInt (signed 8 c) 0
  else
    let p := fmtOf f
    let neg := bit c (p.width - 1)
    let mag := c % 2 ^ (p.width - 1)
    if mag ≤ p.maxCode then
      let e := mag / 2 ^ p.mant
      let m := mag % 2 ^ p.mant
      if e = 0 then .fin neg m (1 - (p.bias : Int) - p.mant)
      else .fin neg (2 ^ p.mant + m) ((e : Int) - p.bias - p.mant)
    else if some mag == p.infCode then .inf neg
    else .nan

/-- The codes of the first n elements of a byte string (R45). -/
def unpackCodes (f n : Nat) (bs : List Byte) : List Nat :=
  let w := fmtBits f
  let chunk := if w = 6 then 3 else if w = 4 then 1 else w / 8
  let per := chunk * 8 / w
  go w chunk per n bs n
where
  go (w chunk per n : Nat) (bs : List Byte) : Nat → List Nat
    | 0 => []
    | fuel + 1 =>
      if n = 0 then []
      else
        let v := leNat (bs.take chunk)
        ((List.range (min per n)).map (fun i => bits v (w * i) w)) ++ go w chunk per (n - per) (bs.drop chunk) fuel

/-- Pack codes into bytes (R45). DESIGN CHOICE (log entry 47): bits of the last byte that no element fills are 0. -/
def packCodes (f : Nat) (cs : List Nat) : List Byte :=
  let w := fmtBits f
  let chunk := if w = 6 then 3 else if w = 4 then 1 else w / 8
  let per := chunk * 8 / w
  (go w chunk per cs cs.length).take (fmtBytes f cs.length)
where
  word (w : Nat) : List Nat → Nat
    | [] => 0
    | c :: r => c % 2 ^ w + 2 ^ w * word w r
  go (w chunk per : Nat) (cs : List Nat) : Nat → List Byte
    | 0 => []
    | fuel + 1 =>
      if cs.isEmpty then [] else leBytes chunk (word w (cs.take per)) ++ go w chunk per (cs.drop per) fuel

/-! ### Rounding -/

/-- v / 2^s to the nearest integer, ties to even. -/
def rneShift (v : Int) (s : Nat) : Int :=
  let d : Int := 2 ^ s
  let q := v / d
  let r := v % d
  if 2 * r > d then q + 1 else if 2 * r = d then (if q % 2 = 0 then q else q + 1) else q

/-- v × 2^e to the nearest integer, ties to even. -/
def rneScale (v e : Int) : Int := if e ≥ 0 then v * 2 ^ e.toNat else rneShift v (-e).toNat

/-- v × 2^e to an integer stochastically with the word u (R67): u < floor(D × 2^32) goes up. -/
def srScale (v e : Int) (u : Nat) : Int :=
  if e ≥ 0 then v * 2 ^ e.toNat
  else
    let d : Int := 2 ^ (-e).toNat
    let q := v / d
    if (u : Int) < (v % d) * 2 ^ 32 / d then q + 1 else q

/-- Round v × 2^e to an integer: nearest, or stochastic when a word is given. -/
def roundScale (v e : Int) (u : Option Nat) : Int :=
  match u with | none => rneScale v e | some u => srScale v e u

/-- The magnitude code of a finite value in a format whose exponent range is unbounded above, after one rounding (R63,
R64, R67); codes rise with magnitude. -/
def roundMag (p : Fmt) (neg : Bool) (num : Nat) (exp : Int) (u : Option Nat) : Nat :=
  if num = 0 then 0
  else
    let q := max ((Nat.log2 num : Int) + exp) (1 - p.bias) - p.mant
    let n := (roundScale (if neg then -(num : Int) else num) (exp - q) u).natAbs
    (q + p.mant + p.bias - 1).toNat * 2 ^ p.mant + n

/-- Put the sign bit. -/
def signCode (p : Fmt) (neg : Bool) (mag : Nat) : Nat := if neg then 2 ^ (p.width - 1) + mag else mag

/-- Convert a value to a floating-point format (R62 to R64, R67): code and flags. -/
def toFloat (f : Nat) (ieee : Bool) (u : Option Nat) (v : Num) : Nat × Flags :=
  let p := fmtOf f
  match v with
  | .nan => (match p.nanCode with | some c => (c, flags0) | none => (0, flagNanLost))
  | .inf s =>
    if ieee then
      match p.infCode, p.nanCode with
      | some c, _ => (signCode p s c, flags0)
      | none, some c => (c, flagSat)
      | none, none => (signCode p s p.maxCode, flagSat)
    else (signCode p s p.maxCode, flagSat)
  | .fin s n e =>
    if n = 0 then (0, flags0)
    else
      let c := roundMag p s n e u
      if c ≤ p.maxCode then (signCode p s c, flags0)
      else if ieee then
        match p.infCode, p.nanCode with
        | some i, _ => (signCode p s i, flagSat)
        | none, some c => (c, flagSat)
        | none, none => (signCode p s p.maxCode, flagSat)
      else (signCode p s p.maxCode, flagSat)

/-- Convert a value to INT8 (R63, R64). -/
def toInt8 (u : Option Nat) (v : Num) : Nat × Flags :=
  match v with
  | .nan => (0, flagNanLost)
  | .inf s => (if s then 0x80 else 127, flagSat)
  | .fin s n e =>
    let x := roundScale (if s then -(n : Int) else n) e u
    if x > 127 then (127, flagSat) else if x < -128 then (0x80, flagSat) else (unsigned 8 x, flags0)

/-- Convert a value to an element format other than AFX64. -/
def toElem (f : Nat) (ieee : Bool) (u : Option Nat) (v : Num) : Nat × Flags :=
  if f = fmtINT8 then toInt8 u v else toFloat f ieee u v

/-! ### mix64 and the random word (R68, R69) -/

def mixStep (s k x : Nat) : Nat := ((x ^^^ (x >>> s)) * k) % 2 ^ 64

/-- mix64 (R68). -/
def mix64 (x : Nat) : Nat :=
  let x := mixStep 33 0xC39E_4A71_D85B_16F3 (mixStep 27 0x6B1D_E85A_0F37_C2A5 (mixStep 31 0xA4C2_7F1B_93D6_5E07 (x % 2 ^ 64)))
  x ^^^ (x >>> 29)

/-- u = r[63:32] for row i and column j (R67, R69). -/
def srWord (seed base stride i j : Nat) : Nat :=
  mix64 ((seed % 2 ^ 64) ^^^ ((base + i * stride + j) % 2 ^ 64)) / 2 ^ 32

/-! ### Operand tables (R50, R58) -/

/-- The element bound b of R58. -/
def elemBound (f : Nat) (mx : Bool) : Int :=
  match f with
  | 0 => 3
  | 1 => 3
  | 2 => 5
  | 3 => 9
  | 4 => 16
  | _ => if mx then 2 else 8

/-- Emax for MX conversion (R58). -/
def elemEmax (f : Nat) : Int :=
  match f with
  | 0 => 2
  | 1 => 2
  | 2 => 4
  | 3 => 8
  | 4 => 15
  | _ => 0

/-- The exponent of an E8M0 code (R48); none for NaN. -/
def scaleExp (c : Nat) : Option Int := if c = 0xFF then none else some ((c : Int) - 127)

/-- An element in MX mode with its block's scale code (R48, R49). -/
def mxValue (f : Nat) (scale : Nat) (v : Num) : Num :=
  match scaleExp scale with
  | none => .nan
  | some s => v.scale (if f = fmtINT8 then s - 6 else s)

/-- Clip to the range of an anchor (R52). -/
def clipAnchor (a : Int) : Int := max (-512) (min 511 a)

/-! ### AFX128 (R52 to R57) -/

def cell0 : AccCell := { val := 0, cls := .finite, afault := false, inv := false, ksteps := 0 }

/-- Combine an element's class with a term's (R56). -/
def combineClass : AccClass → AccClass → AccClass
  | c, .finite => c
  | .finite, t => t
  | .posInf, .posInf => .posInf
  | .negInf, .negInf => .negInf
  | _, _ => .nan

/-- Reduce modulo 2^144 to a two's-complement value (R54). -/
def wrap144 (v : Int) : Int := (v + 2 ^ 143) % 2 ^ 144 - 2 ^ 143

/-- Is a register outside the AFX128 range (R52, R55)? -/
def outsideAfx (v : Int) : Bool := decide (v ≥ 2 ^ 127) || decide (v < -(2 ^ 127))

/-- Add one term to an element (R53 to R56). DESIGN CHOICE (log entry 70): of +Inf, -Inf and a NaN, inv depends on the order of
arrival, which is here that of ascending K (lane in a VRED). -/
def addTerm (anchor : Int) (c : AccCell) (t : Num × Flags) : AccCell :=
  let merge (k : AccClass) : AccCell :=
    let n := combineClass c.cls k
    { c with cls := n, inv := c.inv || t.2.inv || (n == .nan && c.cls != .nan && k != .nan) }
  match t.1 with
  | .nan => merge .nan
  | .inf s => merge (if s then .negInf else .posInf)
  | .fin s n e =>
    let x := rneScale (if s then -(n : Int) else n) (e - (anchor - 111))
    { c with val := wrap144 (c.val + x), afault := c.afault || decide (x.natAbs ≥ 2 ^ 127) }

/-- Count K steps (R55). -/
def addSteps (k : Nat) (c : AccCell) : AccCell :=
  { c with ksteps := c.ksteps + k, afault := c.afault || decide (c.ksteps + k > 65536) }

/-- The register clamped to the AFX128 range (R60, R62). -/
def clampAfx (v : Int) : Int := if v ≥ 2 ^ 127 then 2 ^ 127 - 1 else if v < -(2 ^ 127) then -(2 ^ 127) else v

/-- The value V of an element without ROW scales (R62). -/
def cellValue (anchor : Int) (c : AccCell) : Num :=
  match c.cls with
  | .nan => .nan
  | .posInf => .inf false
  | .negInf => .inf true
  | .finite => Num.ofInt (clampAfx c.val) (anchor - 111)

/-- The value V of an element in ROW mode: α × β × S (R51, R62). -/
def cellRowValue (anchor : Int) (c : AccCell) (al be : Num) : Num × Flags :=
  match c.cls with
  | .finite =>
    let (x, f) := al.mul be
    let (y, g) := x.mul (cellValue anchor c)
    (y, f.or g)
  | _ => (cellValue anchor c, flags0)

/-- Class code of R87. -/
def AccClass.code : AccClass → Nat
  | .finite => 0
  | .nan => 1
  | .posInf => 2
  | .negInf => 3

/-! ### AFX64 (R59 to R61) -/

def afx64Nan : Nat := 0x8000_0000_0000_0000
def afx64Max : Int := 2 ^ 63 - 1

/-- The value of an AFX64 code. -/
def afx64Num (a : Int) (c : Nat) : Num := if c = afx64Nan then .nan else Num.ofInt (signed 64 c) (a - 47)

/-- A value to AFX64 under anchor a (R60, R90): code and flags. -/
def toAfx64 (a : Int) (v : Num) : Nat × Flags :=
  match v with
  | .nan => (afx64Nan, flags0)
  | .inf s => (unsigned 64 (if s then -afx64Max else afx64Max), flagOvf)
  | .fin s n e =>
    let x := rneScale (if s then -(n : Int) else n) (e - (a - 47))
    if x > afx64Max then (unsigned 64 afx64Max, flagOvf)
    else if x < -afx64Max then (unsigned 64 (-afx64Max), flagOvf)
    else (unsigned 64 x, flags0)

/-- The 80-bit form in which AFX64 values add (R61). -/
structure Afx80 where
  val : Int              -- modulo 2^80, two's complement
  nan : Bool
  ovf : Bool
  addends : Nat
  deriving DecidableEq, Repr

def afx80Zero : Afx80 := { val := 0, nan := false, ovf := false, addends := 0 }

def wrap80 (v : Int) : Int := (v + 2 ^ 79) % 2 ^ 80 - 2 ^ 79

/-- Add two sums. -/
def Afx80.add (x y : Afx80) : Afx80 :=
  { val := wrap80 (x.val + y.val), nan := x.nan || y.nan, ovf := x.ovf || y.ovf, addends := x.addends + y.addends }

/-- One AFX64 code as an addend. -/
def afx80Of (c : Nat) : Afx80 :=
  if c = afx64Nan then { afx80Zero with nan := true, addends := 1 } else { afx80Zero with val := signed 64 c, addends := 1 }

/-- Store a sum as AFX64 (R61). -/
def Afx80.store (x : Afx80) : Nat × Flags :=
  let f : Flags := { flags0 with ovf := x.ovf, afault := decide (x.addends > 65536) }
  if x.nan then (afx64Nan, f)
  else if x.val > afx64Max then (unsigned 64 afx64Max, f.or flagOvf)
  else if x.val < -afx64Max then (unsigned 64 (-afx64Max), f.or flagOvf)
  else (unsigned 64 x.val, f)

/-! ### MX blocks (R65) -/

/-- The larger of two optional exponents. -/
def maxOpt (a b : Option Int) : Option Int :=
  match a, b with
  | some x, some y => some (max x y)
  | some x, none => some x
  | none, y => y

/-- Convert one block: scale code, element codes, flags. Each value comes with its random word. -/
def mxBlock (f : Nat) (vs : List (Num × Option Nat)) : Nat × List Nat × Flags :=
  if vs.any (fun v => match v.1 with | .fin _ _ _ => false | _ => true) then
    (0xFF, vs.map (fun _ => 0), { flags0 with sat := vs.any (fun v => match v.1 with | .inf _ => true | _ => false) })
  else match vs.foldl (fun m v => maxOpt m v.1.ilog) none with
    | none => (0, vs.map (fun _ => 0), flags0)
    | some l =>
      let s := max (-127) (min 127 (l - elemEmax f))
      let r := vs.map (fun v => toElem f false v.2 (v.1.scale (if f = fmtINT8 then 6 - s else -s)))
      ((s + 127).toNat, r.map (·.1), r.foldl (fun g x => g.or x.2) flags0)

/-- Cut a list into runs of n. -/
def chunks {α : Type} (n : Nat) (l : List α) : List (List α) := go l l.length
where
  go (l : List α) : Nat → List (List α)
    | 0 => []
    | fuel + 1 => if l.isEmpty then [] else l.take n :: go (l.drop n) fuel

end Sys2Proof.Machine
end

