-- ==== Sys2Proof/Machine/VecMath.lean ====
section
/-!
DEFINITION. The FP32 results of the vector unit (R70, R71): exact arithmetic rounded once, and the transcendental
functions, correctly rounded by evaluating them in fixed point between two bounds until both round to one FP32 value.
-/
namespace Sys2Proof.Machine

/-! ### Rounding to FP32 -/

/-- The FP32 code of a signed magnitude, one rounding to nearest with ties to even, and whether it overflowed. -/
def rnd32 (neg : Bool) (num : Nat) (exp : Int) : Nat × Bool :=
  let p := fmtOf fmtFP32
  let c := roundMag p neg num exp none
  if c ≤ p.maxCode then (signCode p neg c, false) else (signCode p neg 0x7F80_0000, true)

/-- An FP32 result with the flag of an overflow (R70). -/
def res32 (neg : Bool) (num : Nat) (exp : Int) : Nat × Flags :=
  let (c, o) := rnd32 neg num exp
  (c, if o then flagSat else flags0)

def nan32 : Nat := 0x7FC0_0000
def inf32 (neg : Bool) : Nat := signCode (fmtOf fmtFP32) neg 0x7F80_0000
def zero32 (neg : Bool) : Nat := signCode (fmtOf fmtFP32) neg 0
def one32 (neg : Bool) : Nat := signCode (fmtOf fmtFP32) neg 0x3F80_0000
def half32 : Nat := 0x3F00_0000

/-! ### Exact arithmetic -/

/-- The code of a sum that is exactly known; an exact zero of unlike signs is +0. -/
def sum32 (a b : Num) : Nat × Flags :=
  match a, b with
  | .nan, _ => (nan32, flags0)
  | _, .nan => (nan32, flags0)
  | .inf s, .inf t => if s = t then (inf32 s, flags0) else (nan32, flagInv)
  | .inf s, _ => (inf32 s, flags0)
  | _, .inf s => (inf32 s, flags0)
  | .fin s n e, .fin t k f =>
    let lo := min e f
    let x : Int := (if s then -(n : Int) else n) * 2 ^ (e - lo).toNat + (if t then -(k : Int) else k) * 2 ^ (f - lo).toNat
    if x = 0 then (zero32 (s && t), flags0) else res32 (decide (x < 0)) x.natAbs lo

/-- An exact value as FP32. -/
def num32 (v : Num × Flags) : Nat × Flags :=
  match v.1 with
  | .nan => (nan32, v.2)
  | .inf s => (inf32 s, v.2)
  | .fin s n e => let (c, f) := res32 s n e; (c, v.2.or f)

def neg32 : Num → Num
  | .nan => .nan
  | .inf s => .inf (!s)
  | .fin s n e => .fin (!s) n e

/-- a × b + c with one rounding (R70). DESIGN CHOICE (log entry 71): 0 × Inf sets inv also when c is a NaN. -/
def fma32 (a b c : Num) : Nat × Flags :=
  let (p, f) := a.mul b
  let (r, g) := sum32 p c
  (r, f.or g)

/-- The integer square root: the largest r below 2^k with r² ≤ n. -/
def isqrt (n : Nat) : Nat :=
  let k := Nat.log2 n / 2 + 1
  go n k 0
where
  go (n : Nat) : Nat → Nat → Nat
    | 0, r => r
    | k + 1, r => let s := r + 2 ^ k; go n k (if s * s ≤ n then s else r)

/-- A quotient num/den × 2^exp as FP32, by a quotient of at least 32 bits with a sticky bit. -/
def quot32 (neg : Bool) (num den : Nat) (exp : Int) : Nat × Flags :=
  let k := Nat.log2 den + 34
  let q := num * 2 ^ k / den
  let st := if num * 2 ^ k % den = 0 then 0 else 1
  res32 neg (2 * q + st) (exp - k - 1)

def div32 (a b : Num) : Nat × Flags :=
  match a, b with
  | .nan, _ => (nan32, flags0)
  | _, .nan => (nan32, flags0)
  | .inf s, .inf t => let _ := s != t; (nan32, flagInv)
  | .inf s, .fin t _ _ => (inf32 (s != t), flags0)
  | .fin s _ _, .inf t => (zero32 (s != t), flags0)
  | .fin s n e, .fin t k f =>
    if k = 0 then (if n = 0 then (nan32, flagInv) else (inf32 (s != t), flags0))
    else if n = 0 then (zero32 (s != t), flags0)
    else quot32 (s != t) n k (e - f)

def sqrt32 (a : Num) : Nat × Flags :=
  match a with
  | .nan => (nan32, flags0)
  | .inf s => if s then (nan32, flagInv) else (inf32 false, flags0)
  | .fin s n e =>
    if n = 0 then (zero32 s, flags0)
    else if s then (nan32, flagInv)
    else
      let sh : Nat := if e % 2 = 0 then 64 else 65
      let v := n * 2 ^ sh
      let r := isqrt v
      res32 false (2 * r + (if r * r = v then 0 else 1)) ((e - sh) / 2 - 1)

/-- Reciprocal square root (R71). -/
def rsqrt32 (a : Num) : Nat × Flags :=
  match a with
  | .nan => (nan32, flags0)
  | .inf s => if s then (nan32, flagInv) else (zero32 false, flags0)
  | .fin s n e =>
    if n = 0 then (inf32 s, flags0)
    else if s then (nan32, flagInv)
    else
      -- 1 / sqrt(n 2^e) = sqrt(2^(2t) / n) 2^(-t - e/2), with e made even
      let (n, e) := if e % 2 = 0 then (n, e) else (2 * n, e - 1)
      let t := Nat.log2 n + 40
      let q := 2 ^ (2 * t) / n
      let r := isqrt q
      res32 false (2 * r + (if r * r * n = 2 ^ (2 * t) then 0 else 1)) (-(e / 2) - t - 1)

/-- Reciprocal (R71). -/
def recip32 (a : Num) : Nat × Flags :=
  match a with
  | .nan => (nan32, flags0)
  | .inf s => (zero32 s, flags0)
  | .fin s n e => if n = 0 then (inf32 s, flags0) else quot32 s 1 n (-e)

/-- Order of two values as extended reals; zeros are ordered by sign. -/
def numLt (a b : Num) : Bool :=
  match a, b with
  | .nan, _ => false
  | _, .nan => false
  | .inf s, .inf t => s && !t
  | .inf s, .fin _ _ _ => s
  | .fin _ _ _, .inf t => !t
  | .fin s n e, .fin t k f =>
    if n = 0 && k = 0 then s && !t
    else
      let lo := min e f
      decide ((if s then -(n : Int) else n) * 2 ^ (e - lo).toNat < (if t then -(k : Int) else k) * 2 ^ (f - lo).toNat)

/-- minimumNumber and maximumNumber with −0 below +0 (R70). -/
def minNum (a b : Num) : Num :=
  match a, b with
  | .nan, x => x
  | x, .nan => x
  | x, y => if numLt y x then y else x

def maxNum (a b : Num) : Num :=
  match a, b with
  | .nan, x => x
  | x, .nan => x
  | x, y => if numLt x y then y else x

/-- Values equal, zeros alike (R47). -/
def numEq (a b : Num) : Bool :=
  match a, b with
  | .nan, _ => false
  | _, .nan => false
  | x, y => (x.isZero && y.isZero) || (!numLt x y && !numLt y x)

/-! ### Fixed point

Each function below works with `w` fraction bits; its error is far below 2^20 units, which the bounds allow for. -/

/-- ln 2 with w fraction bits: 2 Σ 1 / ((2i + 1) 3^(2i+1)). -/
def ln2Fix (w : Nat) : Nat := go (2 * 2 ^ w / 3) 1 0 w
where
  go (t d acc : Nat) : Nat → Nat
    | 0 => acc
    | fuel + 1 => if t = 0 then acc else go (t / 9) (d + 2) (acc + t / d) fuel

/-- e^r for r / 2^w in [0, 1), by the power series. -/
def expSeries (w r : Nat) : Nat := go (2 ^ w) 1 0 w
where
  go (t k acc : Nat) : Nat → Nat
    | 0 => acc
    | fuel + 1 => if t = 0 then acc else go (t * r / 2 ^ w / k) (k + 1) (acc + t) fuel

/-- e^x for x / 2^w: a mantissa with w fraction bits and a power of two. -/
def expFix (w : Nat) (x : Int) : Nat × Int :=
  let l := ln2Fix w
  let k := x / (l : Int)
  (expSeries w (x - k * l).toNat, k)

/-- ln m for m / 2^w in [1, 2), by 2 atanh ((m - 1) / (m + 1)). -/
def lnFix (w m : Nat) : Nat :=
  let z := (m - 2 ^ w) * 2 ^ w / (m + 2 ^ w)
  let z2 := z * z / 2 ^ w
  go z2 (2 * z) 1 0 w
where
  go (z2 t d acc : Nat) : Nat → Nat
    | 0 => acc
    | fuel + 1 => if t = 0 then acc else go z2 (t * z2 / 2 ^ w) (d + 2) (acc + t / d) fuel

/-- arctan (1 / n) with w fraction bits, as the positive and negative parts of its series. -/
def atanInv (w n : Nat) : Int := go (2 ^ w / n) 1 false 0 w
where
  go (t d : Nat) (s : Bool) (acc : Int) : Nat → Int
    | 0 => acc
    | fuel + 1 =>
      if t = 0 then acc else go (t / (n * n)) (d + 2) (!s) (if s then acc - (t / d : Nat) else acc + (t / d : Nat)) fuel

/-- π with w fraction bits (Machin). -/
def piFix (w : Nat) : Nat := (16 * atanInv w 5 - 4 * atanInv w 239).toNat

/-- Σ 2^n x^(2n+1) / (2n+1)!! for x / 2^w, the series of erf without its factor. -/
def erfSeries (w x : Nat) : Nat := go (2 * x * x / 2 ^ w) x 1 0 (4 * w)
where
  go (x2 t d acc : Nat) : Nat → Nat
    | 0 => acc
    | fuel + 1 => if t = 0 then acc else go x2 (t * x2 / 2 ^ w / (d + 2)) (d + 2) (acc + t) fuel

/-- x with w fraction bits, truncated towards zero. -/
def toFix (w : Nat) (num : Nat) (exp : Int) : Nat :=
  let e := exp + w
  if e ≥ 0 then num * 2 ^ e.toNat else num / 2 ^ (-e).toNat

/-! ### Correct rounding -/

/-- The error allowed for, in units of the mantissa. -/
def fixErr : Nat := 2 ^ 24

/-- A bounded evaluation: sign, mantissa and exponent at a working precision. -/
abbrev Eval := Nat → Bool × Nat × Int

/-- Round an evaluation correctly: raise the precision until both bounds round alike. -/
def ziv (f : Eval) : Nat → Nat → Nat × Flags
  | 0, w => let (s, n, e) := f w; res32 s n e
  | fuel + 1, w =>
    let (s, n, e) := f w
    let a := rnd32 s (n - fixErr) e
    let b := rnd32 s (n + fixErr) e
    if a = b then (a.1, if a.2 then flagSat else flags0) else ziv f fuel (2 * w)

/-- Extra bits for a small argument. -/
def smallShift (num : Nat) (exp : Int) : Nat := (-((Nat.log2 num : Int) + exp)).toNat

def zivFuel : Nat := 4

/-- e^x for a finite non-zero x. -/
def expCore (s : Bool) (n : Nat) (e : Int) : Nat × Flags :=
  if (Nat.log2 n : Int) + e ≥ 8 then (if s then (zero32 false, flags0) else (inf32 false, flagSat))
  else ziv (fun w =>
    let x : Int := toFix w n e
    let (m, k) := expFix w (if s then -x else x)
    (false, m, k - w)) zivFuel 128

def exp32 (a : Num) : Nat × Flags :=
  match a with
  | .nan => (nan32, flags0)
  | .inf s => if s then (zero32 false, flags0) else (inf32 false, flags0)
  | .fin s n e => if n = 0 then (one32 false, flags0) else expCore s n e

/-- floor of a finite value. -/
def floorNum (s : Bool) (n : Nat) (e : Int) : Int :=
  let v : Int := if s then -(n : Int) else n
  if e ≥ 0 then v * 2 ^ e.toNat else v / 2 ^ (-e).toNat

def exp232 (a : Num) : Nat × Flags :=
  match a with
  | .nan => (nan32, flags0)
  | .inf s => if s then (zero32 false, flags0) else (inf32 false, flags0)
  | .fin s n e =>
    if n = 0 then (one32 false, flags0)
    else if (Nat.log2 n : Int) + e ≥ 9 then (if s then (zero32 false, flags0) else (inf32 false, flagSat))
    else
      let k := floorNum s n e
      let v : Int := if s then -(n : Int) else n
      let fr : Int := if e ≥ 0 then 0 else v - k * 2 ^ (-e).toNat
      if fr = 0 then res32 false 1 k
      else ziv (fun w => (false, expSeries w (toFix w fr.toNat e * ln2Fix w / 2 ^ w), k - w)) zivFuel 128

/-- ln or log2 of a finite positive value. -/
def logCore (two : Bool) (n : Nat) (e : Int) : Nat × Flags :=
  let l := Nat.log2 n
  let k := (l : Int) + e
  if n = 2 ^ l ∧ (two ∨ k = 0) then
    (if k = 0 then (zero32 false, flags0) else res32 (decide (k < 0)) k.natAbs 0)
  else ziv (fun w =>
    let m := lnFix w (n * 2 ^ w / 2 ^ l)
    let v : Int := if two then k * 2 ^ w + (m * 2 ^ w / ln2Fix w : Nat) else k * ln2Fix w + m
    (decide (v < 0), v.natAbs, -(w : Int))) zivFuel 160

def log32 (two : Bool) (a : Num) : Nat × Flags :=
  match a with
  | .nan => (nan32, flags0)
  | .inf s => if s then (nan32, flagInv) else (inf32 false, flags0)
  | .fin s n e =>
    if n = 0 then (inf32 true, flags0) else if s then (nan32, flagInv) else logCore two n e

/-- e^(-x) for x ≥ 0 as a fixed-point number of w bits. -/
def expNegFix (w n : Nat) (e : Int) : Nat :=
  let (m, k) := expFix w (-(toFix w n e : Int))
  m / 2 ^ (-k).toNat

def tanh32 (a : Num) : Nat × Flags :=
  match a with
  | .nan => (nan32, flags0)
  | .inf s => (one32 s, flags0)
  | .fin s n e =>
    if n = 0 then (zero32 s, flags0)
    else if (Nat.log2 n : Int) + e ≥ 5 then (one32 s, flags0)
    else
      let sh := smallShift n e
      ziv (fun w =>
        let w := w + 2 * sh
        let u := expNegFix w n (e + 1)
        (s, (2 ^ w - u) * 2 ^ w / (2 ^ w + u), -(w : Int))) zivFuel 128

def sigmoid32 (a : Num) : Nat × Flags :=
  match a with
  | .nan => (nan32, flags0)
  | .inf s => if s then (zero32 false, flags0) else (one32 false, flags0)
  | .fin s n e =>
    if n = 0 then (half32, flags0)
    else if (Nat.log2 n : Int) + e ≥ 8 then (if s then (zero32 false, flags0) else (one32 false, flags0))
    else if s then
      ziv (fun w =>
        let (m, k) := expFix w (-(toFix w n e : Int))
        (false, m * 2 ^ w / (2 ^ w + m / 2 ^ (-k).toNat), k - w)) zivFuel 128
    else
      ziv (fun w => (false, 2 ^ (2 * w) / (2 ^ w + expNegFix w n e), -(w : Int))) zivFuel 128

def erf32 (a : Num) : Nat × Flags :=
  match a with
  | .nan => (nan32, flags0)
  | .inf s => (one32 s, flags0)
  | .fin s n e =>
    if n = 0 then (zero32 s, flags0)
    else if (Nat.log2 n : Int) + e ≥ 3 then (one32 s, flags0)
    else
      let sh := smallShift n e
      ziv (fun w =>
        let w := w + 2 * sh
        let x := toFix w n e
        let g := expNegFix w (n * n) (2 * e)
        -- 2 / sqrt(pi) = sqrt(4 / pi)
        let c := isqrt (4 * 2 ^ (3 * w) / piFix w)
        (s, erfSeries w x * g / 2 ^ w * c / 2 ^ w, -(w : Int))) zivFuel 192

/-! ### The functions of VOP (R88) -/

/-- a × 2^floor(b), one rounding. -/
def scale2 (a b : Num) : Nat × Flags :=
  match b with
  | .nan => (nan32, flags0)
  | .inf s => num32 (a.mul (if s then .fin false 0 0 else .inf false))
  | .fin s n e =>
    match a with
    | .fin t k f =>
      if k = 0 then (zero32 t, flags0)
      else
        let x := if n ≠ 0 ∧ (Nat.log2 n : Int) + e ≥ 12 then (if s then -4096 else 4096) else floorNum s n e
        res32 t k (f + x)
    | _ => num32 (a, flags0)

/-- One element of a VOP as FP32 code and flags, by function code. -/
def vopFn (fn : Nat) (a b c : Num) : Nat × Flags :=
  match fn with
  | 0x00 => num32 (a, flags0)
  | 0x01 => sum32 a b
  | 0x02 => sum32 a (neg32 b)
  | 0x03 => num32 (a.mul b)
  | 0x04 => fma32 a b c
  | 0x05 => num32 (minNum a b, flags0)
  | 0x06 => num32 (maxNum a b, flags0)
  | 0x07 => num32 (match a with | .nan => .nan | .inf _ => .inf false | .fin _ n e => .fin false n e, flags0)
  | 0x08 => num32 (neg32 a, flags0)
  | 0x09 => (match a, b with
    | .nan, _ => (zero32 false, flags0)
    | _, .nan => (zero32 false, flags0)
    | x, y => if numLt y x && !numEq x y then (one32 false, flags0) else (zero32 false, flags0))
  | 0x0A => scale2 a b
  | 0x0B => recip32 a
  | 0x0C => rsqrt32 a
  | 0x0D => sqrt32 a
  | 0x0E => exp32 a
  | 0x0F => exp232 a
  | 0x10 => log32 false a
  | 0x11 => log32 true a
  | 0x12 => sigmoid32 a
  | 0x13 => tanh32 a
  | 0x14 => erf32 a
  | _ => div32 a b

/-- The result of a VOP element in its output format (R70): code and flags. -/
def vopOut (fmtOut : Nat) (ieee : Bool) (u : Option Nat) (r : Nat × Flags) : Nat × Flags :=
  let v := decodeNum fmtFP32 r.1
  if fmtOut = fmtFP32 then
    match v with
    | .inf s => if ieee then r else (signCode (fmtOf fmtFP32) s 0x7F7F_FFFF, r.2.or flagSat)
    | _ => r
  else
    let (c, f) := toElem fmtOut ieee u v
    (c, r.2.or f)

end Sys2Proof.Machine
end

