-- ==== Sys2Proof/Machine/Coll.lean ====
section
/-!
DEFINITION. Collectives in the links (R241 to R260): definitions and their checks, posts and instances, combining,
the movement of chunks, completion and aborts.
-/
namespace Sys2Proof.Machine

/-! ### The definition record (R243) -/

def ckALL_REDUCE : Nat := 0
def ckREDUCE_SCATTER : Nat := 1
def ckALL_GATHER : Nat := 2
def ckBROADCAST : Nat := 3
def ckALL_TO_ALL : Nat := 4
def ckAMAX : Nat := 5

/-- A child of the tree. -/
structure CollChild where
  mod_ : Nat
  port : Nat
  upEntry : Nat
  downEntry : Nat
  first : Nat
  count : Nat
  deriving DecidableEq, Repr

def Coll.u (c : Coll) (off len : Nat) : Nat := fieldOf c.raw off len
def Coll.kind (c : Coll) : Nat := bits (c.u 0 1) 0 4
def Coll.eager (c : Coll) : Bool := bit (c.u 0 1) 4
def Coll.fmt (c : Coll) : Nat := c.u 1 1
def Coll.port (c : Coll) : Nat := bits (c.u 2 1) 0 4
def Coll.localPosts (c : Coll) : Nat := c.u 3 1
def Coll.id (c : Coll) : Nat := c.u 4 4
def Coll.chunkLines (c : Coll) : Nat := c.u 8 2
def Coll.window (c : Coll) : Nat := c.u 10 2
def Coll.nChunks (c : Coll) : Nat := c.u 12 4
def Coll.members (c : Coll) : Nat := c.u 16 4
def Coll.rank (c : Coll) : Nat := c.u 20 4
def Coll.parent (c : Coll) : Nat := c.u 24 2
def Coll.parentPort (c : Coll) : Nat := c.u 26 1
def Coll.nChildren (c : Coll) : Nat := c.u 27 1
def Coll.upEntry (c : Coll) : Nat := c.u 28 2
def Coll.downInEntry (c : Coll) : Nat := c.u 30 2
def Coll.resultBase (c : Coll) : Nat := c.u 32 6
def Coll.anchorField (c : Coll) : Int := signed 16 (c.u 38 2)
/-- The anchor that a definition fixes for its AFX64 posts and chunks, if it does (R243). -/
def Coll.fixedAnchor (c : Coll) : Option Int := if c.fmt == fmtAFX64 && c.u 38 2 != 0x7FFF then some c.anchorField else none
def Coll.statusBase (c : Coll) : Nat := c.u 40 6
def Coll.timeout (c : Coll) : Nat := c.u 46 2
def Coll.timeline (c : Coll) : Nat := bits (c.u 48 4) 0 22
def Coll.sigBase (c : Coll) : Nat := c.u 56 8
def Coll.bias (c : Coll) : Int := signed 16 (c.u 64 2)
def Coll.nSites (c : Coll) : Nat := c.u 66 1
def Coll.lenBase (c : Coll) : Nat := c.u 68 6
def Coll.mapBase (c : Coll) : Nat := c.u 74 6
def Coll.a2aEntry (c : Coll) (p : Nat) : Nat := c.u (80 + 2 * p) 2
def Coll.children (c : Coll) : List CollChild :=
  (List.range (min 15 c.nChildren)).map (fun i =>
    let o := 128 + 16 * i
    { mod_ := c.u o 2, port := c.u (o + 2) 1, upEntry := c.u (o + 4) 2, downEntry := c.u (o + 6) 2, first := c.u (o + 8) 4,
      count := c.u (o + 12) 4 })
def Coll.sites (c : Coll) : List (Nat × Int) :=
  (List.range (min 16 c.nSites)).map (fun i => (c.u (384 + 8 * i) 6, signed 16 (c.u (390 + 8 * i) 2)))

def Coll.isRoot (c : Coll) : Bool := c.parent == 0xFFFF && c.parentPort == 0xFF

/-- Chunk bytes b (R248). -/
def Coll.b (c : Coll) : Nat := c.chunkLines * 64

/-- Is the kind a reduction up the tree? -/
def Coll.reduces (c : Coll) : Bool := c.kind == ckALL_REDUCE || c.kind == ckREDUCE_SCATTER || c.kind == ckAMAX

/-- Chunks that ranks lo to hi - 1 own (R244). -/
def Coll.owned (c : Coll) (lo hi : Nat) : List Nat :=
  let a := lo * c.nChunks / max 1 c.members
  let z := hi * c.nChunks / max 1 c.members
  (List.range (z - a)).map (a + ·)

def Coll.myChunks (c : Coll) : List Nat := c.owned c.rank (c.rank + 1)
def CollChild.chunks (c : Coll) (x : CollChild) : List Nat := c.owned x.first (x.first + x.count)

/-- Wire data bytes up the tree (R248). -/
def Coll.upBytes (c : Coll) : Nat :=
  if !c.reduces then c.b else if c.fmt = fmtAFX64 then c.b * 5 / 4 else if c.fmt = fmtBF16 then 2 * c.b else c.b

/-- Staging bytes reserved (R245); u counts the trailer. -/
def Coll.staging (c : Coll) : Nat :=
  let u := c.upBytes + 16
  if c.reduces && c.fmt != fmtAFX64 then c.window * (c.nChildren + c.localPosts + 1) * u else c.window * u

/-- Flits of a chunk with `n` data bytes. -/
def collFlits (n : Nat) : Nat := ceilDiv (n + 16) 208

/-! ### The engine's collectives -/

def Module.setColl (m : Module) (k : Nat) (c : Coll) : Module := { m with coll := m.coll.put k c }
def Module.engineColls (m : Module) (p : Nat) : List (Nat × Coll) := m.coll.filter (fun e => e.1 / 2 ^ 32 == p)

/-- Record the last abort or post error, unless the partition is confidential (R260). -/
def Module.collLast (m : Module) (c : Coll) (reason : Nat) (post : Bool) (inst : Nat) : Module :=
  if m.conf c.part then m
  else (m.setReg (LINK_COLL_LAST c.port) c.id).setReg (LINK_COLL_LAST_INFO c.port) (reason + 16 * b2n post + 256 * (inst % 2 ^ 24))

/-! ### DEFINE and DESTROY (R243, R245) -/

def rjEXISTS : Nat := 1
def rjBAD_KIND : Nat := 2
def rjENTRY : Nat := 3
def rjCOLL_RANGE : Nat := 4
def rjSTAGING : Nat := 5
def rjLIMIT : Nat := 6
def rjCOLL_RESERVED : Nat := 7
def rjNOT_FOUND : Nat := 8

/-- Is a schedule entry one of the partition's on a port (R243, R264)? -/
def schedEntryOk (r : Recs) (part entry port : Nat) : Bool :=
  match recOf r 0x0701 (entry + 65536 * port) with
  | some v => fieldOf v 9 1 == part
  | none => false

/-- Are the reserved bytes of a definition record zero? -/
def collReservedOk (raw : List Byte) : Bool :=
  let z (off len : Nat) : Bool := fieldOf raw off len == 0
  fieldOf raw 0 1 < 32 && fieldOf raw 2 1 < 16 && fieldOf raw 48 4 < 2 ^ 22 && z 52 4 && z 67 1 && z 112 16 && z 368 16 &&
  (List.range 15).all (fun i => z (131 + 16 * i) 1)

/-- Failed checks of a definition record, as reasons. Its engine must be one that a port bound to the context's device gives
(R264, R286; log entry 82). -/
def Module.collBad (m : Module) (c : Coll) : List Nat :=
  let bad (x : Bool) (r : Nat) : List Nat := if x then [r] else []
  let tree := c.kind != ckALL_TO_ALL
  let inside (off len align : Nat) : Bool := off % align == 0 && m.allowed c.part off len
  let results : Nat := if c.kind = ckREDUCE_SCATTER then c.myChunks.length else if c.kind = ckALL_TO_ALL then c.members else c.nChunks
  let eng := m.engineColls c.port
  bad ((m.coll? (collKey c.port c.id)).isSome) rjEXISTS ++
  bad (c.kind > 5 || !(c.fmt == fmtBF16 || c.fmt == fmtFP32 || c.fmt == fmtAFX64) ||
       (c.localPosts != 1 && (c.kind == ckALL_GATHER || c.kind == ckBROADCAST || c.kind == ckALL_TO_ALL)) ||
       (c.kind == ckAMAX && c.fmt != fmtFP32)) rjBAD_KIND ++
  bad (tree && !c.isRoot && !(schedEntryOk m.nextRecs c.part c.upEntry c.parentPort && schedEntryOk m.nextRecs c.part c.downInEntry c.parentPort)) rjENTRY ++
  bad (tree && c.children.any (fun x => !(schedEntryOk m.nextRecs c.part x.upEntry x.port && schedEntryOk m.nextRecs c.part x.downEntry x.port))) rjENTRY ++
  bad (!tree && (List.range 16).any (fun p => c.a2aEntry p != 0xFFFF && !schedEntryOk m.nextRecs c.part (c.a2aEntry p) p)) rjENTRY ++
  bad (c.localPosts == 0 || c.localPosts > 64 || c.id == 0 || c.chunkLines == 0 || c.chunkLines > 512 || c.window == 0 || c.window > 4096 ||
       c.nChunks == 0 || c.nChunks > 65536 || c.members == 0 || c.members > 65536 || c.rank ≥ c.members || c.nChildren > 15 ||
       (!c.isRoot && c.parentPort > 16) || c.timeout == 0 || c.nSites > 16 || c.children.any (·.port > 16) ||
       (c.kind == ckALL_TO_ALL && c.nChunks != c.members) || (c.kind == ckAMAX && (c.nChunks != 1 || c.chunkLines != 1)) ||
       (match c.fixedAnchor with | some a => decide (a < -512) || decide (a > 511) | none => false) ||
       (match m.ctx? c.ctx with | some x => portVd m.nextRecs c.port != some x.vd | none => true) ||
       !inside c.resultBase (results * c.b) 64 || !inside c.statusBase 16 16 ||
       c.sites.any (fun s => !inside s.1 2 2) ||
       (c.kind == ckALL_TO_ALL && !(inside c.lenBase (4 * c.members) 1 && inside c.mapBase (2 * c.members) 1))) rjCOLL_RANGE ++
  bad (((eng.map (fun e => e.2.staging)).foldl (· + ·) 0) + c.staging > 2 ^ 23) rjSTAGING ++
  bad (eng.length ≥ 64) rjLIMIT ++
  bad (!collReservedOk c.raw) rjCOLL_RESERVED

/-! ### Aborts (R259) -/

def caTIMEOUT : Nat := 1
def caPEER_ABORT : Nat := 2
def caPORT_DOWN : Nat := 3
def caANCHOR : Nat := 4
def caWINDOW : Nat := 5
def caINSTANCE : Nat := 6
def caTRAILER : Nat := 7
def caDESTROYED : Nat := 8

/-- The rank-to-module table of an ALL_TO_ALL. -/
def Module.collMap (m : Module) (c : Coll) (r : Nat) : Nat := leNat (m.dataAt (c.mapBase + 2 * r) 2)

/-- The engine reads the entries of ranks `rs` of the rank-to-module table; false when one is lost to it (R382). -/
def Module.collMapRead (m : Module) (c : Coll) (rs : List Nat) : Module × Bool :=
  if c.kind != ckALL_TO_ALL then (m, true)
  else rs.foldl (fun acc r =>
    if !acc.2 then acc
    else match acc.1.memRead c.part (c.mapBase + 2 * r) 2 with
      | (m, .uncorrectable l, _) => (m.dataLost l 7 c.part (some c.ctx), false)
      | (m, _, _) => (m, true)) (m, true)

/-- Modules that a member sends to or receives from; an ALL_TO_ALL knows none whose table entry stands in a lost line (R382). -/
def Module.collPeers (m : Module) (c : Coll) : List Nat :=
  if c.kind = ckALL_TO_ALL then
    ((List.range c.members).filter (fun r =>
      r != c.rank && !m.mem.uncorr.contains (alignDown (m.readAt (c.mapBase + 2 * r)) 64))).map (m.collMap c)
  else (if c.isRoot then [] else [c.parent]) ++ c.children.map (·.mod_)

/-- The status record (R254): instance, status, flags, reason, frame, anchor. -/
def collStatus (inst status flags reason frame : Nat) (anchor : Int) : List Byte :=
  leBytes 4 inst ++ leBytes 1 status ++ leBytes 1 flags ++ leBytes 1 reason ++ zeros 1 ++ leBytes 6 frame ++
  leBytes 2 (unsigned 16 anchor)

/-- The number after an instance, past those marked aborted ahead. -/
def nextInst : Nat → List Nat → Nat → Nat
  | 0, _, n => n
  | fuel + 1, ahead, n => if ahead.contains n then nextInst fuel ahead (n + 1) else n

/-- Cut a byte string at the granules of 256 bytes: a memory request lies within one. -/
def granules (off : Nat) (bs : List Byte) : List (Nat × List Byte) := go off bs bs.length
where
  go (off : Nat) (bs : List Byte) : Nat → List (Nat × List Byte)
    | 0 => []
    | fuel + 1 =>
      if bs.isEmpty then []
      else let n := 256 - off % 256; (off, bs.take n) :: go (off + n) (bs.drop n) fuel

/-- The engine is to write bytes for an instance, in the class of the defining context, or class 4 in PORT mode (R242): its requests
wait behind those it made before. -/
def Module.collQueue (m : Module) (c : Coll) (num : Option Nat) (off : Nat) (bs : List Byte) (chunk : Option Nat) (ends : Bool) : Module :=
  let cls := if classMode m.recs c.part = 1 then 4 else match m.ctx? c.ctx with | some x => x.label | none => 0
  let ps := granules off bs
  m.setMem (fun s => { s with puts := s.puts ++ ps.zipIdx.map (fun p =>
    { coll := collKey c.port c.id, inst := num, ctx := c.ctx, part := c.part, cls := cls, off := p.1.1, data := p.1.2, chunk := chunk,
      ends := ends && p.2 + 1 == ps.length }) })

/-- Forget the writes of an instance that wait: on an abort they go with its staging (R259). -/
def Module.collForget (m : Module) (k num : Nat) : Module :=
  m.setMem (fun s => { s with puts := s.puts.filter (fun w => !(w.coll == k && w.inst == some num)) })

/-- Abort the instance in progress: its status record waits to be written. -/
def Module.collStop (m : Module) (k reason : Nat) : Module :=
  match m.coll? k with
  | none => m
  | some c =>
    match c.inst with
    | none => m
    | some x =>
      let m := m.setColl k { c with inst := none, aborted := x.num, next := nextInst c.ahead.length c.ahead (x.num + 1) }
      let m := (m.collForget k x.num).collQueue c none c.statusBase (collStatus x.num 1 x.flags reason m.F (x.anchor.getD 0)) none false
      let m := (m.raise (LINK_COLL_EVENT_aborted c.port)).count (LINK_COLL_ABORTS_count c.port) 1
      let m := m.collLast c reason false x.num
      each (m.collPeers c) m (fun m d =>
        m.sendCtrl d ctrlCOLL (leBytes 1 1 ++ leBytes 1 reason ++ zeros 2 ++ leBytes 4 c.id ++ leBytes 4 x.num ++ zeros 4))

/-- The last piece of a group has been written: a result chunk counts as written, and the status record of an instance that completed
ends it with its signal (R254). -/
def Module.collWrote (m : Module) (w : CollPut) : Module :=
  match m.coll? w.coll with
  | none => m
  | some c =>
    match c.inst with
    | none => m
    | some x =>
      if !w.ends || w.inst != some x.num then m
      else match w.chunk with
        | some k => m.setColl w.coll { c with inst := some { x with written := x.written ++ [k] } }
        | none =>
          let m := m.setColl w.coll { c with inst := none, next := nextInst c.ahead.length c.ahead (x.num + 1) }
          (m.count (LINK_COLL_DONE_count c.port) 1).signalTl c.timeline ((c.sigBase + x.num) % 2 ^ 64) c.ctx

/-- Make a write whose tokens are taken. A granule that cannot be read is lost to the engine, which aborts the instance (R140, R382);
of a chunk that is refused nothing more is written, and any other refused write is over. -/
def Module.collPut (m : Module) (w : CollPut) : Module :=
  match m.memWrite w.part w.off w.data with
  | (m, .ok) => m.collWrote w
  | (m, .uncorrectable l) =>
    let m := m.dataLost l 7 w.part (some w.ctx)
    let cur : Bool := match m.coll? w.coll with | some c => (match c.inst with | some x => w.inst == some x.num | none => false) | none => false
    if cur then m.collStop w.coll caTRAILER else m
  | (m, .refused) =>
    if w.chunk.isNone then m.collWrote w
    else m.setMem (fun s => { s with puts := s.puts.filter (fun v => !(v.coll == w.coll && v.inst == w.inst && v.chunk == w.chunk)) })

/-- Make the writes that wait, in order, until the host requester of a partition lacks the tokens: its bucket holds up those of its
class and no others (R145, R242). -/
def Module.collPump (m : Module) : Module := go (2 * m.mem.puts.length + 64) [] m
where
  go : Nat → List (Nat × Nat) → Module → Module
    | 0, _, m => m
    | fuel + 1, stuck, m =>
      match m.mem.puts.find? (fun w => !stuck.contains (w.part, w.cls)) with
      | none => m
      | some w =>
        let req : Requester := .reduce (w.coll / 2 ^ 32) (w.coll % 2 ^ 32)
        match m.takeTokens req w.part w.cls w.off (chargeOf true w.off w.data.length) m.mem.now with
        | (m, none) => go fuel ((w.part, w.cls) :: stuck) m
        | (m, some mark) =>
          let m := (m.setMem (fun s => { s with puts := s.puts.erase w })).reqLoad req w.part w.cls w.off true mark
          go fuel stuck (m.collPut w)

/-- Abort the instance in progress. -/
def Module.collAbort (m : Module) (k reason : Nat) : Module := (m.collStop k reason).collPump

/-- Remove a collective, aborting its instance with DESTROYED. -/
def Module.collDestroy (m : Module) (k : Nat) : Module :=
  let m := m.collAbort k caDESTROYED
  match m.coll? k with
  | some c => { m with coll := m.coll.del k }.dropTl c.timeline
  | none => m

/-- A COLL command at the edge ending the frame of its pick-up. -/
def Module.collApply (m : Module) (cmd : Cmd) : CmdOut :=
  let p := cmd.payload
  let cop := fieldOf p 0 1
  let a := fieldOf p 8 8
  let b := fieldOf p 16 8
  let part := m.ctxPart cmd.ctx
  if cop = 0 || cop > 2 then rejOut m rjBAD_KIND
  else if !allZero ((p.drop 1).take 7) || !allZero ((p.drop 24).take 40) then rejOut m rjCOLL_RESERVED
  else if cop = 1 then
    if a % 64 ≠ 0 || a ≥ 2 ^ 42 || !m.allowed part a 512 then rejOut m rjCOLL_RANGE
    else match m.memRead part a 512 with
      | (m, .ok, raw) =>
        let c : Coll := { raw := raw, part := part, ctx := cmd.ctx, next := 1, counts := [], ahead := [], aborted := 0, inst := none }
        (match (m.collBad c).head? with
         | some r => rejOut m r
         | none => okOut ((m.setColl (collKey c.port c.id) c).holdTl c.timeline) 0)
      | (m, _, _) => rejOut m rjCOLL_RANGE
  else
    if a ≥ 2 ^ 32 || b ≥ 16 then rejOut m rjCOLL_RESERVED
    else match m.coll? (collKey b a) with
      | some c => if c.part = part then okOut (m.collDestroy (collKey b a)) 0 else rejOut m rjNOT_FOUND
      | none => rejOut m rjNOT_FOUND

/-! ### Combining (R249 to R251, R255) -/

/-- AFX64 values of a post. -/
def afxOfPost (bs : List Byte) : List (Int × Bool × Bool) :=
  (unpackCodes fmtAFX64 (bs.length / 8) bs).map (fun c =>
    if c = afx64Nan then (0, true, false) else (signed 64 c, false, decide ((signed 64 c).natAbs = 2 ^ 63 - 1)))

/-- The 80-bit form of an up chunk (R249). -/
def afxOfWire (bs : List Byte) : List (Int × Bool × Bool) :=
  (chunks 80 bs).flatMap (fun g => (List.range 8).map (fun i =>
    let v := signed 80 (fieldOf g (8 * i) 8 + 2 ^ 64 * fieldOf g (64 + 2 * i) 2)
    if v = -(2 ^ 79) then (0, true, false) else (v, false, false)))

def afxToWire (vs : List (Int × Bool)) : List Byte :=
  (chunks 8 vs).flatMap (fun g =>
    let w := g.map (fun v => if v.2 then 2 ^ 79 else unsigned 80 v.1)
    w.flatMap (fun x => leBytes 8 (x % 2 ^ 64)) ++ w.flatMap (fun x => leBytes 2 (x / 2 ^ 64)))

/-- Combine equal-length vectors of 80-bit values: sums and an ovf flag of the inputs. -/
def afxSum (vs : List (List (Int × Bool × Bool))) : List (Int × Bool) × Bool :=
  match vs with
  | [] => ([], false)
  | v :: rest =>
    let s := rest.foldl (fun acc w => List.zipWith (fun a b => (wrap80 (a.1 + b.1), a.2.1 || b.2.1, a.2.2 || b.2.2)) acc w) v
    (s.map (fun x => (x.1, x.2.1)), s.any (fun x => x.2.2))

/-- FP32 codes of a post or an up chunk; BF16 posts widen. -/
def f32Of (fmt : Nat) (bs : List Byte) : List Nat :=
  if fmt = fmtBF16 then (unpackCodes fmtBF16 (bs.length / 2) bs).map (· * 65536) else unpackCodes fmtFP32 (bs.length / 4) bs

/-- An FP32 code with a NaN made canonical, as every NaN that the module writes is (R46). -/
def canon32 (x : Nat) : Nat := match decodeNum fmtFP32 x with | .nan => (num32 (.nan, flags0)).1 | _ => x

/-- FP32 sums in the order given (R251). -/
def f32Sum (vs : List (List Nat)) : List Nat × Flags :=
  match vs with
  | [] => ([], flags0)
  | v :: rest =>
    rest.foldl (fun acc w =>
      let r := List.zipWith (fun a b => sum32 (decodeNum fmtFP32 a) (decodeNum fmtFP32 b)) acc.1 w
      (r.map (·.1), r.foldl (fun f x => f.or x.2) acc.2)) (v.map canon32, flags0)

/-- Element-wise maximumNumber (R255). -/
def f32Max (vs : List (List Nat)) : List Nat :=
  match vs with
  | [] => []
  | v :: rest => rest.foldl (fun acc w => List.zipWith (fun a b =>
      (num32 (maxNum (decodeNum fmtFP32 a) (decodeNum fmtFP32 b), flags0)).1) acc w) (v.map canon32)

/-- The agreed anchor E of an AMAX from element 0 (R255). -/
def amaxAnchor (bias : Int) (code : Nat) : Int :=
  match decodeNum fmtFP32 code with
  | .nan => -512
  | .inf s => if s then clipAnchor (-(2 ^ 20)) else 511
  | .fin s n e => clipAnchor (rneScale (if s then -(n : Int) else n) e + bias)

/-- Combine the inputs of a chunk at a member: what goes up, or the result at the root. -/
def Coll.combine (c : Coll) (k : Nat) (posts : List CollPost) (ins : List CollIn) : CollOut :=
  let addends := posts.length + (ins.map (·.addends)).foldl (· + ·) 0
  let fl := (ins.map (·.flags)).foldl (· ||| ·) 0
  let tooMany := if addends > 65536 then 2 else 0
  if c.kind = ckAMAX then
    { chunk := k, addends := addends, flags := fl, data := packCodes fmtFP32 (f32Max ((posts.map (fun p => f32Of fmtFP32 p.data)) ++ ins.map (fun i => f32Of fmtFP32 i.data))) }
  else if c.fmt = fmtAFX64 then
    let (s, o) := afxSum (posts.map (fun p => afxOfPost p.data) ++ ins.map (fun i => afxOfWire i.data))
    if c.isRoot then
      let r := s.map (fun x => Afx80.store { val := x.1, nan := x.2, ovf := false, addends := 0 })
      { chunk := k, addends := addends, flags := fl ||| b2n o ||| tooMany ||| (r.foldl (fun f x => f.or x.2) flags0).toNat,
        data := packCodes fmtAFX64 (r.map (·.1)) }
    else { chunk := k, addends := addends, flags := fl ||| b2n o ||| tooMany, data := afxToWire s }
  else
    let (s, f) := f32Sum (posts.map (fun p => f32Of c.fmt p.data) ++ ins.map (fun i => f32Of fmtFP32 i.data))
    if c.isRoot && c.fmt == fmtBF16 then
      let r := s.map (fun x => toFloat fmtBF16 true none (decodeNum fmtFP32 x))
      { chunk := k, addends := addends, flags := fl ||| tooMany ||| f.toNat ||| (r.foldl (fun g x => g.or x.2) flags0).toNat,
        data := packCodes fmtBF16 (r.map (·.1)) }
    else { chunk := k, addends := addends, flags := fl ||| tooMany ||| f.toNat, data := packCodes fmtFP32 s }

/-! ### Instances -/

def instInit (num frame : Nat) (anchor : Option Int) : CollInst :=
  { num := num, began := frame, anchor := anchor, posts := [], ins := [], ups := [], results := [], written := [], sends := [],
    sent := [], flags := 0 }

/-- Does a staging slot hold a chunk? -/
def CollInst.holds (x : CollInst) (k : Nat) : Bool :=
  x.posts.any (·.chunk == k) || x.ins.any (·.chunk == k) || x.ups.any (·.chunk == k) || x.sends.any (·.chunk == k)

/-- Is the slot that chunk k maps to taken by an earlier chunk (R247, R253)? -/
def Coll.slotBusy (c : Coll) (k : Nat) : Bool :=
  match c.inst with
  | some x => k ≥ c.window && x.holds (k - c.window)
  | none => false

/-- Chunks that this member writes (R243). -/
def Coll.expects (c : Coll) : List Nat :=
  if c.kind = ckREDUCE_SCATTER then c.myChunks
  else if c.kind = ckALL_TO_ALL then List.range c.members else List.range c.nChunks

/-- The sends that this member owes: path and chunk; path 255 is the parent (R252). -/
def Coll.owes (c : Coll) : List (Nat × Nat) :=
  if c.kind = ckALL_TO_ALL then
    ((List.range (c.members - 1)).map (fun i => (c.rank + 1 + i) % c.members)).map (fun r => (r, r))
  else
    let all := List.range c.nChunks
    let mine := c.myChunks ++ c.children.flatMap (CollChild.chunks c)
    let up := if c.isRoot || c.kind == ckBROADCAST then []
      else if c.kind = ckALL_GATHER then mine.map (fun k => (255, k)) else all.map (fun k => (255, k))
    let down := c.children.zipIdx.flatMap (fun x =>
      let own := CollChild.chunks c x.1
      let l := if c.kind = ckREDUCE_SCATTER then own else if c.kind = ckALL_GATHER then all.filter (fun k => !own.contains k) else all
      l.map (fun k => (x.2, k)))
    up ++ down

/-- Queue a send, unless it is queued or sent. -/
def CollInst.addSend (c : Coll) (x : CollInst) (dst k : Nat) : CollInst :=
  if x.sent.contains (dst, k) || x.sends.any (fun s => s.dst == dst && s.chunk == k) then x
  else { x with sends := x.sends ++ [{ dst := dst, chunk := k, fixed_ := c.eager, flits := 0 }] }

/-- A chunk whose addends pass 65,536 raises the event (R250, R260). -/
def Module.collFlags (m : Module) (c : Coll) (flags : Nat) : Module :=
  if bit flags 1 then m.raise (LINK_COLL_EVENT_afault c.port) else m

/-- The writes of a result chunk (R242, R243); an ALL_TO_ALL block also writes its line count (R258), and one without lines no more. -/
def Module.collWrite (m : Module) (c : Coll) (num : Nat) (r : CollOut) : Module :=
  let at_ := if c.kind = ckREDUCE_SCATTER then r.chunk - c.myChunks.headD 0 else r.chunk
  let a2a : Bool := c.kind == ckALL_TO_ALL
  let m := m.collQueue c (some num) (c.resultBase + at_ * c.b) r.data (some r.chunk) (!a2a)
  if a2a then m.collQueue c (some num) (c.lenBase + 4 * r.chunk) (leBytes 4 (r.data.length / 64)) (some r.chunk) true else m

/-- A result chunk becomes known to a member: its writes wait for their tokens if this member receives it, and it goes down to the
children that receive it. -/
def Module.collResult (m : Module) (k : Nat) (r : CollOut) : Module :=
  match m.coll? k with
  | none => m
  | some c =>
    match c.inst with
    | none => m
    | some x =>
      if x.results.any (·.chunk == r.chunk) then m
      else
        let y := { x with results := x.results ++ [r], flags := x.flags ||| r.flags }
        let y := (c.owes.filter (fun o => o.1 != 255 && o.2 == r.chunk && c.kind != ckALL_TO_ALL)).foldl (fun x o => x.addSend c o.1 o.2) y
        let m := (m.collFlags c r.flags).setColl k { c with inst := some y }
        if c.expects.contains r.chunk then (m.collWrite c x.num r).collPump else m

/-- Combine a chunk once every input is there (R251). -/
def Module.collTry (m : Module) (k chunk : Nat) : Module :=
  match m.coll? k with
  | none => m
  | some c =>
    match c.inst with
    | none => m
    | some x =>
      let ps := x.posts.filter (·.chunk == chunk)
      let is := x.ins.filter (·.chunk == chunk)
      if !c.reduces || ps.length < c.localPosts || is.length < c.nChildren then m
      else
        let o := c.combine chunk (sortBy (·.core) ps) (sortBy (·.child) is)
        let x := { x with posts := x.posts.filter (·.chunk != chunk), ins := x.ins.filter (·.chunk != chunk) }
        if c.isRoot then (m.setColl k { c with inst := some x }).collResult k o
        else (m.collFlags c o.flags).setColl k { c with inst := some (({ x with ups := x.ups ++ [o] }).addSend c 255 chunk) }

/-- Begin an instance when none is in progress. -/
def Coll.begin_ (c : Coll) (frame : Nat) : Coll :=
  match c.inst with
  | some _ => c
  | none => { c with inst := some (instInit c.next frame c.fixedAnchor) }

/-! ### Posts (R246, R247) -/

def poUNKNOWN : Nat := 1
def poCHUNK : Nat := 2
def poLINES : Nat := 3
def poFORMAT : Nat := 4
def poANCHOR : Nat := 5
def poNOT_OWNER : Nat := 6
def poINSTANCE : Nat := 7

/-- The instance that a post of a chunk belongs to. -/
def Coll.postInst (c : Coll) (chunk : Nat) : Nat := SMap.get (fun _ => 0) c.counts chunk / max 1 c.localPosts + 1

/-- The reason a post fails, if it does. A post of an aborted instance has no other anchor than a fixed one to differ from. -/
def Coll.postBad (c : Coll) (p : Post) : Option Nat :=
  let inst := c.postInst p.chunk
  if p.chunk ≥ c.nChunks then some poCHUNK
  else if (if c.kind = ckALL_TO_ALL then p.lines > c.chunkLines else p.lines ≠ c.chunkLines) then some poLINES
  else if p.fmt ≠ c.fmt then some poFORMAT
  else if c.fmt == fmtAFX64 && (match (match c.fixedAnchor, c.inst with
      | some a, _ => some a
      | none, some x => if x.num = inst then x.anchor else none
      | none, none => none) with | some a => a != p.anchor | none => false) then some poANCHOR
  else if (c.kind == ckALL_GATHER && !c.myChunks.contains p.chunk) || (c.kind == ckBROADCAST && !c.isRoot) then some poNOT_OWNER
  else match c.inst with
    | some x => if inst > x.num then some poINSTANCE else none
    | none => none

/-- A post becomes visible at END. -/
def Module.collPost (m : Module) (p : Post) : Module :=
  let k := collKey p.port p.collId
  let part := m.ctxPart p.ctx
  let fail (m : Module) (c : Option Coll) (r : Nat) : Module :=
    let m := (m.willLose p.ctx lostCOLL_POST).raise (LINK_COLL_EVENT_post_error p.port)
    match c with
    | some c => m.collLast c r true (c.postInst p.chunk)
    | none => if m.conf part then m else
        (m.setReg (LINK_COLL_LAST p.port) p.collId).setReg (LINK_COLL_LAST_INFO p.port) (r + 16)
  match m.coll? k with
  | none => fail m none poUNKNOWN
  | some c =>
    if c.part ≠ part then fail m none poUNKNOWN
    else match c.postBad p with
      | some r => fail m (some c) r
      | none =>
        let inst := c.postInst p.chunk
        let c := { c with counts := SMap.set (fun _ => 0) c.counts p.chunk (SMap.get (fun _ => 0) c.counts p.chunk + 1) }
        if inst ≤ c.aborted || c.ahead.contains inst then m.setColl k c
        else
          let c := c.begin_ m.F
          match c.inst with
          | none => m.setColl k c
          | some x =>
            let x := { x with anchor := match x.anchor with | some a => some a | none => if c.fmt = fmtAFX64 then some p.anchor else none }
            let post : CollPost := { chunk := p.chunk, core := p.core, lines := p.lines, anchor := p.anchor, data := p.data }
            let out : CollOut := { chunk := p.chunk, addends := 1, flags := 0, data := p.data }
            if c.reduces then (m.setColl k { c with inst := some { x with posts := x.posts ++ [post] } }).collTry k p.chunk
            else if c.kind = ckALL_TO_ALL then
              if p.chunk = c.rank then (m.setColl k { c with inst := some x }).collResult k out
              else
                match m.collMapRead c [p.chunk] with
                | (m, true) => m.setColl k { c with inst := some (({ x with ups := x.ups ++ [out] }).addSend c p.chunk p.chunk) }
                | (m, false) => (m.setColl k { c with inst := some x }).collAbort k caTRAILER
            else
              let x := if c.isRoot || c.kind == ckBROADCAST then x else ({ x with ups := x.ups ++ [out] }).addSend c 255 p.chunk
              (m.setColl k { c with inst := some x }).collResult k out

/-! ### Arriving chunks (R253) -/

/-- Where a chunk on an entry of a port comes from: 255 the parent, a child index, or for an ALL_TO_ALL the rank. -/
def Module.collFrom (m : Module) (c : Coll) (port entry src : Nat) : Option Nat :=
  if c.kind = ckALL_TO_ALL then
    (if port < 16 && c.a2aEntry port == entry then (List.range c.members).find? (fun r => m.collMap c r == src) else none)
  else if !c.isRoot && c.parentPort == port && c.downInEntry == entry && c.parent == src then some 255
  else (c.children.zipIdx.find? (fun x => x.1.port == port && x.1.upEntry == entry && x.1.mod_ == src)).map (·.2)

/-- Does a definition name the entry of the port, for receiving or for sending? -/
def Coll.usesEntry (c : Coll) (port entry : Nat) : Bool :=
  if c.kind = ckALL_TO_ALL then port < 16 && c.a2aEntry port == entry
  else (!c.isRoot && c.parentPort == port && (c.downInEntry == entry || c.upEntry == entry)) ||
    c.children.any (fun x => x.port == port && (x.upEntry == entry || x.downEntry == entry))

/-- A DATA flit for this module arrives: one that no collective of the entry takes is stray (R259). -/
def Module.dataHere (m : Module) (port : Nat) (f : Flit) : Module :=
  if m.coll.any (fun e => e.2.usesEntry port f.entry) then { m with rxData := m.rxData ++ [(port, f)] }
  else (m.count (LINK_COLL_STRAY_count port) 1).raise (LINK_COLL_EVENT_stray port)

/-- The first flits of a list up to one with `last` set, and the rest; none while no such flit is there. -/
def upToLast : List Flit → Option (List Flit × List Flit)
  | [] => none
  | f :: rest => if f.last then some ([f], rest) else (upToLast rest).map (fun r => (f :: r.1, r.2))

/-- The flits of a chunk: those after the last flit with `first` set before its end; flits of a chunk cut off go with it. -/
def fromFirst (l : List Flit) : List Flit := l.foldl (fun acc f => if f.first then [f] else if acc.isEmpty then [] else acc ++ [f]) []

/-- Take the oldest whole chunk of a source off the delivered flits of an entry of a port: its flits. -/
def Module.takeChunk (m : Module) (port entry src : Nat) : Option (Module × List Flit) :=
  let mine (e : Nat × Flit) : Bool := e.1 == port && e.2.entry == entry && e.2.src == src
  (upToLast ((m.rxData.filter mine).map (·.2))).map (fun r =>
    ({ m with rxData := m.rxData.filter (fun e => !mine e) ++ r.2.map (fun f => (port, f)) }, r.1))

/-- A chunk as it arrives: data, and the fields of its trailer (R248). -/
structure WireChunk where
  data : List Byte
  inst : Nat
  chunk : Nat
  addends : Nat
  anchor : Int
  flags : Nat
  kind : Nat
  deriving DecidableEq, Repr

def WireChunk.ofFlits (l : List Flit) : WireChunk :=
  let bs := (fromFirst l).flatMap (·.body)
  let n := bs.length - 16
  let t := bs.drop n
  { data := bs.take n, inst := fieldOf t 0 4, chunk := fieldOf t 4 4, addends := fieldOf t 8 4, anchor := signed 16 (fieldOf t 12 2),
    flags := fieldOf t 14 1, kind := fieldOf t 15 1 }

/-- Bytes of data that a chunk from a sender carries (R248): from the parent (255), from a child, or from a rank. -/
def Coll.wireBytes (c : Coll) (frm : Nat) (w : WireChunk) : Nat :=
  if c.kind = ckALL_TO_ALL then 64 * w.addends else if frm = 255 then c.b else c.upBytes

/-- Does the chunk match what the sender sends under the definition (R252)? -/
def Coll.carries (c : Coll) (frm : Nat) (w : WireChunk) : Bool :=
  let mine := c.myChunks ++ c.children.flatMap (CollChild.chunks c)
  w.kind == c.kind && w.chunk < c.nChunks && w.data.length == c.wireBytes frm w &&
  (if c.kind = ckALL_TO_ALL then w.chunk == c.rank && w.addends ≤ c.chunkLines
   else if frm = 255 then
     (if c.kind = ckREDUCE_SCATTER then mine.contains w.chunk else if c.kind = ckALL_GATHER then !mine.contains w.chunk else true)
   else c.reduces || (c.kind == ckALL_GATHER && (match c.children[frm]? with | some x => (CollChild.chunks c x).contains w.chunk | none => false)))

/-- The collective that a chunk on an entry of a port belongs to, if any names the entry: one of its kind with that sender first. -/
def Module.chunkColl (m : Module) (port entry src kind : Nat) : Option (Nat × Coll) :=
  let cands := m.coll.filter (fun e => e.2.usesEntry port entry)
  match cands.find? (fun e => e.2.kind == kind && (m.collFrom e.2 port entry src).isSome) with
  | some e => some e
  | none => cands.head?

/-- Take in a chunk that matches its instance. -/
def Module.chunkIn (m : Module) (k : Nat) (c : Coll) (x : CollInst) (frm : Nat) (w : WireChunk) : Module :=
  let x := { x with anchor := match x.anchor with | some a => some a | none => if c.fmt = fmtAFX64 then some w.anchor else none }
  let out : CollOut := { chunk := if c.kind = ckALL_TO_ALL then frm else w.chunk, addends := w.addends, flags := w.flags, data := w.data }
  if c.kind = ckALL_TO_ALL || frm = 255 then (m.setColl k { c with inst := some x }).collResult k out
  else if c.reduces then
    (m.setColl k { c with inst := some { x with ins := x.ins ++
      [{ chunk := w.chunk, child := frm, addends := w.addends, flags := w.flags, data := w.data }] } }).collTry k w.chunk
  else
    let x := if c.isRoot then x else ({ x with ups := x.ups ++ [out] }).addSend c 255 w.chunk
    (m.setColl k { c with inst := some x }).collResult k out

/-- The last flit of a chunk and its trailer have arrived on an entry of a port. A chunk of an instance that is over counts
for nothing; any other begins the next instance when none is in progress (R246, R253, R259). -/
def effChunkReceived (port entry src : Nat) (m : Module) : Module :=
  match m.takeChunk port entry src with
  | none => m
  | some (m, fl) =>
    let w := WireChunk.ofFlits fl
    match m.chunkColl port entry src w.kind with
    | none => (m.count (LINK_COLL_STRAY_count port) fl.length).raise (LINK_COLL_EVENT_stray port)
    | some (k, c) =>
      if w.inst < (match c.inst with | some x => x.num | none => c.next) || c.ahead.contains w.inst then m
      else
        let c := c.begin_ m.F
        let (m, ok) := (m.setColl k c).collMapRead c (List.range c.members)
        if !ok then m.collAbort k caTRAILER else
        match c.inst, m.collFrom c port entry src with
        | none, _ => m
        | some _, none => m.collAbort k caTRAILER
        | some x, some frm =>
          if w.inst > x.num then m.collAbort k caINSTANCE
          else if !c.carries frm w || x.ins.any (fun i => i.chunk == w.chunk && i.child == frm) then m.collAbort k caTRAILER
          else if c.fmt == fmtAFX64 && (match x.anchor with | some a => a != w.anchor | none => false) then m.collAbort k caANCHOR
          else if c.slotBusy w.chunk then m.collAbort k caWINDOW
          else m.chunkIn k c x frm w

/-! ### Sends (R252, R253) -/

/-- Port and entry of a path. For an ALL_TO_ALL the port is that of path 0 of the destination's route entry. -/
def Module.collPath (m : Module) (c : Coll) (dst : Nat) : Nat × Nat :=
  if c.kind = ckALL_TO_ALL then
    let d := m.collMap c dst
    let port := match recOf m.recs 0x0604 (d / 256) with | some v => bits (fieldOf v (8 + 8 * (d % 256)) 2) 0 5 | none => 0x1F
    (port, if port < 16 then c.a2aEntry port else 0xFFFF)
  else if dst = 255 then (c.parentPort, c.upEntry)
  else match c.children[dst]? with
    | some x => (x.port, x.downEntry)
    | none => (0x1F, 0xFFFF)

/-- The chunk a send carries: up sums from `ups`, everything else from `results`. -/
def CollInst.outOf (x : CollInst) (c : Coll) (dst k : Nat) : Option CollOut :=
  if dst = 255 || c.kind = ckALL_TO_ALL then x.ups.find? (·.chunk == k) else x.results.find? (·.chunk == k)

/-- The 16-byte trailer (R248). -/
def collTrailer (c : Coll) (x : CollInst) (o : CollOut) : List Byte :=
  leBytes 4 x.num ++ leBytes 4 o.chunk ++ leBytes 4 (if c.kind = ckALL_TO_ALL then o.data.length / 64 else o.addends) ++
  leBytes 2 (unsigned 16 (x.anchor.getD 0)) ++ leBytes 1 o.flags ++ leBytes 1 c.kind

/-- The edge: every complete chunk not yet sent may be carried in the frame that begins (R253). The engine reads where the
chunks of an ALL_TO_ALL go (R382). -/
def Module.collFix (m : Module) : Module :=
  let m := each m.coll m (fun m e =>
    match e.2.inst with
    | some x => (match m.collMapRead e.2 ((x.sends.filter (fun s => !s.fixed_)).map (·.dst)) with
      | (m, true) => m
      | (m, false) => m.collAbort e.1 caTRAILER)
    | none => m)
  { m with coll := m.coll.map (fun e => (e.1, { e.2 with inst := e.2.inst.map (fun x =>
      { x with sends := x.sends.map (fun s => { s with fixed_ := true }) }) })) }

/-- A send has gone in full. -/
def Module.collSent (m : Module) (k dst chunk : Nat) : Module :=
  match m.coll? k with
  | some c => m.setColl k { c with inst := c.inst.map (fun x =>
      let x := { x with sends := x.sends.filter (fun s => !(s.dst == dst && s.chunk == chunk)), sent := x.sent ++ [(dst, chunk)] }
      if dst = 255 || c.kind = ckALL_TO_ALL then { x with ups := x.ups.filter (·.chunk != chunk) } else x) }
  | none => m

/-- The module a send goes to. -/
def Module.collDst (m : Module) (c : Coll) (dst : Nat) : Nat :=
  if c.kind = ckALL_TO_ALL then m.collMap c dst
  else if dst = 255 then c.parent
  else match c.children[dst]? with | some x => x.mod_ | none => 0

/-- The DATA flits of a message with its trailer, 208 bytes each (R210). -/
def dataFlits (src dst entry : Nat) (bs : List Byte) : List Flit :=
  let ps := chunks 208 bs
  ps.zipIdx.map (fun p =>
    { ty := 1, pos := 0, first := p.2 == 0, last := p.2 + 1 == ps.length, sched := true, seqNo := 0, ack := 0, ackValid := false,
      nak := false, hops := 15, slot := 0, dst := dst, src := src, entry := entry, body := p.1 })

/-- Order of the sends of a path: chunk order, and for an ALL_TO_ALL rank order from rank + 1 (R252, R253). -/
def Coll.sendRank (c : Coll) (k : Nat) : Nat :=
  if c.kind = ckALL_TO_ALL then (k + c.members - c.rank - 1) % max 1 c.members else k

/-- Carry chunks of an entry of a port in a slot of `room` flits, in chunk order: the flits to send. -/
def Module.collSlot (m : Module) (port entry room : Nat) : Module × List Flit :=
  let todo := m.coll.flatMap (fun e =>
    match e.2.inst with
    | some x => (sortBy (fun s => e.2.sendRank s.chunk) (x.sends.filter (fun s => s.fixed_ && m.collPath e.2 s.dst == (port, entry)))).map (fun s => (e.1, s))
    | none => [])
  -- a chunk begun goes on before any other, so that its flits are consecutive (R248)
  (todo.filter (fun t => t.2.flits > 0) ++ todo.filter (fun t => t.2.flits = 0)).foldl (fun acc t =>
    let (m, fl) := acc
    let left := room - fl.length
    if left = 0 then acc
    else match m.coll? t.1 with
      | none => acc
      | some c =>
        match c.inst with
        | none => acc
        | some x =>
          match x.outOf c t.2.dst t.2.chunk with
          | none => acc
          | some o =>
            let rest := (dataFlits m.selfId (m.collDst c t.2.dst) entry (o.data ++ collTrailer c x o)).drop t.2.flits
            if rest.length ≤ left then (m.collSent t.1 t.2.dst t.2.chunk, fl ++ rest)
            else
              let x := { x with sends := x.sends.map (fun s => if s == t.2 then { s with flits := s.flits + left } else s) }
              (m.setColl t.1 { c with inst := some x }, fl ++ rest.take left)) (m, [])

/-! ### Completion (R254, R255) -/

/-- Has an instance written and sent everything? -/
def Coll.complete (c : Coll) (x : CollInst) : Bool :=
  c.expects.all (fun k => x.written.contains k) && c.owes.all (fun o => x.sent.contains o)

/-- The writes of the anchor sites of an AMAX, in order (R255). -/
def Module.collSites (m : Module) (c : Coll) (num : Nat) (e : Int) : Module :=
  if c.kind != ckAMAX then m
  else each c.sites m (fun m s => m.collQueue c (some num) s.1 (leBytes 2 (unsigned 16 (clipAnchor (e + s.2)))) none false)

/-- Does the status record that completes an instance wait to be written? -/
def Module.collEnding (m : Module) (k num : Nat) : Bool := m.mem.puts.any (fun w => w.coll == k && w.inst == some num && w.chunk.isNone && w.ends)

/-- An instance completes: anchor sites, then the status record, then the signal, one after the other as their tokens come (R254). -/
def effInstanceComplete (port id : Nat) (m : Module) : Module :=
  let k := collKey port id
  match m.coll? k with
  | none => m
  | some c =>
    match c.inst with
    | none => m
    | some x =>
      if !c.complete x || m.collEnding k x.num then m
      else
        let e := match x.results.head? with | some r => amaxAnchor c.bias (fieldOf r.data 0 4) | none => 0
        ((m.collSites c x.num e).collQueue c (some x.num) c.statusBase
          (collStatus x.num 0 x.flags 0 m.F (if c.kind = ckAMAX then e else x.anchor.getD 0)) none true).collPump

/-- The timeout of an instance passes. -/
def effCollTimeout (port id : Nat) (m : Module) : Module :=
  match m.coll? (collKey port id) with
  | some c =>
    (match c.inst with
     | some x => if subMod 48 m.F x.began ≥ c.timeout then m.collAbort (collKey port id) caTIMEOUT else m
     | none => m)
  | none => m

/-- An ABORT arrives from a module for an instance of a collective. -/
def effCollAbortReceived (src id inst : Nat) (m : Module) : Module :=
  each (m.coll.filter (fun e => e.2.id == id && (m.collPeers e.2).contains src)) m (fun m e =>
    match e.2.inst with
    | some x => if x.num = inst then m.collAbort e.1 caPEER_ABORT
      else if inst > x.num then m.setColl e.1 { e.2 with ahead := insertU e.2.ahead inst } else m
    | none => if inst ≥ e.2.next then
        let ahead := insertU e.2.ahead inst
        m.setColl e.1 { e.2 with ahead := ahead, next := nextInst ahead.length ahead e.2.next }
      else m)

/-- A port that instances use went down (R235, R259). -/
def Module.collPortDown (m : Module) (port : Nat) : Module :=
  each (m.coll.filter (fun e => e.2.inst.isSome &&
    (if e.2.kind = ckALL_TO_ALL then port < 16 && e.2.a2aEntry port != 0xFFFF
     else (!e.2.isRoot && e.2.parentPort == port) || e.2.children.any (·.port == port)))) m
    (fun m e => m.collAbort e.1 caPORT_DOWN)

end Sys2Proof.Machine
end

