-- ==== Sys2Proof/Machine/PowerBase.lean ====
section
/-!
DEFINITION. Currents from activity counts (R404), the stop of issue by duty and clamps (R406, R407), and the fog of idle
cores (R414). The coefficients, the leakage table and the efficiency table are the part's own, so Config gives them no value
(log entry 86).
-/
namespace Sys2Proof.Machine

def Module.setPwr (m : Module) (f : Pwr → Pwr) : Module := { m with pwr := f m.pwr }
def zeroD (_ : Nat) : Nat := 0
def fullDuty (_ : Nat) : Nat := 64

/-- Arithmetic clock of a block in MHz. -/
def Module.blockMHz (m : Module) (c : Nat) : Nat := 600 + 50 * m.fld (PWR_BLOCK_point (c / 16))

/-! ### Issue (R406, R407) -/

/-- Does a hard clamp on a rail that feeds a compute die hold its issue stopped? -/
def Module.dieClamped (m : Module) (d : Nat) : Bool := m.pwr.clamped.any (fun r => r < 24 && r % 8 == d)

/-- Is issue on a core stopped by the power limits? A clamp stops it; under duty `d` below 64 a sequencer issues only in `d`
of every 64 cycles, which leaves it that share of the cycles of the microsecond under way. -/
def Module.gated (m : Module) (c : Nat) : Bool :=
  let d := m.fld (PWR_DIE_duty (c / 128))
  m.dieClamped (c / 128) || (d < 64 && m.blockMHz c * d / 64 ≤ SMap.get zeroD m.pwr.issued c)

/-- An op issues: under gating it uses a cycle of the core's share. -/
def Module.noteIssue (m : Module) (c : Nat) : Module :=
  if m.fld (PWR_DIE_duty (c / 128)) < 64 then
    m.setPwr (fun x => { x with issued := SMap.set zeroD x.issued c (SMap.get zeroD x.issued c + 1) })
  else m

/-! ### Currents (R404) -/

/-- The kind of activity that fog is (log entry 86 for the numbering). -/
def actFOG : Nat := 0x50

/-- The die, as PWR_TEMP numbers it, that a rail feeds. -/
def railTempDie (r : Nat) : Nat := if r < 0x18 then r % 8 else if r < 0x24 then 8 + r % 4 else 12 + r % 2

/-- CORE voltage in mV of a point (R400). -/
def pointMv (p : Nat) : Nat := ([600, 630, 660, 690, 720, 750, 790, 830, 870] : List Nat).getD p 870

/-- Voltage of a die whose blocks run at a point; a fixed block holds it at 0.75 V or above (R403). -/
def Module.dieMv (m : Module) (d p : Nat) : Nat := max (pointMv p) (if m.flag (PWR_DIE_fixed d) then 750 else 0)

/-- Voltage of a rail in mV. -/
def Module.railMv (m : Module) (r : Nat) : Nat := if r < 8 then m.dieMv r (m.fld (PWR_DIE_vpoint r)) else Config.railMillivolts r

/-- g × Σ (coefficient × count), in units of 0.1 A; g and the coefficients are in units of 1/16,384. -/
def Module.currentOf (m : Module) (r : Nat) (counts : List (Nat × Nat)) : Nat :=
  m.fld (PWR_RAIL_MEAS_gain r) * (counts.map (fun e => Config.coefficient r e.1 * e.2)).sum / 2 ^ 28

/-- Leakage of a rail at its voltage and the temperature of its die. -/
def Module.leakOf (m : Module) (r : Nat) : Nat := Config.leakage r (m.railMv r) (m.fld (PWR_TEMP_temp (railTempDie r)))

/-! ### Fog (R414) -/

/-- The cores of a die that are idle: in service and without a tile. -/
def Module.idleCores (m : Module) (d : Nat) : Nat :=
  ((List.range 128).filter (fun i =>
    let c := d * 128 + i
    (m.core c).run.isNone && !(m.core c).clearing && !m.ras.moraine.any (fun e => e.unitType == 1 && e.unit == c))).length

/-- The most fog current that the idle cores of a rail's die draw on it. -/
def Module.idleFog (m : Module) (r : Nat) : Nat := m.idleCores (r % 8) * m.currentOf r [(actFOG, 1)]

/-- A core of a die stops fog in the cycle in which a tile starts on it. -/
def Module.fogStop (m : Module) (c : Nat) : Module :=
  [c / 128, 8 + c / 128].foldl (fun m r =>
    let had := SMap.get zeroD m.pwr.fog r
    let f := min had (m.idleFog r)
    m.setPwr (fun x => { x with
      fog := SMap.set zeroD x.fog r f, next := SMap.set zeroD x.next r (SMap.get zeroD x.next r - (had - f)) })) m

end Sys2Proof.Machine
end

