-- ==== Sys2Proof/Machine/TileParse.lean ====
section
/-!
DEFINITION. Tiles as bytes (R78, R80, R83 to R95): reading the header and the ops, what each op reads and writes, the
hazards of R101, the load checks of R82 with the idempotence check of R104, and the costs of R98 to R100.
-/
namespace Sys2Proof.Machine

/-- No line. -/
def lineNone : Nat := 0xFFFF

def plateLines : Nat := 49152

/-! ### TILE_INVALID reasons (R82) -/

def tiBAD_HEADER : Nat := 0x01
def tiBAD_DECLARED : Nat := 0x02
def tiBAD_OPCODE : Nat := 0x03
def tiRESERVED_SET : Nat := 0x04
def tiBAD_END : Nat := 0x05
def tiPLATE_RANGE : Nat := 0x06
def tiACC_RANGE : Nat := 0x07
def tiFORMAT : Nat := 0x08
def tiACC_UNANCHORED : Nat := 0x09
def tiIDEMPOTENCE : Nat := 0x0A
def tiOBJ_SLOT : Nat := 0x0B
def tiSIGNAL_LIMIT : Nat := 0x0C
def tiPEER_TARGET : Nat := 0x0D
def tiFIELD_RANGE : Nat := 0x0E
def tiREMOTE_ADDRESS : Nat := 0x0F

/-- The op index that stands for the header. -/
def opHeader : Nat := 0x3FF

/-! ### Reading the header -/

/-- A tile's header fields as they stand; counts out of range leave lists empty. -/
def parseHeader (b : List Byte) : Header :=
  let counts := fieldOf b 7 1
  let nDep := bits counts 0 2
  let nObj := bits counts 2 3
  let nInp := bits counts 5 2
  let nCand := fieldOf b 8 1
  { nOps := fieldOf b 2 2
    declared := fieldOf b 4 2
    anyCore := bit (fieldOf b 6 1) 0
    fill := bit (fieldOf b 6 1) 1
    streamId := fieldOf b 12 4
    cand := if nCand ≤ 6 then (List.range nCand).map (fun i => fieldOf b (16 + 2 * i) 2) else []
    deps := if nDep ≤ 2 then (List.range nDep).map (fun i => (fieldOf b (32 + 12 * i) 4 % 2 ^ 22, fieldOf b (36 + 12 * i) 8)) else []
    objs := if nObj ≤ 4 then (List.range nObj).map (fun i => fieldOf b (64 + 4 * i) 4) else []
    inps := (List.range nInp).map (fun i =>
      let o := 80 + 16 * i
      let src := fieldOf b (o + 14) 1
      { tag := fieldOf b o 4, plateLine := fieldOf b (o + 4) 2, lines := fieldOf b (o + 6) 2,
        offset := fieldOf b (o + 8) 6, slot := bits src 0 2, path := bits src 2 3 }) }

/-- Bytes of a tile (R78). -/
def Header.bytes (h : Header) : Nat := 128 + 32 * h.nOps

/-- Do the candidate fields pass, so that R19 can choose a core (R82)? -/
def candOk (b : List Byte) : Bool :=
  let n := fieldOf b 8 1
  n ≤ 6 && (n != 0 || bit (fieldOf b 6 1) 0) && (List.range n).all (fun i => fieldOf b (16 + 2 * i) 2 < 1024)

/-- Are the bytes of a range zero? -/
def zeroAt (b : List Byte) (off len : Nat) : Bool := fieldOf b off len == 0

/-- The failed header checks. DESIGN CHOICE (log entry 73): an input's slot fails with OBJ_SLOT and its lines with PLATE_RANGE. -/
def headerBad (b : List Byte) (len : Nat) : List Nat :=
  let h := parseHeader b
  let counts := fieldOf b 7 1
  let nDep := bits counts 0 2
  let nObj := bits counts 2 3
  let bad (c : Bool) (r : Nat) : List Nat := if c then [r] else []
  bad (fieldOf b 0 1 != 0xF0 || fieldOf b 1 1 != 1 || h.nOps == 0 || h.nOps > 1020 || nDep > 2 || nObj > 4 ||
       !candOk b || len < h.bytes) tiBAD_HEADER ++
  h.inps.flatMap (fun d => bad (d.tag == 0 || d.lines == 0 || d.lines > plateLines || d.offset % 64 != 0 || d.path ≥ 3) tiBAD_HEADER) ++
  bad (h.declared == 0 || h.declared > 4096) tiBAD_DECLARED ++
  bad (fieldOf b 6 1 ≥ 2 || counts ≥ 128 || !zeroAt b 9 3 || !zeroAt b 28 4 || !zeroAt b 56 8 ||
       (List.range (min nDep 2)).any (fun i => fieldOf b (32 + 12 * i) 4 ≥ 2 ^ 22) ||
       (List.range (bits counts 5 2)).any (fun i => fieldOf b (94 + 16 * i) 1 ≥ 32 || !zeroAt b (95 + 16 * i) 1)) tiRESERVED_SET ++
  h.inps.flatMap (fun d => bad (d.plateLine + d.lines > plateLines) tiPLATE_RANGE) ++
  h.inps.flatMap (fun d => bad (d.slot ≥ nObj) tiOBJ_SLOT)

/-! ### Reading ops -/

/-- A signed 16-bit field. -/
def s16 (b : List Byte) (off : Nat) : Int := signed 16 (fieldOf b off 2)

def parseAnchor (b : List Byte) (whole : Bool) : AnchorOp :=
  { mode := fieldOf b 2 1, fmtA := bits (fieldOf b 3 1) 0 4, fmtB := bits (fieldOf b 3 1) 4 4,
    smode := bits (fieldOf b 4 1) 0 2, anchor := s16 b 6, aLine := fieldOf b 8 2, bLine := fieldOf b 10 2,
    saLine := fieldOf b 12 2, sbLine := fieldOf b 14 2, kb := fieldOf b 16 2,
    row0 := if whole then 0 else fieldOf b 18 1, m := if whole then 128 else fieldOf b 19 1 + 1,
    col0 := if whole then 0 else fieldOf b 20 1, n := if whole then 128 else fieldOf b 21 1 + 1 }

def parseXfer (b : List Byte) : XferOp :=
  let e := fieldOf b 2 1
  { engine := bits e 0 1, both := bit e 1, path := bits e 2 3, slot := bits (fieldOf b 3 1) 0 2,
    plateLine := fieldOf b 4 2, lines := fieldOf b 6 2, offset := fieldOf b 8 6, tag := fieldOf b 16 4,
    rows := max 1 (fieldOf b 20 4), stride := fieldOf b 24 8 }

/-- The op of 32 bytes, by its opcode (R83); none for an opcode the table does not list. -/
def parseBody (b : List Byte) : Option OpBody :=
  let u (off len : Nat) : Nat := fieldOf b off len
  match u 0 1 with
  | 0x00 => some (.nop (u 2 2))
  | 0x01 => some .endOp
  | 0x02 => some (.anchor (parseAnchor b true))
  | 0x03 => some (.accClear (parseAnchor b false))
  | 0x04 => some (.mma
      { fmtA := bits (u 2 1) 0 4, fmtB := bits (u 2 1) 4 4, smode := bits (u 3 1) 0 2, aLine := u 4 2, bLine := u 6 2,
        saLine := u 8 2, sbLine := u 10 2, kb := u 12 2, row0 := u 14 1, m := u 15 1 + 1, col0 := u 16 1, n := u 17 1 + 1 })
  | 0x05 => some (.accRead
      { fmtOut := bits (u 2 1) 0 4, ieee := bit (u 2 1) 4, sr := bit (u 2 1) 5, raw := bit (u 2 1) 6, mx := bit (u 3 1) 0,
        mxDim := bits (u 3 1) 1 1, afxSame := bit (u 3 1) 2, outLine := u 4 2, auxLine := u 6 2, alphaLine := u 8 2,
        betaLine := u 10 2, row0 := u 12 1, m := u 13 1 + 1, col0 := u 14 1, n := u 15 1 + 1, anchorOut := s16 b 16 })
  | 0x06 => some (.vop
      { fn := u 2 1, fmtIn := bits (u 3 1) 0 4, fmtOut := bits (u 3 1) 4 4, aLine := u 4 2, bLine := u 6 2, cLine := u 8 2,
        dLine := u 10 2, n := u 12 4, immB := u 16 4, immC := u 20 4, ieee := bit (u 24 1) 0, sr := bit (u 24 1) 1 })
  | 0x07 => some (.vred
      { fn := u 2 1, fmtIn := bits (u 3 1) 0 4, srcLine := u 4 2, dstLine := u 6 2, n := u 8 4, groups := u 12 2 })
  | 0x08 => some (.convert
      { fmtIn := bits (u 2 1) 0 4, fmtOut := bits (u 2 1) 4 4, ieee := bit (u 3 1) 0, sr := bit (u 3 1) 1,
        mxIn := bit (u 3 1) 2, mxOut := bit (u 3 1) 3, srcLine := u 4 2, dstLine := u 6 2, scaleIn := u 8 2,
        scaleOut := u 10 2, n := u 12 4, rowLen := u 16 2, anchor := s16 b 18 })
  | 0x09 => some (.copy (u 4 2) (u 6 2) (u 8 2))
  | 0x0A => some (.fill (u 4 2) (u 6 2) (u 8 4))
  | 0x0B => some (.xferIn (parseXfer b))
  | 0x0C => some (.xferOut (parseXfer b))
  | 0x0D => some (.peerPush
      { engine := bits (u 2 1) 0 1, dstCore := bits (u 4 2) 0 10, srcLine := u 6 2, dstLine := u 8 2, lines := u 10 2,
        tag := u 12 4 })
  | 0x0E => some (.gather
      { engine := bits (u 2 1) 0 1, both := bit (u 2 1) 1, seqId := bits (u 4 2) 0 12, dstLine := u 6 2,
        firstPage := u 8 2, pages := u 10 2, pageOff := u 12 4, bpp := u 16 4, tag := u 20 4 })
  | 0x0F => some (.reducePost
      { engine := bits (u 2 1) 0 1, port := bits (u 3 1) 0 4, fmt := u 4 1, srcLine := u 6 2, lines := u 8 2,
        anchor := s16 b 10, collId := u 12 4, chunk := u 16 4 })
  | 0x10 => some (.wait (bits (u 4 4) 0 22) (u 8 8) (u 16 2))
  | 0x11 => some (.signal (bits (u 4 4) 0 22) (u 8 8))
  | 0x12 => some (.pred
      { pdst := bits (u 2 1) 0 2, kind := u 3 1, sel := u 4 1, word := u 5 1, line := u 6 2, imm := u 8 4,
        pa := bits (u 12 1) 0 2, pb := bits (u 12 1) 2 2, lop := bits (u 12 1) 4 2 })
  | 0x13 => some (.srset (u 8 8) (u 16 8) (u 24 8))
  | 0x14 => some .fence
  | _ => none

/-- An op with its predicate control. -/
def parseOp (b : List Byte) : Option TileOp :=
  let p := fieldOf b 1 1
  (parseBody b).map (fun o => { psel := bits p 0 2, pen := bit p 2, pinv := bit p 3, body := o })

/-- The bytes an op's layout lists: ranges of whole bytes, and bytes with a mask. DESIGN CHOICE (log entry 93): the tag of an XFER_OUT,
which the layout gives as 0, counts as a reserved field. -/
def opLayout : Nat → List (Nat × Nat) × List (Nat × Nat)
  | 0x00 => ([(2, 2)], [])
  | 0x02 => ([(2, 2), (6, 16)], [(4, 3)])
  | 0x03 => ([(2, 2), (6, 16)], [(4, 3)])
  | 0x04 => ([(2, 1), (4, 14)], [(3, 3)])
  | 0x05 => ([(4, 14)], [(2, 0x7F), (3, 7)])
  | 0x06 => ([(2, 22)], [(24, 3)])
  | 0x07 => ([(2, 1), (4, 10)], [(3, 0xF)])
  | 0x08 => ([(2, 1), (4, 16)], [(3, 0xF)])
  | 0x09 => ([(4, 6)], [])
  | 0x0A => ([(4, 8)], [])
  | 0x0B => ([(4, 10), (16, 16)], [(2, 0x1F), (3, 3)])
  | 0x0C => ([(4, 10), (20, 12)], [(2, 0x1F), (3, 3)])
  | 0x0D => ([(4, 1), (6, 10)], [(2, 1), (5, 3)])
  | 0x0E => ([(4, 1), (6, 18)], [(2, 3), (5, 0xF)])
  | 0x0F => ([(4, 1), (6, 6), (12, 8)], [(2, 1), (3, 0xF)])
  | 0x10 => ([(4, 2), (8, 10)], [(6, 0x3F)])
  | 0x11 => ([(4, 2), (8, 8)], [(6, 0x3F)])
  | 0x12 => ([(3, 9)], [(2, 3), (12, 0x3F)])
  | 0x13 => ([(8, 24)], [])
  | _ => ([], [])

/-- Is every reserved bit of an op zero (R9, R83)? -/
def opReservedOk (b : List Byte) : Bool :=
  let (full, part) := opLayout (fieldOf b 0 1)
  fieldOf b 1 1 < 16 &&
  (List.range 32).all (fun i =>
    i < 2 || full.any (fun r => r.1 ≤ i && i < r.1 + r.2) ||
    (match part.find? (·.1 == i) with
     | some (_, m) => fieldOf b i 1 &&& m == fieldOf b i 1
     | none => fieldOf b i 1 == 0))

/-! ### What an op reads and writes -/

/-- One access of an op: plate lines, an accumulator region (`excl` for all but an MMA), rows of bytes of an object
slot, a predicate, or the tile status. -/
inductive Access where
  | plate (lo n : Nat) (write : Bool)
  | acc (r0 m c0 n : Nat) (excl : Bool)
  | mem (slot off rows len stride : Nat) (write : Bool)
  | pred (i : Nat) (write : Bool)
  | status (write : Bool)
  deriving DecidableEq, Repr

/-- A plate region of some bytes (R74). -/
def plateAcc (line bytes : Nat) (write : Bool) : Access := .plate line (max 1 (ceilDiv bytes 64)) write

/-- Is a VOP function unary (R88)? -/
def vopUnary (fn : Nat) : Bool := fn == 0 || fn == 7 || fn == 8 || (0x0B ≤ fn && fn ≤ 0x14)

def matAccesses (fa fb smode a b sa sb kb : Nat) (both : Bool) : List Access :=
  (if both || fa == fmtFP16 || fa == fmtBF16 then [plateAcc a (32 * kb * fmtBytes fa 128) false] else []) ++
  (if both || fb == fmtFP16 || fb == fmtBF16 then [plateAcc b (32 * kb * fmtBytes fb 128) false] else []) ++
  (if smode = 1 then [plateAcc sa (128 * kb) false, plateAcc sb (128 * kb) false] else [])

/-- Bytes of one output row of an ACC_READ (R87). -/
def accReadRow (o : AccReadOp) : Nat := if o.raw then 16 * o.n else fmtBytes o.fmtOut o.n

/-- Bytes an ACC_READ writes at aux_line. -/
def accReadAux (o : AccReadOp) : Nat := if o.raw then o.m * o.n else if o.mx then o.m * o.n / 32 else 0

/-- The accesses of an op. -/
def accesses (op : TileOp) : List Access :=
  (if op.pen then [.pred op.psel false] else []) ++
  match op.body with
  | .nop _ => []
  | .endOp => []
  | .fence => []
  | .wait _ _ _ => []
  | .signal _ _ => []
  | .srset _ _ _ => []
  | .anchor o =>
    .acc 0 128 0 128 true :: (if o.mode = 1 then matAccesses o.fmtA o.fmtB o.smode o.aLine o.bLine o.saLine o.sbLine o.kb false else [])
  | .accClear o =>
    .acc o.row0 o.m o.col0 o.n true ::
      (if o.mode = 1 then matAccesses o.fmtA o.fmtB o.smode o.aLine o.bLine o.saLine o.sbLine o.kb false else [])
  | .mma o =>
    [.status true, .acc o.row0 o.m o.col0 o.n false] ++
      matAccesses o.fmtA o.fmtB o.smode o.aLine o.bLine o.saLine o.sbLine o.kb true
  | .accRead o =>
    [.status true, .acc o.row0 o.m o.col0 o.n true, .plate o.outLine (o.m * ceilDiv (accReadRow o) 64) true] ++
    (if accReadAux o = 0 then [] else [plateAcc o.auxLine (accReadAux o) true]) ++
    (if o.alphaLine = lineNone then [] else [plateAcc o.alphaLine 512 false]) ++
    (if o.betaLine = lineNone then [] else [plateAcc o.betaLine 512 false])
  | .vop o =>
    [.status true, plateAcc o.aLine (fmtBytes o.fmtIn o.n) false] ++
    (if vopUnary o.fn || o.bLine == lineNone then [] else [plateAcc o.bLine (fmtBytes o.fmtIn o.n) false]) ++
    (if o.fn == 4 && o.cLine != lineNone then [plateAcc o.cLine (fmtBytes o.fmtIn o.n) false] else []) ++
    [plateAcc o.dLine (fmtBytes o.fmtOut o.n) true]
  | .vred o =>
    [.status true, plateAcc o.srcLine (fmtBytes o.fmtIn (o.n * o.groups)) false, plateAcc o.dstLine (4 * o.groups) true]
  | .convert o =>
    [.status true, plateAcc o.srcLine (fmtBytes o.fmtIn o.n) false] ++
    (if o.mxIn then [plateAcc o.scaleIn (o.n / 32) false] else []) ++
    [plateAcc o.dstLine (fmtBytes o.fmtOut o.n) true] ++
    (if o.mxOut then [plateAcc o.scaleOut (o.n / 32) true] else [])
  | .copy s d n => [.plate s n false, .plate d n true]
  | .fill d n _ => [.plate d n true]
  | .xferIn o => [.plate o.plateLine (o.rows * o.lines) true, .mem o.slot o.offset o.rows (64 * o.lines) o.stride false]
  | .xferOut o => [.plate o.plateLine (o.rows * o.lines) false, .mem o.slot o.offset o.rows (64 * o.lines) o.stride true]
  | .peerPush o => [.plate o.srcLine o.lines false]
  | .gather o => [plateAcc o.dstLine (o.pages * o.bpp) true]
  | .reducePost o => [.plate o.srcLine o.lines false]
  | .pred o =>
    (match o.kind with
     | 0 => [.status false]
     | 1 => [.plate o.line 1 false]
     | 2 => [.plate o.line 1 false]
     | _ => .pred o.pa false :: (if o.lop = 3 then [] else [.pred o.pb false])) ++ [.pred o.pdst true]

/-- Does the half-open byte range meet a row set? -/
def rowsHit (off rows len stride lo hi : Nat) : Bool :=
  if stride = 0 then decide (off < hi) && decide (lo < off + len)
  else
    let r := if lo < off + len then 0 else (lo - off - len) / stride + 1
    decide (r < rows) && decide (off + r * stride < hi)

/-- Do two accesses touch a common place? -/
def Access.overlaps : Access → Access → Bool
  | .plate a n _, .plate b k _ => decide (a < b + k) && decide (b < a + n)
  | .acc r m c n _, .acc r' m' c' n' _ =>
    decide (r < r' + m') && decide (r' < r + m) && decide (c < c' + n') && decide (c' < c + n)
  | .mem s o r l st _, .mem s' o' r' l' st' _ =>
    s == s' && (List.range r).any (fun i => rowsHit o' r' l' st' (o + i * st) (o + i * st + l))
  | .pred i _, .pred j _ => i == j
  | .status _, .status _ => true
  | _, _ => false

/-- Does an access write, or count as exclusive (R101 rule 2)? -/
def Access.writes : Access → Bool
  | .plate _ _ w => w
  | .acc _ _ _ _ e => e
  | .mem _ _ _ _ _ w => w
  | .pred _ w => w
  | .status w => w

/-- Must the later access wait for the earlier one (R101)? -/
def Access.blocks (x y : Access) : Bool :=
  x.overlaps y &&
    (match x with
     | .pred _ _ => x.writes && !y.writes
     | .status _ => x.writes && !y.writes
     | _ => x.writes || y.writes)

/-- Must op y wait for the earlier op x (R101)? -/
def hazard (x y : TileOp) : Bool := (accesses x).any (fun a => (accesses y).any (fun b => a.blocks b))

/-! ### Checks of one op (R82) -/

def floatFmt (f : Nat) : Bool := f == fmtFP32 || f == fmtBF16 || f == fmtFP16
def mxFmt (f : Nat) : Bool := f ≤ 5

/-- A pairing of R50 under a scale mode. -/
def pairingOk (fa fb smode : Nat) : Bool :=
  smode ≤ 2 && ((fa ≤ 4 && fb ≤ 4) || (fa == fb && (fa == fmtINT8 || (smode != 1 && (fa == fmtFP16 || fa == fmtBF16)))))

def anchorInRange (a : Int) : Bool := decide (-512 ≤ a) && decide (a ≤ 511)

/-- The failed checks of one op that need nothing but the op and the header's n_obj. DESIGN CHOICE (log entry 73): an EXPLICIT
anchor outside its range fails with FIELD_RANGE, a line field that must be 0xFFFF with FORMAT. -/
def opBad (op : TileOp) (b : List Byte) (nObj : Nat) : List Nat :=
  let bad (c : Bool) (r : Nat) : List Nat := if c then [r] else []
  bad (!opReservedOk b) tiRESERVED_SET ++
  bad ((accesses op).any (fun a => match a with | .plate lo n _ => decide (lo + n > plateLines) | _ => false)) tiPLATE_RANGE ++
  match op.body with
  | .nop c => bad (c > 4095) tiFIELD_RANGE
  | .endOp => bad op.pen tiFORMAT
  | .fence => bad op.pen tiFORMAT
  | .wait _ _ c => bad op.pen tiFORMAT ++ bad (c > 4095) tiFIELD_RANGE
  | .signal _ _ => []
  | .srset _ _ _ => []
  | .anchor o =>
    bad (o.mode > 1) tiFORMAT ++ bad (o.mode == 0 && !anchorInRange o.anchor) tiFIELD_RANGE ++
    bad (o.mode == 1 && !pairingOk o.fmtA o.fmtB o.smode) tiFORMAT ++
    bad (o.mode == 1 && (o.kb == 0 || o.kb > 256)) tiFIELD_RANGE
  | .accClear o =>
    bad (o.row0 + o.m > 128 || o.col0 + o.n > 128) tiACC_RANGE ++
    bad (o.mode > 2 || (o.mode != 2 && (o.row0, o.m, o.col0, o.n) != (0, 128, 0, 128))) tiFORMAT ++
    bad (o.mode == 0 && !anchorInRange o.anchor) tiFIELD_RANGE ++
    bad (o.mode == 1 && !pairingOk o.fmtA o.fmtB o.smode) tiFORMAT ++
    bad (o.mode == 1 && (o.kb == 0 || o.kb > 256)) tiFIELD_RANGE
  | .mma o =>
    bad (!pairingOk o.fmtA o.fmtB o.smode) tiFORMAT ++
    bad (o.smode != 1 && !(o.saLine == lineNone && o.sbLine == lineNone)) tiFORMAT ++
    bad (o.kb == 0 || o.kb > 256) tiFIELD_RANGE ++ bad (o.row0 + o.m > 128 || o.col0 + o.n > 128) tiACC_RANGE
  | .accRead o =>
    bad (o.fmtOut > 9 || (o.sr && (o.fmtOut == fmtAFX64 || o.raw)) || (o.mx && (o.raw || !mxFmt o.fmtOut)) ||
         (!o.mx && !o.raw && o.auxLine != lineNone)) tiFORMAT ++
    bad (o.row0 + o.m > 128 || o.col0 + o.n > 128) tiACC_RANGE ++
    bad (o.mx && (if o.mxDim = 1 then o.m else o.n) % 32 != 0) tiFIELD_RANGE
  | .vop o =>
    bad (o.fn > 0x15 || !floatFmt o.fmtIn || !floatFmt o.fmtOut ||
         (vopUnary o.fn && !(o.bLine == lineNone && o.cLine == lineNone))) tiFORMAT ++
    bad (o.n == 0 || o.n > 786432) tiFIELD_RANGE
  | .vred o =>
    bad (o.fn > 2 || !floatFmt o.fmtIn) tiFORMAT ++
    bad (o.n == 0 || o.n > 786432 || o.groups == 0 || o.groups > 4096) tiFIELD_RANGE
  | .convert o =>
    bad (o.fmtIn > 9 || o.fmtOut > 9 || (o.sr && o.fmtOut == fmtAFX64) || (o.mxIn && !mxFmt o.fmtIn) ||
         (o.mxOut && !mxFmt o.fmtOut) || (!o.mxIn && o.scaleIn != lineNone) || (!o.mxOut && o.scaleOut != lineNone)) tiFORMAT ++
    bad (o.n == 0 || o.n > 6291456 || ((o.mxIn || o.mxOut) && o.n % 32 != 0) || o.rowLen == 0) tiFIELD_RANGE
  | .copy s d n =>
    bad (n == 0 || n > plateLines) tiFIELD_RANGE ++ bad (decide (s < d + n) && decide (d < s + n)) tiPLATE_RANGE
  | .fill _ n _ => bad (n == 0 || n > plateLines) tiFIELD_RANGE
  | .xferIn o => xferBad o nObj
  | .xferOut o => xferBad o nObj
  | .peerPush o =>
    bad (o.lines == 0 || o.lines > plateLines) tiFIELD_RANGE ++ bad (o.dstLine + o.lines > plateLines) tiPLATE_RANGE
  | .gather o =>
    bad (o.pages == 0 || o.pages > 48 || o.bpp < 64 || o.bpp > 65536 || o.pageOff + o.bpp > 65536 ||
         o.pageOff % 64 != 0 || o.bpp % 64 != 0) tiFIELD_RANGE
  | .reducePost o =>
    bad (!(o.fmt == fmtFP32 || o.fmt == fmtBF16 || o.fmt == fmtAFX64)) tiFORMAT ++
    bad (o.lines == 0 || o.lines > plateLines) tiFIELD_RANGE
  | .pred o =>
    bad (o.kind > 3 || ((o.kind == 1 || o.kind == 2) && o.sel > 5)) tiFORMAT ++
    bad ((o.kind == 1 || o.kind == 2) && o.word > 15) tiFIELD_RANGE
where
  xferBad (o : XferOp) (nObj : Nat) : List Nat :=
    (if o.path ≥ 3 then [tiFORMAT] else []) ++ (if o.slot ≥ nObj then [tiOBJ_SLOT] else []) ++
    (if o.lines == 0 || o.lines > plateLines || o.rows * o.lines > plateLines || o.offset % 64 != 0 || o.stride % 64 != 0
     then [tiFIELD_RANGE] else [])

/-! ### Checks over the ops -/

/-- Half-open intervals. -/
abbrev Ivs := List (Nat × Nat)

/-- One interval without another. -/
def ivMinus (a b : Nat × Nat) : Ivs :=
  ([(a.1, min a.2 b.1), (max a.1 b.2, a.2)]).filter (fun i => i.1 < i.2)

def ivsMinus (xs : Ivs) (bs : Ivs) : Ivs := bs.foldl (fun acc b => acc.flatMap (fun x => ivMinus x b)) xs

def ivsMeet (xs ys : Ivs) : Bool := xs.any (fun x => ys.any (fun y => x.1 < y.2 && y.1 < x.2))

/-- What a tile has written, and what it has read before writing it (R103); space 4 is the plate, 0 to 3 the slots. -/
structure Marks where
  written : List (Nat × Ivs)
  inputs : List (Nat × Ivs)
  deriving DecidableEq, Repr

def ivsOf (l : List (Nat × Ivs)) (sp : Nat) : Ivs := (l.filter (·.1 == sp)).flatMap (·.2)

/-- The intervals of an access and their space. -/
def Access.spans : Access → Option (Nat × Ivs)
  | .plate lo n _ => some (4, [(lo, lo + n)])
  | .mem s o r l st _ =>
    if r = 1 || st ≤ l then some (s, [(o, o + (r - 1) * st + l)])
    else some (s, (List.range r).map (fun i => (o + i * st, o + i * st + l)))
  | _ => none

/-- Note the accesses of one op, reads before writes; the Bool says that R104 fails. DESIGN CHOICE (log entry 93): a predicated write
counts as a write by its static range, as every access of the check does. -/
def Marks.step (m : Marks) (as : List Access) : Marks × Bool :=
  let m := as.foldl (fun (m : Marks) a =>
    if a.writes then m else match a.spans with
      | some (sp, iv) => { m with inputs := (sp, ivsMinus iv (ivsOf m.written sp)) :: m.inputs }
      | none => m) m
  as.foldl (fun (acc : Marks × Bool) a =>
    if !a.writes then acc else match a.spans with
      | some (sp, iv) => ({ acc.1 with written := (sp, iv) :: acc.1.written }, acc.2 || ivsMeet iv (ivsOf acc.1.inputs sp))
      | none => acc) (m, false)

/-- Running state of the checks of a tile. -/
structure Chk where
  marks : Marks
  anchored : Bool
  mode : Option Bool     -- whether the MMAs under the anchor used ROW mode
  signals : Nat
  fail : Option (Nat × Nat)
  deriving DecidableEq, Repr

def minList : List Nat → Option Nat
  | [] => none
  | x :: xs => match minList xs with | none => some x | some y => some (min x y)

/-- Check one op in its place. -/
def Chk.step (nOps nObj core : Nat) (cores : List Nat) (c : Chk) (k : Nat) (b : List Byte) : Chk :=
  if c.fail.isSome then c
  else match parseOp b with
  | none => { c with fail := some (tiBAD_OPCODE, k) }
  | some op =>
    let isEnd := op.body == .endOp
    let whole (o : AnchorOp) : Bool := o.mode != 2 && (o.row0, o.m, o.col0, o.n) == (0, 128, 0, 128)
    let unanch := if c.anchored then [] else [tiACC_UNANCHORED]
    let signals := match op.body with | .signal _ _ => c.signals + 1 | _ => c.signals
    let (anchored, mode, accBad) : Bool × Option Bool × List Nat :=
      match op.body with
      | .anchor _ => (true, none, [])
      | .accClear o => if whole o then (true, none, []) else (c.anchored, c.mode, unanch)
      | .mma o =>
        let row := o.smode == 2
        (c.anchored, some row, unanch ++ (if c.mode == some (!row) then [tiACC_UNANCHORED] else []))
      | .accRead o =>
        let row := c.mode == some true
        (c.anchored, c.mode, unanch ++
          (if (o.alphaLine != lineNone) != row || (o.betaLine != lineNone) != row then [tiFORMAT] else []))
      | _ => (c.anchored, c.mode, [])
    let (marks, idem) := c.marks.step (accesses op)
    let peer := match op.body with | .peerPush o => o.dstCore == core || !cores.contains o.dstCore | _ => false
    let bads := opBad op b nObj ++ accBad ++ (if isEnd != (k + 1 == nOps) then [tiBAD_END] else []) ++
      (if idem then [tiIDEMPOTENCE] else []) ++ (if signals > 8 then [tiSIGNAL_LIMIT] else []) ++
      (if peer then [tiPEER_TARGET] else [])
    { marks := marks, anchored := anchored, mode := mode, signals := signals, fail := (minList bads).map (fun r => (r, k)) }

/-- Ops of a tile as 32-byte strings. -/
def opBytes (raw : List Byte) (n : Nat) : List (List Byte) := (List.range n).map (fun k => (raw.drop (128 + 32 * k)).take 32)

/-- The load checks of a tile on a core of a device with the given cores (R82): the first failure, or the ops. -/
def loadCheck (raw : List Byte) (core : Nat) (cores : List Nat) : (Nat × Nat) ⊕ List TileOp :=
  match minList (headerBad raw raw.length) with
  | some r => .inl (r, opHeader)
  | none =>
    let h := parseHeader raw
    let ops := opBytes raw h.nOps
    let c := (ops.zipIdx).foldl (fun c x => Chk.step h.nOps h.objs.length core cores c x.2 x.1)
      { marks := { written := [], inputs := [] }, anchored := false, mode := none, signals := 0, fail := none }
    match c.fail with
    | some f => .inl f
    | none => .inr (ops.filterMap parseOp)

/-- Plate lines that a tile writes before reading: its own scratch (R103, R381). -/
def scratchOf (ops : List TileOp) : Ivs :=
  let m := ops.foldl (fun (m : Marks) o => (m.step (accesses o)).1) { written := [], inputs := [] }
  ivsMinus (ivsOf m.written 4) (ivsOf m.inputs 4)

/-! ### Costs (R98 to R100) -/

/-- Units of the cost table. -/
inductive CostUnit where
  | sq | mx | vx | te0 | te1 | both | xb
  deriving DecidableEq, Repr

/-- The grants of a tile's class: HBM, DDR5, host. -/
structure Rates where
  hbm : Nat
  ddr : Nat
  host : Nat
  deriving DecidableEq, Repr

def Rates.path (r : Rates) : Nat → Nat
  | 0 => r.hbm
  | 1 => r.ddr
  | _ => r.host

/-- λ of a path (R99). -/
def pathLatency : Nat → Nat
  | 0 => 300
  | 1 => 600
  | _ => 2400

/-- c_fn of R88. -/
def vopCfn (fn : Nat) : Nat :=
  if fn == 0x15 then 8 else if fn == 0x13 || fn == 0x14 then 6
  else if 0x0E ≤ fn && fn ≤ 0x12 then 4 else if 0x0B ≤ fn && fn ≤ 0x0D then 2 else 1

def teUnit (both : Bool) (engine : Nat) : CostUnit := if both then .both else if engine = 0 then .te0 else .te1

/-- Auto term of R98. -/
def autoTerm (o : AnchorOp) : Nat :=
  if o.mode ≠ 1 then 0
  else if o.smode = 1 then ceilDiv o.kb 2
  else if o.fmtA == fmtFP16 || o.fmtA == fmtBF16 then 32 * o.kb else 0

/-- Occupancy and latency of a transfer of rows × lines at a rate; none at rate 0. -/
def xferCost (o : XferOp) (rate : Nat) : Option (Nat × Nat) :=
  if rate = 0 then none
  else
    let (rows, bytes) :=
      if !o.both then (o.rows, o.rows * o.lines * 64)
      else if o.rows = 1 then (1, ceilDiv o.lines 2 * 64)
      else (ceilDiv o.rows 2, ceilDiv o.rows 2 * o.lines * 64)
    some (2 * rows + ceilDiv bytes rate, pathLatency o.path)

/-- Bytes per ac at which an engine is served from a tier (R161). -/
def tierRate (r : Rates) (tier : Nat) : Nat :=
  match tier with
  | 0 => 128
  | 1 => r.ddr
  | 2 => r.host
  | _ => 16

/-- Latency of a tier (R161). -/
def tierLatency (tier : Nat) : Nat :=
  match tier with
  | 0 => 320
  | 1 => 620
  | 2 => 2420
  | _ => 1620

/-- Occupancy and latency of an engine's share of a GATHER, `tiers` being the tiers of its pages of `bpp` bytes (R161); none when a tier
grants nothing. -/
def gatherCost (r : Rates) (tiers : List Nat) (bpp : Nat) : Option (Nat × Nat) :=
  if tiers.any (fun t => tierRate r t = 0) then none
  else some (16 * tiers.length + ((List.range 4).map (fun t => ceilDiv ((tiers.filter (· == t)).length * bpp) (max 1 (tierRate r t)))).sum,
    tiers.foldl (fun l t => max l (tierLatency t)) 0)

/-- Unit, occupancy and latency of an op on a core; none when its path grants nothing. -/
def opCost (r : Rates) (core : Nat) (op : TileOp) : Option (CostUnit × Nat × Nat) :=
  match op.body with
  | .nop c => some (.sq, c, 0)
  | .endOp => some (.sq, 0, 4)
  | .anchor o => some (.mx, 16 + autoTerm o, 0)
  | .accClear o => some (.mx, 16 + autoTerm o, 0)
  | .mma o =>
    let per := if o.fmtA == fmtE2M1 && o.fmtB == fmtE2M1 then 16
      else if o.fmtA == fmtFP16 || o.fmtA == fmtBF16 then 128 else 32
    some (.mx, o.kb * per, 40)
  | .accRead o => some (.vx, o.m * max 1 (ceilDiv (accReadRow o) 512), if o.mx then 16 else 12)
  | .vop o =>
    let v := 1 + (if vopUnary o.fn || o.bLine == lineNone then 0 else 1) + (if o.fn == 4 && o.cLine != lineNone then 1 else 0)
    some (.vx, ceilDiv o.n 128 * max (vopCfn o.fn) (max (ceilDiv (v * fmtBytes o.fmtIn 128) 1024) (ceilDiv (fmtBytes o.fmtOut 128) 512)),
      if vopCfn o.fn ≥ 4 then 24 else 10)
  | .vred o => some (.vx, o.groups * ceilDiv o.n 128 * ceilDiv (fmtBytes o.fmtIn 128) 1024, 16)
  | .convert o =>
    some (.vx, ceilDiv o.n 128 * max 1 (max (ceilDiv (fmtBytes o.fmtIn 128) 1024) (ceilDiv (fmtBytes o.fmtOut 128) 512)), 12)
  | .copy _ _ n => some (.vx, ceilDiv n 8, 8)
  | .fill _ n _ => some (.vx, ceilDiv n 8, 4)
  | .xferIn o => (xferCost o (r.path o.path)).map (fun c => (teUnit o.both o.engine, c.1, c.2))
  | .xferOut o => (xferCost o (r.path o.path)).map (fun c => (teUnit o.both o.engine, c.1, c.2))
  | .peerPush o =>
    some (if o.dstCore / 16 = core / 16 then (.xb, ceilDiv (64 * o.lines) 512, 24)
      else if o.dstCore / 128 = core / 128 then (teUnit false o.engine, ceilDiv (64 * o.lines) 128, 48)
      else (teUnit false o.engine, ceilDiv (64 * o.lines) 36, 160))
  | .gather o =>
    -- declared for tier 0; what pages of other tiers take more counts when it is served (R161)
    (gatherCost r (List.replicate (if o.both then ceilDiv o.pages 2 else o.pages) 0) o.bpp).map (fun c => (teUnit o.both o.engine, c.1, c.2))
  | .reducePost o => some (teUnit false o.engine, ceilDiv (64 * o.lines) 128, 64)
  | .wait _ _ c => some (.sq, c, 0)
  | .pred _ => some (.sq, 1, 2)
  | .signal _ _ => some (.sq, 1, 0)
  | .srset _ _ _ => some (.sq, 1, 0)
  | .fence => some (.sq, 1, 0)

/-- The transfer engine an op occupies on a core, if any (R98). -/
def TileOp.engineOf (op : TileOp) (core : Nat) : Option CostUnit :=
  match op.body with
  | .xferIn o => some (teUnit o.both o.engine)
  | .xferOut o => some (teUnit o.both o.engine)
  | .gather o => some (teUnit o.both o.engine)
  | .reducePost o => some (teUnit false o.engine)
  | .peerPush o => if o.dstCore / 16 = core / 16 then none else some (teUnit false o.engine)
  | _ => none

/-- Do two units contend? -/
def CostUnit.meets (a b : CostUnit) : Bool :=
  a == b || (a == .both && (b == .te0 || b == .te1)) || (b == .both && (a == .te0 || a == .te1))

/-- The cost of a tile by the procedure of R100; none when a path grants nothing. -/
def tileCost (r : Rates) (core : Nat) (ops : List TileOp) : Option Nat :=
  go ops 8 []
where
  -- done: op, unit, time its unit is free, end
  go (ops : List TileOp) (issue : Nat) (done : List (TileOp × CostUnit × Nat × Nat)) : Option Nat :=
    match ops with
    | [] => (done.head?).map (fun d => d.2.2.2)
    | op :: rest =>
      match opCost r core op with
      | none => none
      | some (u, o, l) =>
        let all := op.body == .endOp || op.body == .fence
        let s := done.foldl (fun s d =>
          let s := if d.2.1.meets u then max s d.2.2.1 else s
          if all || hazard d.1 op then max s d.2.2.2 else s) issue
        let e := s + o + l
        let stops := match op.body with | .wait _ _ _ => true | .fence => true | _ => false
        go rest (if stops then e else s + 1) ((op, u, s + o, e) :: done)

end Sys2Proof.Machine
end

