-- ==== Sys2Proof/Machine/TileData.lean ====
section
/-!
DEFINITION. What the ops compute (R84 to R90, R94, R95): plates as lines, matrix operands, the anchor, the accumulator
store, conversion out of it, and the vector ops, as functions of a core's plate and accumulator.
-/
namespace Sys2Proof.Machine

/-! ### The plate (R74) -/

def plateDefault (_ : Nat) : BitVec 512 := 0

def Core.line (k : Core) (l : Nat) : List Byte := leBytes 64 (SMap.get plateDefault k.plate l).toNat

/-- The first `n` bytes of the region at a line. -/
def Core.readPlate (k : Core) (line n : Nat) : List Byte :=
  ((List.range (ceilDiv n 64)).flatMap (fun i => k.line (line + i))).take n

/-- Write a byte string from the start of a line; bytes of its last line beyond it keep their values. -/
def Core.writePlate (k : Core) (line : Nat) (bs : List Byte) : Core :=
  ((chunks 64 bs).zipIdx).foldl (fun k c =>
    let v := c.1 ++ (k.line (line + c.2)).drop c.1.length
    { k with plate := SMap.set plateDefault k.plate (line + c.2) (BitVec.ofNat 512 (leNat v)) }) k

/-- Remove the residency entries with lines in a region, but for those of a tag (R105). -/
def Core.dropTags (k : Core) (line n vd tag : Nat) : Core :=
  { k with tags := k.tags.filter (fun t => !(t.first < line + n && line < t.first + t.lines) || (tag != 0 && t.tag == tag && t.vd == vd)) }

/-- Record a residency entry (R105): it replaces one of the same tag and device, or the least recently used of 64. -/
def Core.recordTag (k : Core) (vd tag first lines : Nat) : Core :=
  let rest := k.tags.filter (fun t => !(t.vd == vd && t.tag == tag))
  let rest := if rest.length ≥ 64 then rest.drop 1 else rest
  { k with tags := rest ++ [{ vd := vd, tag := tag, first := first, lines := lines }] }

/-! ### Matrix operands (R86) -/

/-- Scale modes of R51. -/
def smNONE : Nat := 0
def smMX : Nat := 1
def smROW : Nat := 2

/-- An operand as K rows of 128 values; in MX mode each takes the scale of its block and index. -/
def Core.operand (k : Core) (line sLine fmt smode kb : Nat) : List (List Num) :=
  let rows := chunks (fmtBytes fmt 128) (k.readPlate line (32 * kb * fmtBytes fmt 128))
  let scales := if smode = smMX then chunks 128 (k.readPlate sLine (128 * kb)) else []
  (rows.zipIdx).map (fun r =>
    let vs := (unpackCodes fmt 128 r.1).map (decodeNum fmt)
    if smode = smMX then List.zipWith (fun v (s : Byte) => mxValue fmt s.toNat v) vs (scales.getD (r.2 / 32) []) else vs)

/-- Bound exponent of the blocks of an operand at K block `b`, the largest over 128 rows or columns (R58). -/
def Core.bound (k : Core) (line sLine fmt smode b : Nat) : Option Int :=
  if fmt == fmtFP16 || fmt == fmtBF16 then
    let rb := fmtBytes fmt 128
    let bytes := (k.readPlate line (32 * (b + 1) * rb)).drop (32 * b * rb)
    ((unpackCodes fmt (32 * 128) bytes).map (fun c => (decodeNum fmt c).ilog.map (· + 1))).foldl maxOpt none
  else if smode = smMX then
    (((k.readPlate sLine (128 * (b + 1))).drop (128 * b)).map (fun c => (scaleExp c.toNat).map (· + elemBound fmt true))).foldl maxOpt none
  else some (elemBound fmt false)

/-- The automatic anchor (R58, R85). -/
def Core.autoAnchor (k : Core) (o : AnchorOp) : Int :=
  let sums := (List.range o.kb).map (fun b =>
    match k.bound o.aLine o.saLine o.fmtA o.smode b, k.bound o.bLine o.sbLine o.fmtB o.smode b with
    | some x, some y => some (x + y)
    | _, _ => none)
  match sums.foldl maxOpt none with
  | some a => clipAnchor a
  | none => -512

/-! ### The accumulator (R51 to R57, R84) -/

def cellDefault (_ : Nat) : AccCell := cell0

/-- Keys of a region, row by row. -/
def regionKeys (row0 m col0 n : Nat) : List Nat :=
  (List.range m).flatMap (fun i => (List.range n).map (fun j => (row0 + i) * 128 + (col0 + j)))

/-- A cleared accumulator under an anchor. -/
def accClean (anchor : Int) : Acc := { anchor := anchor, bad := [], mode := none, cells := [] }

/-- One element of an accumulator whose contents are undefined (R84). -/
def freeCell (n i : Nat) : AccCell :=
  { val := wrap144 (Config.freeNat n (8 * i)),
    cls := (match Config.freeNat n (8 * i + 1) % 4 with | 0 => .finite | 1 => .nan | 2 => .posInf | _ => .negInf),
    afault := Config.freeNat n (8 * i + 2) % 2 == 1, inv := Config.freeNat n (8 * i + 3) % 2 == 1,
    ksteps := Config.freeNat n (8 * i + 4) }

/-- An accumulator whose contents, anchor and flags are undefined: free values (R84). -/
def freeAcc (n : Nat) : Acc :=
  { anchor := (Config.freeNat n (8 * 16384) % 1024 : Int) - 512, bad := [], mode := none,
    cells := (List.range 16384).filterMap (fun i => if freeCell n i = cell0 then none else some (i, freeCell n i)) }

/-- Clear a region (R84). -/
def Acc.clear (a : Acc) (row0 m col0 n : Nat) : Acc :=
  let inside (k : Nat) : Bool := row0 ≤ k / 128 && k / 128 < row0 + m && col0 ≤ k % 128 && k % 128 < col0 + n
  { a with cells := a.cells.filter (fun e => !inside e.1), bad := a.bad.filter (fun k => !inside k) }

/-- Flags an element shows when it is read (R55, R66). -/
def cellFlags (c : AccCell) : Flags := { flags0 with ovf := outsideAfx c.val, afault := c.afault }

/-- ANCHOR and ACC_CLEAR (R84, R85): the accumulator after the op. -/
def Core.anchorOp (k : Core) (o : AnchorOp) (cur : Acc) : Acc :=
  if o.mode = 2 then cur.clear o.row0 o.m o.col0 o.n
  else accClean (if o.mode = 1 then k.autoAnchor o else o.anchor)

/-- MMA (R53 to R56, R86): the accumulator and the flags. -/
def Core.mma (k : Core) (o : MmaOp) (a : Acc) : Acc × Flags :=
  let A := k.operand o.aLine o.saLine o.fmtA o.smode o.kb
  let B := k.operand o.bLine o.sbLine o.fmtB o.smode o.kb
  let cells := (List.range o.m).foldl (fun cs i => (List.range o.n).foldl (fun cs j =>
    let key := (o.row0 + i) * 128 + (o.col0 + j)
    let c := List.foldl (fun c (ab : List Num × List Num) => addTerm a.anchor c ((ab.1.getD i .nan).mul (ab.2.getD j .nan)))
      (SMap.get cellDefault cs key) (A.zip B)
    SMap.set cellDefault cs key (addSteps (32 * o.kb) c)) cs) a.cells
  let fl := (regionKeys o.row0 o.m o.col0 o.n).foldl (fun (f : Flags) key =>
    let c := SMap.get cellDefault cells key
    f.or { flags0 with afault := c.afault, inv := c.inv }) flags0
  ({ a with cells := cells, mode := some o.smode }, fl)

/-- What an ACC_READ writes: the bytes of each output row, the bytes at aux_line, and flags (R60, R62, R65, R87). DESIGN CHOICE
(log entry 72): ROW scales apply when an MMA has added in ROW mode, so not when every one was predicated off. -/
def Core.accRead (k : Core) (o : AccReadOp) (a : Acc) (seed base stride : Nat) : List (List Byte) × List Byte × Flags :=
  let vec (line : Nat) : List Num := (unpackCodes fmtFP32 128 (k.readPlate line 512)).map (decodeNum fmtFP32)
  let al := if o.alphaLine = lineNone then [] else vec o.alphaLine
  let be := if o.betaLine = lineNone then [] else vec o.betaLine
  let cell (i j : Nat) : AccCell := SMap.get cellDefault a.cells ((o.row0 + i) * 128 + (o.col0 + j))
  let row := a.mode == some smROW
  let value (i j : Nat) : Num × Flags :=
    if row && o.alphaLine != lineNone then cellRowValue a.anchor (cell i j) (al.getD (o.row0 + i) .nan) (be.getD (o.col0 + j) .nan)
    else (cellValue a.anchor (cell i j), flags0)
  let u (i j : Nat) : Option Nat := if o.sr then some (srWord seed base stride i j) else none
  let readFl := (regionKeys o.row0 o.m o.col0 o.n).foldl (fun (f : Flags) key => f.or (cellFlags (SMap.get cellDefault a.cells key))) flags0
  if o.raw then
    ((List.range o.m).map (fun i => (List.range o.n).flatMap (fun j => leBytes 16 (unsigned 128 (clampAfx (cell i j).val)))),
     (List.range o.m).flatMap (fun i => (List.range o.n).map (fun j =>
       BitVec.ofNat 8 ((cell i j).cls.code + 4 * b2n (outsideAfx (cell i j).val) + 8 * b2n (cell i j).afault))),
     readFl)
  else if o.mx && o.mxDim = 0 then
    let rows := (List.range o.m).map (fun i =>
      (chunks 32 ((List.range o.n).map (fun j => ((value i j), u i j)))).map (fun b =>
        (mxBlock o.fmtOut (b.map (fun v => (v.1.1, v.2))), b.foldl (fun (f : Flags) v => f.or v.1.2) flags0)))
    (rows.map (fun r => packCodes o.fmtOut (r.flatMap (fun b => b.1.2.1))),
     rows.flatMap (fun r => r.map (fun b => BitVec.ofNat 8 b.1.1)),
     rows.foldl (fun f r => r.foldl (fun (f : Flags) b => (f.or b.1.2.2).or b.2) f) readFl)
  else if o.mx then
    let blocks := (List.range (o.m / 32)).map (fun r => (List.range o.n).map (fun j =>
      let vs := (List.range 32).map (fun t => (value (32 * r + t) j, u (32 * r + t) j))
      (mxBlock o.fmtOut (vs.map (fun v => (v.1.1, v.2))), vs.foldl (fun (f : Flags) v => f.or v.1.2) flags0)))
    ((List.range o.m).map (fun i => packCodes o.fmtOut ((blocks.getD (i / 32) []).map (fun b => b.1.2.1.getD (i % 32) 0))),
     blocks.flatMap (fun r => r.map (fun b => BitVec.ofNat 8 b.1.1)),
     blocks.foldl (fun f r => r.foldl (fun (f : Flags) b => (f.or b.1.2.2).or b.2) f) readFl)
  else
    let conv (i j : Nat) : Nat × Flags :=
      let (v, f) := value i j
      let (c, g) := if o.fmtOut = fmtAFX64 then toAfx64 (if o.afxSame then a.anchor else o.anchorOut) v
        else toElem o.fmtOut o.ieee (u i j) v
      (c, f.or g)
    let rows := (List.range o.m).map (fun i => (List.range o.n).map (conv i))
    (rows.map (fun r => packCodes o.fmtOut (r.map (·.1))), [],
     rows.foldl (fun f r => r.foldl (fun (f : Flags) c => f.or c.2) f) readFl)

/-! ### Vector ops (R70 to R72, R88 to R90) -/

/-- VOP: the bytes written at d_line, and flags. -/
def Core.vop (k : Core) (o : VopOp) (seed base stride : Nat) : List Byte × Flags :=
  let codes (line : Nat) : List Nat := unpackCodes o.fmtIn o.n (k.readPlate line (fmtBytes o.fmtIn o.n))
  let arg (line imm : Nat) (used : Bool) : List Num :=
    if used && line != lineNone then (codes line).map (decodeNum o.fmtIn) else List.replicate o.n (decodeNum fmtFP32 imm)
  let a := (codes o.aLine).map (decodeNum o.fmtIn)
  let b := arg o.bLine o.immB (!vopUnary o.fn)
  let c := arg o.cLine o.immC (o.fn == 4)
  let r := ((a.zip (b.zip c)).zipIdx).map (fun x =>
    vopOut o.fmtOut o.ieee (if o.sr then some (srWord seed base stride 0 x.2) else none) (vopFn o.fn x.1.1 x.1.2.1 x.1.2.2))
  (packCodes o.fmtOut (r.map (·.1)), r.foldl (fun (f : Flags) x => f.or x.2) flags0)

/-- One reduction of VRED: FP32 code and flags. -/
def vredOne (fn : Nat) (vs : List Num) : Nat × Flags :=
  if fn = 0 then
    let a := match (vs.map (fun v => v.ilog.map (· + 1))).foldl maxOpt none with | some e => e | none => -512
    let c := vs.foldl (fun c v => addTerm a c (v, flags0)) cell0
    let c := addSteps vs.length c
    let (code, f) := toFloat fmtFP32 true none (cellValue a c)
    (code, f.or { cellFlags c with inv := c.inv })
  else
    match vs with
    | [] => (0, flags0)
    | v :: rest => num32 (rest.foldl (if fn = 1 then maxNum else minNum) v, flags0)

/-- VRED: the bytes at dst_line, and flags. -/
def Core.vred (k : Core) (o : VredOp) : List Byte × Flags :=
  let vs := (unpackCodes o.fmtIn (o.n * o.groups) (k.readPlate o.srcLine (fmtBytes o.fmtIn (o.n * o.groups)))).map (decodeNum o.fmtIn)
  let r := (chunks o.n vs).map (vredOne o.fn)
  (packCodes fmtFP32 (r.map (·.1)), r.foldl (fun (f : Flags) x => f.or x.2) flags0)

/-- CONVERT: the bytes at dst_line, the scales at scale_out, and flags. -/
def Core.convert (k : Core) (o : ConvOp) (seed base stride : Nat) : List Byte × List Byte × Flags :=
  let codes := unpackCodes o.fmtIn o.n (k.readPlate o.srcLine (fmtBytes o.fmtIn o.n))
  let sin := if o.mxIn then k.readPlate o.scaleIn (o.n / 32) else []
  let vals := (codes.zipIdx).map (fun c =>
    let v := if o.fmtIn = fmtAFX64 then afx64Num o.anchor c.1 else decodeNum o.fmtIn c.1
    let v := if o.mxIn then mxValue o.fmtIn (sin.getD (c.2 / 32) 0).toNat v else v
    (v, if o.sr then some (srWord seed base stride (c.2 / max 1 o.rowLen) (c.2 % max 1 o.rowLen)) else none))
  if o.mxOut then
    let bl := (chunks 32 vals).map (mxBlock o.fmtOut)
    (packCodes o.fmtOut (bl.flatMap (fun b => b.2.1)), bl.map (fun b => BitVec.ofNat 8 b.1), bl.foldl (fun (f : Flags) b => f.or b.2.2) flags0)
  else
    let r := vals.map (fun v => if o.fmtOut = fmtAFX64 then toAfx64 o.anchor v.1 else toElem o.fmtOut o.ieee v.2 v.1)
    (packCodes o.fmtOut (r.map (·.1)), [], r.foldl (fun (f : Flags) x => f.or x.2) flags0)

/-! ### Predicates (R95) -/

/-- The result of a PRED. -/
def Core.predResult (k : Core) (o : PredOp) (status : Flags) (preds : Nat) : Bool :=
  let w := fieldOf ((k.line o.line).drop (4 * o.word)) 0 4
  match o.kind with
  | 0 => (status.toNat &&& o.sel) != 0
  | 1 =>
    let x := decodeNum fmtFP32 w
    let y := decodeNum fmtFP32 o.imm
    let un := x == .nan || y == .nan
    (match o.sel with
     | 0 => !un && numLt x y && !numEq x y
     | 1 => !un && (numLt x y || numEq x y)
     | 2 => numEq x y
     | 3 => !numEq x y
     | 4 => !un && numLt y x && !numEq x y
     | _ => !un && (numLt y x || numEq x y))
  | 2 =>
    let x := signed 32 w
    let y := signed 32 o.imm
    (match o.sel with
     | 0 => decide (x < y)
     | 1 => decide (x ≤ y)
     | 2 => decide (x = y)
     | 3 => decide (x ≠ y)
     | 4 => decide (x > y)
     | _ => decide (x ≥ y))
  | _ =>
    let a := preds.testBit o.pa
    let b := preds.testBit o.pb
    (match o.lop with
     | 0 => a && b
     | 1 => a || b
     | 2 => a != b
     | _ => !a)

end Sys2Proof.Machine
end

