-- ==== Sys2Proof/Machine/TileOps.lean ====
section
/-!
DEFINITION. Running tiles (R16, R22 to R26, R83 to R110, R379 to R383): issue of an op, its effect, the end of an op,
the end of a tile, and the ways an attempt ends.
-/
namespace Sys2Proof.Machine

/-! ### Running tiles -/

def Module.modRun (m : Module) (c : Nat) (f : Running → Running) : Module :=
  m.modCore c (fun k => { k with run := k.run.map f })

def Running.part (r : Running) (m : Module) : Nat := m.ctxPart r.tile.ctx

/-- Rates of a tile's class (R99). -/
def Module.rates (m : Module) (ctx : Nat) (be : Bool) : Rates :=
  let p := m.ctxPart ctx
  { hbm := grant m.recs p be 0, ddr := grant m.recs p be 1, host := grant m.recs p be 2 }

/-! ### The ends of an attempt -/

/-- The command of a tile, if it is a host tile. -/
def Tile.cmdKey (t : Tile) : Option (Nat × Nat) := match t.src with | .host q i _ => some (q, i) | _ => none

/-- An attempt ended by a detected error of a core (R109, R374, R377, R379, R380); after one of the op store the body is
loaded again (R373). -/
def Module.errEnd (m : Module) (c cause : Nat) : Module :=
  match m.running? c with
  | none => m
  | some r =>
    let again := r.tile.lastErr == cause && r.tile.lastErrCore == c && r.tile.lastErr != 0
    let t : Tile := { r.tile with errEnds := r.tile.errEnds + 1, lastErr := cause, lastErrCore := c,
                                  loaded := r.tile.loaded && cause != errOPSTORE_UE }
    let p := r.part m
    let m := (m.logEvent clsCORE cause 0 1 c (if p < 64 then some p else none) (some t.ctx) 0).errEvent 0 c none again
    let m := m.modCtx t.ctx (fun x => { x with lastError := lastErrorBytes clsCORE cause 0 1 c t.errEnds m.F })
    let m := m.dropRun c
    let m := if errRESIDUE_MX ≤ cause && cause ≤ errACC_RESIDUE then m.noteCore c 1 else if cause = errPLATE_UE then m.noteCore c 2 else m
    if t.errEnds ≥ 4 then (m.retryTile t).willLose t.ctx lostDATA_LOST else m.retryTile t

/-- The attempt of a core ends because its context is lost in this frame's window. -/
def Module.lostEnd (m : Module) (c cause : Nat) : Module :=
  match m.running? c with
  | none => m
  | some r => ((m.dropRun c).retryTile r.tile).willLose r.tile.ctx cause

/-- The attempt ends and its sequence becomes STATE_LOST in the window (R162 to R164). -/
def Module.seqEnd (m : Module) (c id cause : Nat) : Module :=
  match m.running? c with
  | none => m
  | some r => ((m.dropRun c).retryTile r.tile).setSeq (fun s => { s with toLose := s.toLose ++ [(id, cause)] })

/-- May a line be repaired from the twin for a device (R383)? -/
def Module.repairable (m : Module) (vd part line : Nat) (precious : Bool) : Bool :=
  m.twin.state == tsPAIRED &&
  (match m.twinVd? vd with
   | some t => t.state == tvPROTECTED && (if t.mode = 1 then !t.shadow && precious else t.mode == 2 && m.allowed part line 64)
   | none => false)

/-- An uncorrectable memory line ended the attempt (R382 code 1 or 4, R383, R384). -/
def Module.lineEnd (m : Module) (c line : Nat) (precious : Bool) (seq : Option Nat) : Module :=
  match m.running? c with
  | none => m
  | some r =>
    let t : Tile := { r.tile with errEnds := r.tile.errEnds + 1, lastErr := 0 }
    let u := lineUnit line
    let why := m.lineCause line
    let m := (m.dropRun c).noteCore c 2
    let m := m.modCtx t.ctx (fun x => { x with lastError := lastErrorBytes why.1 why.2 0 u.2.1 u.2.2 t.errEnds m.F })
    if t.errEnds < 4 && m.repairable t.vd (r.part m) line precious then m.retryTile { t with waitRepair := some { line := line, seq := seq, frame := m.F } }
    else
      let m := m.dataLost line (if seq.isSome then 4 else 1) (r.part m) (some t.ctx)
      match seq with
      | some id =>
        let m := (m.retryTile t).setSeq (fun s => { s with toLose := s.toLose ++ [(id, lcPOOL_FAIL)] })
        if t.errEnds ≥ 4 then m.willLose t.ctx lostDATA_LOST else m
      | none => (m.retryTile t).willLose t.ctx lostDATA_LOST

/-- An overrun ends the attempt (R23, R25): a third one loses the context with cause BUDGET. -/
def Module.overrunEnd (m : Module) (c : Nat) (window : Bool) : Module :=
  match m.running? c with
  | none => m
  | some r =>
    let t : Tile := { r.tile with overruns := r.tile.overruns + 1, lastErr := 0 }
    let m := m.count (if window then CORE_OVERRUN_window_overruns c else CORE_OVERRUN_budget_overruns c) 1
    let m := (m.count TICK_OVERRUN_CNT_overruns 1).raiseIf TICK_EVENT_overrun (m.flag TICK_CTRL_overrun_irq_en)
    let m := ((m.dropRun c).noteCore c 8).retryTile t
    if t.overruns ≥ 3 then m.willLose t.ctx lostBUDGET else m

/-! ### Issue -/

/-- Outcome of the effect of an op. -/
inductive OpRes where
  | ok (f : Flags)
  /-- Its translations or staging are missing (R183, R247), or its path grants nothing (R110). -/
  | later
  | error (cause : Nat)
  | lost (cause : Nat)
  | seqLost (id cause : Nat)
  | badLine (line : Nat) (precious : Bool) (seq : Option Nat)

structure OpOut where
  m : Module
  res : OpRes

def okRes (m : Module) (f : Flags) : OpOut := { m := m, res := .ok f }
def stopRes (m : Module) (r : OpRes) : OpOut := { m := m, res := r }

/-- Is an op selected on by its predicate control (R83, R96)? -/
def TileOp.selected (o : TileOp) (preds : Nat) : Bool := !o.pen || (preds.testBit o.psel != o.pinv)

/-- The op a core issues next. -/
def Running.nextOp (r : Running) : Option TileOp := r.tile.ops[r.next]?

/-- Does an op wait for a transfer engine that an earlier op holds, its data not yet moving (R183, R247)? -/
def Running.engineHeld (r : Running) (c : Nat) (op : TileOp) : Bool :=
  r.inflight.any (fun x => !x.moved && (match r.tile.ops[x.idx]?.bind (·.engineOf c), op.engineOf c with
    | some a, some b => a.meets b
    | _, _ => false))

/-- May the next op issue now: issue is not stopped, its engine is free, and no hazard of R101 holds? END and FENCE wait for
every op. -/
def Module.canIssue (m : Module) (c : Nat) (r : Running) (op : TileOp) : Bool :=
  r.stall == .none && !m.gated c && !r.engineHeld c op &&
  (match op.body with
   | .endOp => r.inflight.isEmpty
   | .fence => r.inflight.isEmpty
   | _ => r.inflight.all (fun x => match r.tile.ops[x.idx]? with | some e => !hazard e op | none => true))

/-- Put an issued op in flight, or end the attempt. -/
def Module.settle (c k : Nat) (o : OpOut) : Module :=
  let push (f : Flags) (moved : Bool) : Module := o.m.modRun c (fun r =>
    { r with next := k + 1, inflight := r.inflight ++ [{ idx := k, on := true, flags := f, moved := moved }] })
  match o.res with
  | .ok f => push f true
  | .later => push flags0 false
  | .error e => o.m.errEnd c e
  | .lost e => o.m.lostEnd c e
  | .seqLost id e => o.m.seqEnd c id e
  | .badLine l p s => o.m.lineEnd c l p s

/-- Does an op read the plate? -/
def TileOp.readsPlate (o : TileOp) : Bool := (accesses o).any (fun a => match a with | .plate _ _ w => !w | _ => false)

/-- The first plate line an op reads. -/
def TileOp.firstLine (o : TileOp) : Nat :=
  ((accesses o).filterMap (fun a => match a with | .plate l _ false => some l | _ => none)).headD 0

/-- A plate read under the injections of R110: a corrected error is counted, an uncorrectable one ends the attempt that runs on the
core, whoever reads (R109). -/
def Module.plateRead (m : Module) (c line : Nat) (byAttempt : Bool) : Module × Bool :=
  let k := m.core c
  let ctx := k.lastCtx
  let part := ctx.bind (fun x => let p := m.ctxPart x; if p < 64 then some p else none)
  if k.injPlateUe then
    let m := (m.setCore c { k with injPlateUe := false }).count (CORE_PLATE_ECC_uncorrected c) 1
    let m := { m with ras := { m.ras with plateUe := m.ras.plateUe ++ [(c, line, byAttempt)] } }
    (if byAttempt then m
     else if (m.running? c).isSome then m.errEnd c errPLATE_UE
     else ((m.logEvent clsCORE errPLATE_UE 0 1 c part ctx 0).errEvent 0 c none false).noteCore c 2, false)
  else if k.injPlateCe then
    let m := (m.setCore c { k with injPlateCe := false }).count (CORE_PLATE_ECC_corrected c) 1
    (((m.logEvent clsCORE errPLATE_CE 0 1 c part ctx 0).errEvent 1 c none false).noteCore c 2, true)
  else (m, true)

/-- Issue the next op of a core if it is of the kind of the row. -/
def Module.issue (c : Nat) (kind : OpBody → Bool) (f : Module → Running → TileOp → OpOut) (m : Module) : Module :=
  match m.running? c with
  | none => m
  | some r =>
    match r.nextOp with
    | none => m
    | some op =>
      if !kind op.body || !m.canIssue c r op then m
      else
      let m := m.noteIssue c
      if !op.selected r.preds then
        m.modRun c (fun r => { r with next := r.next + 1, inflight := r.inflight ++ [{ idx := r.next, on := false, flags := flags0, moved := true }] })
      else
        let (m, good) := if op.readsPlate then m.plateRead c op.firstLine true else (m, true)
        if !good then (m.modRun c (fun r => { r with tile := { r.tile with ueLine := some op.firstLine } })).errEnd c errPLATE_UE
        else Module.settle c r.next (f m r op)

/-- Issue an op that ends with its issue: it never stands in flight with an effect of its own. -/
def simple (g : Running → Running) (c : Nat) (m : Module) : OpOut := okRes (m.modRun c g) flags0

/-! ### Sequencer ops -/

def effNop (c : Nat) : Module → Module :=
  Module.issue c (fun b => match b with | .nop _ => true | _ => false) (fun m _ _ => simple id c m)

def effFence (c : Nat) : Module → Module :=
  Module.issue c (· == .fence) (fun m _ _ => simple id c m)

def effSignalOp (c : Nat) : Module → Module :=
  Module.issue c (fun b => match b with | .signal _ _ => true | _ => false) (fun m _ op =>
    match op.body with
    | .signal tl v => simple (fun r => { r with signals := r.signals ++ [(tl, v)] }) c m
    | _ => okRes m flags0)

def effSrset (c : Nat) : Module → Module :=
  Module.issue c (fun b => match b with | .srset _ _ _ => true | _ => false) (fun m _ op =>
    match op.body with
    | .srset s b t => simple (fun r => { r with seed := s, idxBase := b, idxStride := t }) c m
    | _ => okRes m flags0)

def effPred (c : Nat) : Module → Module :=
  Module.issue c (fun b => match b with | .pred _ => true | _ => false) (fun m r op =>
    match op.body with
    | .pred o =>
      let v := (m.core c).predResult o r.status r.preds
      simple (fun r => { r with preds := putField r.preds o.pdst 1 (b2n v) }) c m
    | _ => okRes m flags0)

/-- A tile whose WAIT met a lost timeline publishes nothing, and its command ends with DEP_LOST (R371). -/
def Module.waitLost (m : Module) (c : Nat) (t : Tile) : Module :=
  let m := m.modRun c (fun r => { r with depLost := true })
  match t.cmdKey with
  | some (q, i) => m.depLost q i
  | none => m

/-- WAIT (R100): it ends as it issues when its timeline has the value or is lost. -/
def effWait (c : Nat) : Module → Module :=
  Module.issue c (fun b => match b with | .wait _ _ _ => true | _ => false) (fun m r op =>
    match op.body with
    | .wait tl v _ =>
      (match m.obj.tls.get? tl with
       | some t =>
         if t.lost then okRes (m.waitLost c r.tile) flags0
         else if t.reached v then okRes m flags0
         else simple (fun r => { r with stall := .timeline tl v }) c m
       | none => simple (fun r => { r with stall := .timeline tl v }) c m)
    | _ => okRes m flags0)

/-- A waiting WAIT ends (R100, R371). -/
def effWaitResume (c : Nat) (m : Module) : Module :=
  match m.running? c with
  | none => m
  | some r =>
    match r.stall with
    | .none => m
    | .timeline tl v =>
      match m.obj.tls.get? tl with
      | none => m
      | some t =>
        if t.lost then (m.modRun c (fun r => { r with stall := .none })).waitLost c r.tile
        else if t.reached v then m.modRun c (fun r => { r with stall := .none })
        else m

/-! ### Accumulator and vector ops -/

/-- The accumulator of a core: free values while it is undefined (R84). -/
def Module.accOf (m : Module) (c : Nat) : Module × Acc :=
  match (m.core c).acc with
  | some a => (m, a)
  | none => ({ m with free := m.free + 1 }, freeAcc m.free)

def Module.setAcc (m : Module) (c : Nat) (a : Acc) : Module := m.modCore c (fun k => { k with acc := some a })

/-- A read of the accumulator store under inj_acc_parity (R110). -/
def Module.accRead? (m : Module) (c : Nat) : Module × Bool :=
  if (m.core c).injAccParity then
    ((m.modCore c (fun k => { k with injAccParity := false })).count (CORE_ACC_ERR_parity c) 1, false)
  else (m, true)

/-- The effect of ANCHOR and ACC_CLEAR. -/
def anchorEff (c : Nat) (m : Module) (op : TileOp) : OpOut :=
  let go (o : AnchorOp) : OpOut :=
    if o.mode = 2 then
      let (m, a) := m.accOf c
      okRes (m.setAcc c ((m.core c).anchorOp o a)) flags0
    else okRes (m.setAcc c ((m.core c).anchorOp o (accClean 0))) flags0
  match op.body with
  | .anchor o => go o
  | .accClear o => go o
  | _ => okRes m flags0

def effAnchor (c : Nat) : Module → Module :=
  Module.issue c (fun b => match b with | .anchor _ => true | _ => false) (fun m _ op => anchorEff c m op)

def effAccClear (c : Nat) : Module → Module :=
  Module.issue c (fun b => match b with | .accClear _ => true | _ => false) (fun m _ op => anchorEff c m op)

/-- MMA: an injected residue error marks the region, and the ACC_READ that checks it finds the mismatch (R108). -/
def effMma (c : Nat) : Module → Module :=
  Module.issue c (fun b => match b with | .mma _ => true | _ => false) (fun m _ op =>
    match op.body with
    | .mma o =>
      let (m, good) := m.accRead? c
      if !good then stopRes m (.error errACC_PARITY)
      else
        let (m, a) := m.accOf c
        let (a, f) := (m.core c).mma o a
        let bad := if (m.core c).injResidue then (regionKeys o.row0 o.m o.col0 o.n).foldl insertU a.bad else a.bad
        okRes ((m.modCore c (fun k => { k with injResidue := false })).setAcc c { a with bad := bad }) f
    | _ => okRes m flags0)

/-- Write a region of a core's plate; entries of other tags with lines in it go (R105). -/
def Module.plateWrite (m : Module) (c line : Nat) (bs : List Byte) (vd tag : Nat) : Module :=
  m.modCore c (fun k => (k.dropTags line (max 1 (ceilDiv bs.length 64)) vd tag).writePlate line bs)

def effAccRead (c : Nat) : Module → Module :=
  Module.issue c (fun b => match b with | .accRead _ => true | _ => false) (fun m r op =>
    match op.body with
    | .accRead o =>
      let (m, good) := m.accRead? c
      if !good then stopRes m (.error errACC_PARITY)
      else
        let (m, a) := m.accOf c
        if (regionKeys o.row0 o.m o.col0 o.n).any (fun k => a.bad.contains k) then
          stopRes (m.count (CORE_RESIDUE_mx_residue c) 1) (.error errRESIDUE_MX)
        else
          let (rows, aux, f) := (m.core c).accRead o a r.seed r.idxBase r.idxStride
          let per := ceilDiv (accReadRow o) 64
          let m := m.setAcc c a
          let m := (rows.zipIdx).foldl (fun m x => m.plateWrite c (o.outLine + x.2 * per) x.1 0 0) m
          okRes (if aux.isEmpty then m else m.plateWrite c o.auxLine aux 0 0) f
    | _ => okRes m flags0)

def effVop (c : Nat) : Module → Module :=
  Module.issue c (fun b => match b with | .vop _ => true | _ => false) (fun m r op =>
    match op.body with
    | .vop o =>
      if (m.core c).injResidue then
        stopRes ((m.modCore c (fun k => { k with injResidue := false })).count (CORE_RESIDUE_vx_residue c) 1) (.error errRESIDUE_VX)
      else
        let (bs, f) := (m.core c).vop o r.seed r.idxBase r.idxStride
        okRes (m.plateWrite c o.dLine bs 0 0) f
    | _ => okRes m flags0)

def effVred (c : Nat) : Module → Module :=
  Module.issue c (fun b => match b with | .vred _ => true | _ => false) (fun m _ op =>
    match op.body with
    | .vred o => let (bs, f) := (m.core c).vred o; okRes (m.plateWrite c o.dstLine bs 0 0) f
    | _ => okRes m flags0)

def effConvert (c : Nat) : Module → Module :=
  Module.issue c (fun b => match b with | .convert _ => true | _ => false) (fun m r op =>
    match op.body with
    | .convert o =>
      let (bs, sc, f) := (m.core c).convert o r.seed r.idxBase r.idxStride
      let m := m.plateWrite c o.dstLine bs 0 0
      okRes (if sc.isEmpty then m else m.plateWrite c o.scaleOut sc 0 0) f
    | _ => okRes m flags0)

def effCopy (c : Nat) : Module → Module :=
  Module.issue c (fun b => match b with | .copy _ _ _ => true | _ => false) (fun m _ op =>
    match op.body with
    | .copy s d n => okRes (m.plateWrite c d ((m.core c).readPlate s (64 * n)) 0 0) flags0
    | _ => okRes m flags0)

def effFill (c : Nat) : Module → Module :=
  Module.issue c (fun b => match b with | .fill _ _ _ => true | _ => false) (fun m _ op =>
    match op.body with
    | .fill d n p => okRes (m.plateWrite c d ((List.replicate (16 * n) (leBytes 4 p)).flatten) 0 0) flags0
    | _ => okRes m flags0)

/-! ### Transfers (R91 to R94, R129, R174, R183) -/

/-- Tier grant of a place: HBM, DDR5 or host. -/
def Rates.ofPlace (r : Rates) : Place → Nat
  | .loc off => if chanOf off < 512 then r.hbm else r.ddr
  | .host _ => r.host
  | .remote => 1

/-- The memory object of an object slot of a tile. -/
def Module.slotObj (m : Module) (t : Tile) (slot : Nat) : Option MemObj :=
  (t.hdr.objs[slot]?).bind (fun h => (m.obj.mos.get? (bits h 0 24)).bind (fun o => if o.gen = bits h 24 8 then some o else none))

/-- Record a run-time TILE_INVALID (R82). -/
def Module.coreFault (m : Module) (c reason idx ctx : Nat) : Module :=
  (m.setReg (CORE_FAULT c) (reason + 256 * idx)).setReg (CORE_FAULT_CTX c) ctx

/-- Note bytes that a running tile of a LOCKSTEP device wrote (R322). -/
def Module.noteWrite (m : Module) (c op addr : Nat) (bs : List Byte) : Module :=
  m.modRun c (fun r => if m.isLockstep r.tile.vd then { r with writes := r.writes ++ [{ op := op, addr := addr, data := bs }] } else r)

/-- Data of core `c` that goes to host memory or comes from it crosses with a surplus mark: no bucket is charged for it (R198). -/
def Module.hostWay (m : Module) (c addr : Nat) (out : Bool) : Module :=
  let way := m.routeCompIo (c / 128) hostIo (addr.testBit 8)
  m.markWay (if out then way else wayBack way) false

/-- One row of an XFER. -/
def Module.xferRow (m : Module) (c : Nat) (r : Running) (o : XferOp) (ob : MemObj) (out : Bool) (line va : Nat) : OpOut :=
  let t := r.tile
  let part := r.part m
  let j : Joiner := .core c t.uid r.next
  let req (e : Nat) : Requester := .tile c e ob.precious
  let rate (off : Nat) : Nat := (m.rates t.ctx t.be).ofPlace (.loc off)
  match m.translateRange (m.ctxFn t.ctx) (m.ctxPasid t.ctx) va (64 * o.lines) out j with
  | (m, .wait) => stopRes m .later
  | (m, .got ps) =>
    if ps.any (fun p => p.1 == .remote) then
      stopRes (m.coreFault c tiREMOTE_ADDRESS r.next t.ctx) (.lost lostTILE_INVALID)
    else if ps.any (fun p => (m.rates t.ctx t.be).ofPlace p.1 == 0) then stopRes m .later
    else if out then
      let data := (m.core c).readPlate line (64 * o.lines)
      let (m, res, _) := ps.foldl (fun (acc : Module × Option OpRes × Nat) p =>
        let (m, e, pos) := acc
        if e.isSome then acc
        else
          let bs := (data.drop pos).take p.2
          match p.1 with
          | .loc off =>
            let m := m.opFlow c o.engine o.both req part off p.2 (rate off) true t.isFill (ob.va + o.offset)
            (match m.memWrite part off bs with
             | (m, .ok) =>
               let m := if ob.precious then m.mirrorWrite t.vd off bs else m
               (m.noteWrite c r.next off bs, none, pos + p.2)
             | (m, .refused) => (m, some (.lost lostMEM_RANGE), pos)
             | (m, .uncorrectable l) => (m, some (.badLine l ob.precious none), pos))
          | .host pa => (((m.hostWay c pa true).hostWrite (m.ctxFn t.ctx) pa bs).noteWrite c r.next pa bs, none, pos + p.2)
          | .remote => acc) (m, none, 0)
      stopRes m (res.getD (.ok flags0))
    else
      let (m, res, data) := ps.foldl (fun (acc : Module × Option OpRes × List Byte) p =>
        let (m, e, data) := acc
        if e.isSome then acc
        else
          match p.1 with
          | .loc off =>
            let m := m.opFlow c o.engine o.both req part off p.2 (rate off) false t.isFill (ob.va + o.offset)
            (match m.memRead part off p.2 with
             | (m, .ok, bs) => (m, none, data ++ bs)
             | (m, .refused, _) => (m, some (.lost lostMEM_RANGE), data)
             | (m, .uncorrectable l, _) => (m, some (.badLine l ob.precious none), data))
          | .host pa => let (m, b) := (m.hostWay c pa false).hostRead (m.ctxFn t.ctx) pa p.2; (m, none, data ++ b)
          | .remote => acc) (m, none, [])
      match res with
      | some e => stopRes m e
      | none => okRes (m.plateWrite c line data t.vd o.tag) flags0

/-- XFER_IN and XFER_OUT (R91): rows in order; the first that cannot go on decides. -/
def Module.xfer (m : Module) (c : Nat) (r : Running) (o : XferOp) (out : Bool) : OpOut :=
  match m.slotObj r.tile o.slot with
  | none => stopRes m (.lost lostOBJ_RANGE)
  | some ob =>
    if o.offset + (o.rows - 1) * o.stride + 64 * o.lines > ob.size || (out && !ob.write) then stopRes m (.lost lostOBJ_RANGE)
    else
      -- what an earlier try of the same op wrote is written again
      let m := m.modRun c (fun x => { x with writes := x.writes.filter (·.op != r.next) })
      (List.range o.rows).foldl (fun acc i =>
      match acc.res with
      | .ok _ => acc.m.xferRow c r o ob out (o.plateLine + i * o.lines) (ob.va + o.offset + i * o.stride)
      | .later => { acc with m := (acc.m.translateRange (acc.m.ctxFn r.tile.ctx) (acc.m.ctxPasid r.tile.ctx)
          (ob.va + o.offset + i * o.stride) (64 * o.lines) out (.core c r.tile.uid r.next)).1 }
      | _ => acc) (okRes m flags0)

/-- The fastest arithmetic clock of a die's blocks, in MHz. -/
def Module.dieMhz (m : Module) (die : Nat) : Nat :=
  (List.range 8).foldl (fun a i => max a (pointMHz (m.fld (PWR_BLOCK_point (8 * die + i))))) 0

/-- The load of a push on the seams, always assured (R198): it moves 36 bytes in an ac of the source die's clock (R196), for which the
fastest of its blocks stands (log entry 109), and bit 8 of the byte address on the target's plate chooses the route of each line
(R194). -/
def Module.pushSeams (m : Module) (c : Nat) (o : PushOp) : Module :=
  if c / 128 = o.dstCore / 128 || o.lines = 0 then m
  else
    let second := ((List.range o.lines).filter (fun i => (o.dstLine + i).testBit 2)).length
    let part (b : Bool) (lines : Nat) (m : Module) : Module :=
      let way := m.routeComp (c / 128) (o.dstCore / 128) b
      (m.markWay way true).addFlow { owner := 2 * c + o.engine % 2, way := way, rate := 64 * 36 * m.dieMhz (c / 128) / 1000 * lines / o.lines, floor := none, left := 64 * lines, line := none }
    part true second (part false (o.lines - second) m)

/-- PEER_PUSH (R92): the lines arrive on the destination's plate. -/
def Module.push (m : Module) (c : Nat) (r : Running) (o : PushOp) : OpOut :=
  okRes ((m.pushSeams c o).plateWrite o.dstCore o.dstLine ((m.core c).readPlate o.srcLine (64 * o.lines)) r.tile.vd o.tag) flags0

/-- GATHER (R93, R161 to R164). -/
def Module.gather (m : Module) (c : Nat) (r : Running) (o : GatherOp) : OpOut :=
  match m.seq? o.seqId with
  | none => stopRes m (.lost lostSEQ_RANGE)
  | some q =>
    if q.part ≠ r.part m || o.firstPage + o.pages > q.pageCount then stopRes m (.lost lostSEQ_RANGE)
    else if q.lost then stopRes m (.seqLost o.seqId q.lostCause)
    else
      let (m, res, data) := (List.range o.pages).foldl (fun (acc : Module × Option OpRes × List Byte) i =>
        let (m, e, data) := acc
        match e with
        | some .later => acc
        | some _ => acc
        | none =>
          let e := m.pageEntry q (o.firstPage + i)
          if e.tier = tierABSENT then (m, some (.seqLost o.seqId lcNO_TIER), data)
          else if (e.tier == 1 && (m.rates r.tile.ctx r.tile.be).ddr == 0) || (e.tier == 2 && (m.rates r.tile.ctx r.tile.be).host == 0) then
            (m, some .later, data)
          else
          let at_ := e.addr + o.pageOff
          let m := if e.tier ≤ 1 then m.opFlow c o.engine o.both (.gather c · o.seqId) q.part at_ o.bpp
              (tierRate (m.rates r.tile.ctx r.tile.be) e.tier) false false at_
            else m.hostWay c at_ false
          match m.readPage q e o.pageOff o.bpp (.seqPage o.seqId (o.firstPage + i)) with
            | (m, .data bs) => (m, none, data ++ bs)
            | (m, .wait) => (m, some .later, data)
            | (m, .uncorrectable l) => (m, some (.badLine l false (some o.seqId)), data)
            | (m, .fail) => (m, some (.seqLost o.seqId lcPOOL_FAIL), data)) (m, none, [])
      match res with
      | some e => stopRes m e
      | none => okRes (m.plateWrite c o.dstLine data r.tile.vd o.tag) flags0

/-- Has a running tile staged a post of a chunk that its END will make visible (R94)? -/
def Module.postStaged (m : Module) (coll chunk : Nat) : Bool :=
  m.cores.any (fun e => match e.2.run with
    | some r => r.posts.any (fun p => collKey p.port p.collId == coll && p.chunk == chunk)
    | none => false)

/-- REDUCE_POST (R94, R247): the lines are staged, or the op waits at the engine while its slot is held. -/
def Module.stagePost (m : Module) (c : Nat) (r : Running) (o : PostOp) : OpOut :=
  let k := collKey o.port o.collId
  let busy := match m.coll? k with
    | some x => x.slotBusy o.chunk || (o.chunk ≥ x.window && m.postStaged k (o.chunk - x.window))
    | none => false
  if busy then stopRes m .later
  else
    let p : Post :=
      { port := o.port, collId := o.collId, chunk := o.chunk, fmt := o.fmt, anchor := o.anchor, ctx := r.tile.ctx, core := c,
        lines := o.lines, data := (m.core c).readPlate o.srcLine (64 * o.lines) }
    okRes (m.modRun c (fun r => { r with posts := r.posts ++ [p] })) flags0

/-- The movement of data of a transfer op; once it need not be tried again, the translations held for it alone go (R178). -/
def Module.moveOp (m : Module) (c : Nat) (r : Running) (op : TileOp) : OpOut :=
  match op.body with
  | .xferIn o => done (m.xfer c r o false)
  | .xferOut o => done (m.xfer c r o true)
  | .peerPush o => m.push c r o
  | .gather o =>
    let x := m.gather c r o
    (match x.res with
     | .later => x
     | _ => { x with m := (List.range o.pages).foldl (fun m i => m.served (.seqPage o.seqId (o.firstPage + i))) x.m })
  | .reducePost o => m.stagePost c r o
  | _ => okRes m flags0
where
  done (x : OpOut) : OpOut :=
    match x.res with
    | .later => x
    | _ => { x with m := x.m.served (.core c r.tile.uid r.next) }

def effXferIn (c : Nat) : Module → Module :=
  Module.issue c (fun b => match b with | .xferIn _ => true | _ => false) (fun m r op => m.moveOp c r op)

def effXferOut (c : Nat) : Module → Module :=
  Module.issue c (fun b => match b with | .xferOut _ => true | _ => false) (fun m r op => m.moveOp c r op)

def effPeerPush (c : Nat) : Module → Module :=
  Module.issue c (fun b => match b with | .peerPush _ => true | _ => false) (fun m r op => m.moveOp c r op)

def effGather (c : Nat) : Module → Module :=
  Module.issue c (fun b => match b with | .gather _ => true | _ => false) (fun m r op => m.moveOp c r op)

def effReducePost (c : Nat) : Module → Module :=
  Module.issue c (fun b => match b with | .reducePost _ => true | _ => false) (fun m r op => m.moveOp c r op)

/-! ### The end of an op (R97, R98, R105) -/

/-- Try the movement of an op in flight again. -/
def Module.retryMove (m : Module) (c k : Nat) : Module :=
  match m.running? c with
  | none => m
  | some r =>
    match r.inflight.find? (fun x => x.idx == k && !x.moved), r.tile.ops[k]? with
    | some _, some op =>
      let o := m.moveOp c { r with next := k } op
      (match o.res with
       | .ok f => o.m.modRun c (fun r => { r with inflight := r.inflight.map (fun x => if x.idx == k then { x with moved := true, flags := f } else x) })
       | .later => o.m
       | .error e => o.m.errEnd c e
       | .lost e => o.m.lostEnd c e
       | .seqLost id e => o.m.seqEnd c id e
       | .badLine l p s => o.m.lineEnd c l p s)
    | _, _ => m

/-- A REDUCE_POST that waited for its staging slot goes on (R247). -/
def effPostStagingFree (c : Nat) (m : Module) : Module :=
  match m.running? c with
  | none => m
  | some r =>
    each (r.inflight.filter (fun x => !x.moved)) m (fun m x =>
      match r.tile.ops[x.idx]? with
      | some op => (match op.body with | .reducePost _ => m.retryMove c x.idx | _ => m)
      | none => m)

/-- The residency entry an ended op records: the core that received the data, tag, first line and lines (R105, R107). -/
def Tile.recorded (t : Tile) (c k : Nat) (b : OpBody) : Option (Nat × Nat × Nat × Nat) :=
  match b with
  | .xferIn o =>
    if o.tag = 0 then none
    else match t.src with
      | .fill _ => (t.tagSpans.find? (·.1 == k)).map (fun s => (c, o.tag, s.2.1, s.2.2))
      | _ => some (c, o.tag, o.plateLine, o.rows * o.lines)
  | .gather o => if o.tag = 0 then none else some (c, o.tag, o.dstLine, o.pages * o.bpp / 64)
  | .peerPush o => if o.tag = 0 then none else some (o.dstCore, o.tag, o.dstLine, o.lines)
  | _ => none

/-- An op ends: the cycles that it was held by a translation miss are counted, its movement is tried again if it was missing, and once its data has moved its
flags join the status, its tag is recorded and its hazards are released. -/
def effOpComplete (c k held : Nat) (m : Module) : Module :=
  let m := m.retryMove c k
  match m.running? c with
  | none => m
  | some r =>
    match r.inflight.find? (·.idx == k), r.tile.ops[k]? with
    | some x, some op =>
      let m := (m.count (CORE_HELD_XLAT_held c) held).modRun c (fun r => { r with held := r.held + held })
      let m := if held = 0 then m else m.noteCore c 8
      if !x.moved || (r.stall != .none && k + 1 == r.next) then m
      else
        let m := m.modRun c (fun r => { r with inflight := r.inflight.filter (·.idx != k), status := r.status.or x.flags })
        (match (if x.on then r.tile.recorded c k op.body else none) with
         | some (d, tag, first, lines) => m.modCore d (fun k => k.recordTag r.tile.vd tag first lines)
         | none => m)
    | _, _ => m

/-! ### The end of a tile (R24, R95, R361, R364, R371) -/

/-- Tiles of an EXEC. -/
def Cmd.nTiles (c : Cmd) : Nat := fieldOf c.body 36 2

/-- A host tile reached END: the command's counts, and the completing update at the last one. -/
def Module.cmdTileEnd (m : Module) (q i : Nat) (status : Flags) (vd : Nat) : Module :=
  match m.cmd? q i with
  | none => m
  | some c =>
    let ended := c.ended + 1
    let m := m.modCmd q i (fun c => { c with ended := ended, flags := c.flags ||| status.toNat, result := ended })
    if m.wordState q i ≠ cswPICKED then m
    else if ended ≥ c.nTiles then m.finish q i (m.okStatus vd) 0
    else m.setWord q i cswPICKED 0 (c.nTiles - ended)

/-- END: publishes the tile's signals in op order, its posts and its status, unless its command was aborted or a WAIT
met a lost timeline; then sig_tl of a command whose last tile it was. -/
def effEnd (c : Nat) (m : Module) : Module :=
  match m.running? c with
  | none => m
  | some r =>
    match r.nextOp with
    | none => m
    | some op =>
      if op.body != .endOp || !m.canIssue c r op then m
      else
        let m := m.noteIssue c
        let t := r.tile
        let silent := r.depLost || (match t.cmdKey with
          | some (q, i) => m.wordState q i != cswPICKED
          | none => false)
        let m := m.dropRun c
        let m := (m.count (CORE_TILES_tiles c) 1).modCtx t.ctx (fun x => { x with tiles := x.tiles + 1 })
        let before := m.obj.done.length
        let m := match t.cmdKey with | some (q, i) => m.cmdTileEnd q i r.status t.vd | none => m
        let m := if silent then m else each r.signals m (fun m s => m.signalTl s.1 s.2 t.ctx)
        let m := if silent then m else each r.posts m (fun m p => m.collPost p)
        let m := m.addPrint t r.writes r.signals
        let m := match t.cmdKey with
          | some (q, i) => (match (m.obj.done.drop before).find? (fun (d : Done) => d.queue == q && d.index == i) with
            | some d => m.signalCmd q i d.status
            | none => m)
          | none => m
        m.forgetTile t

/-! ### Injections (R110) -/

/-- Injection is refused for a core of a confidential partition (R110, R434). -/
def Module.coreOpen (m : Module) (c : Nat) : Bool := match corePart m.recs c with | some p => !m.conf p | none => true

def effInjResidue (c : Nat) (m : Module) : Module := if m.coreOpen c then m.modCore c (fun k => { k with injResidue := true }) else m
def effInjPlateCe (c : Nat) (m : Module) : Module := if m.coreOpen c then m.modCore c (fun k => { k with injPlateCe := true }) else m
def effInjPlateUe (c : Nat) (m : Module) : Module := if m.coreOpen c then m.modCore c (fun k => { k with injPlateUe := true }) else m
def effInjAccParity (c : Nat) (m : Module) : Module := if m.coreOpen c then m.modCore c (fun k => { k with injAccParity := true }) else m
def effTagFlush (c : Nat) (m : Module) : Module := m.modCore c (fun k => { k with tags := [] })

/-! ### Failed translations of sequence pages (R163) -/

/-- Act on them: an attempt that waits for such a page ends, or the copy of it, and the sequence is lost. -/
def Module.actPageFails (m : Module) : Module :=
  let l := m.xlat.pageFails
  let m := m.setXlat (fun x => { x with pageFails := [] })
  each l m (fun m f =>
    let hit (r : Running) : Bool := r.inflight.any (fun x => !x.moved && (match r.tile.ops[x.idx]? with
      | some op => (match op.body with | .gather g => g.seqId == f.1 && g.firstPage ≤ f.2 && f.2 < g.firstPage + g.pages | _ => false)
      | none => false))
    let m := each (m.cores.filter (fun e => match e.2.run with | some r => hit r | none => false)) m
      (fun m e => m.seqEnd e.1 f.1 lcPOOL_FAIL)
    each (m.seq.copies.filter (fun c => c.seq == f.1 && c.page == f.2)) m (fun m c => m.copyFails c))

/-- A page read of a GATHER fails with UR, CA or a timeout, or its tier-3 read fails (R163). -/
def Module.gatherReadFail (m : Module) (c : Nat) : Module :=
  match m.running? c with
  | none => m
  | some r =>
    match r.inflight.filterMap (fun x => match r.tile.ops[x.idx]? with
      | some op => (match op.body with
        | .gather g => (match m.seq? g.seqId with
          | some q => if (List.range g.pages).any (fun i => let e := m.pageEntry q (g.firstPage + i); e.tier == 2 || e.tier == 3) then some g.seqId else none
          | none => none)
        | _ => none)
      | none => none) with
    | id :: _ => m.seqEnd c id lcPOOL_FAIL
    | [] => m

end Sys2Proof.Machine
end

