-- ==== Sys2Proof/Machine/Sched.lean ====
section
/-!
DEFINITION. Admission, placement and the lists (R12 to R21, R29, R81, R82, R105 to R107, R158, R181, R186, R379):
starting tiles, choosing cores, fill tiles, loading and checking bodies, and taking tiles into the lists of the next frame.
-/
namespace Sys2Proof.Machine

/-! ### Clocks and the admission limit (R12, R13, R400) -/

/-- Window of a block in ac in the present frame; the long window of R13 every 256 frames. -/
def Module.winAc (m : Module) (c : Nat) : Nat :=
  let f := m.blockMHz c
  let w := windowAc m.recs
  if w < f && m.F % 256 == 0 then f else w

/-- L of a block (R12). -/
def Module.limitAc (m : Module) (c : Nat) : Nat := periodNs m.recs * m.blockMHz c / 1000 - m.winAc c

/-- Nanoseconds into the frame at which the window of a block opens. -/
def Module.openNs (m : Module) (c : Nat) : Nat := m.limitAc c * 1000 / m.blockMHz c

/-- When the window has opened on every block of the module. -/
def Module.windowNs (m : Module) : Nat := (List.range 64).foldl (fun a b => max a (m.openNs (b * 16))) 0

/-! ### Starting a tile (R15, R16, R84, R95) -/

/-- Do two tiles belong to one stream of one list? -/
def Tile.sameStream (a b : Tile) : Bool := a.core == b.core && a.be == b.be && a.ctx == b.ctx && a.hdr.streamId == b.hdr.streamId

/-- Are the dependencies of a tile satisfied (R79)? -/
def Module.depsMet (m : Module) (t : Tile) : Bool :=
  t.hdr.deps.all (fun d => match m.obj.tls.get? d.1 with | some x => x.reached d.2 | none => false)

/-- The first tile of a class that is ready and fits at ac `t` on a core. -/
def Module.pickTile (m : Module) (c ac : Nat) (be : Bool) : Option Tile :=
  go [] m.lists
where
  go (before : List Tile) : List Tile → Option Tile
    | [] => none
    | t :: rest =>
      if t.core == c && t.be == be && t.joined && m.depsMet t && !before.any (fun b => b.sameStream t && b.joined) &&
          ac + t.hdr.declared ≤ m.limitAc c && m.runsVd t.vd &&
          (match t.cmdKey with | some (q, i) => m.wordState q i == cswPICKED | none => true) then some t
      else go (before ++ [t]) rest

/-- A tile begun: no flags, predicates and SRSET values zero (R95, R97). -/
def runInit (t : Tile) (ac : Nat) : Running :=
  { tile := t, startAc := ac, next := 0, inflight := [], status := flags0, preds := 0, seed := 0, idxBase := 0, idxStride := 0,
    signals := [], posts := [], stall := .none, depLost := false, held := 0, writes := [] }

/-- At a tile boundary or an idle cycle at ac `ac`, the sequencer starts the first ready tile that fits, LC before BE; a
die with BE suspended starts no BE tile (R412). -/
def effTileReady (c ac : Nat) (m : Module) : Module :=
  let m := m.setTick (fun t => { t with ns := ac * 1000 / m.blockMHz c })
  if m.tick.phase != .open_ || (m.running? c).isSome || (m.core c).clearing || m.quiet then m
  else
    let be := if m.flag (PWR_DIE_be_suspended (c / 128)) then none else m.pickTile c ac true
    match (match m.pickTile c ac false with | some t => some t | none => be) with
    | none => m
    | some t =>
      let m := { m with lists := m.lists.filter (fun x => x.uid != t.uid) }
      (m.modCore c (fun k => { k with run := some (runInit t ac), acc := none, lastCtx := some t.ctx })).fogStop c

/-- At ac `ac` a tile has used its declared count of counted cycles (R23). A held cycle counts none, so a gated tile does not
overrun its budget (R22, R407). -/
def effBudgetOverrun (c ac : Nat) (m : Module) : Module :=
  match m.running? c with
  | none => m
  | some r => if m.gated c || ac - r.startAc - r.held < r.tile.hdr.declared then m else m.overrunEnd c false

/-- Step 1: every running tile is aborted (R23, R27). -/
def Module.closeAdmission (m : Module) : Module :=
  each (m.cores.filter (fun e => e.2.run.isSome)) m (fun m e => m.overrunEnd e.1 true)

/-! ### Placement (R19 to R21, R105 to R107) -/

/-- Is an input descriptor covered on a core (R106)? -/
def Core.covers (k : Core) (vd : Nat) (d : InputDesc) : Bool :=
  k.tags.any (fun t => t.vd == vd && t.tag == d.tag && t.first == d.plateLine && d.lines ≤ t.lines)

def Module.coveredBytes (m : Module) (c : Nat) (t : Tile) : Nat :=
  ((t.hdr.inps.filter ((m.core c).covers t.vd)).map (fun d => d.lines * 64)).foldl (· + ·) 0

/-- Is a core bound to a device and neither retired nor leaving? -/
def Module.coreBound (m : Module) (c vd : Nat) : Bool := coreVd m.nextRecs c == some vd

/-- The core of a new tile: most bytes covered, then lowest ID (R19). -/
def Module.chooseCore (m : Module) (t : Tile) : Option Nat :=
  let cand := if t.hdr.anyCore then vdCores m.nextRecs t.vd else (sortBy id t.hdr.cand).filter (fun c => m.coreBound c t.vd)
  (cand.foldl (fun (b : Option (Nat × Nat)) c =>
    let n := m.coveredBytes c t
    match b with | some (_, k) => if k < n then some (c, n) else b | none => some (c, n)) none).map (·.1)

/-- Mark the entries that cover a tile's inputs used by placement (R105). -/
def Module.touchTags (m : Module) (c : Nat) (t : Tile) : Module :=
  m.modCore c (fun k =>
    let hit (e : ResEntry) : Bool := t.hdr.inps.any (fun d => e.vd == t.vd && e.tag == d.tag && e.first == d.plateLine && d.lines ≤ e.lines)
    { k with tags := k.tags.filter (fun e => !hit e) ++ k.tags.filter hit })

/-- The XFER_IN of a fill tile for lines `lo` to `lo + n - 1` of a descriptor. -/
def fillXfer (d : InputDesc) (lo n : Nat) : TileOp :=
  { psel := 0, pen := false, pinv := false,
    body := .xferIn { engine := 0, both := true, path := d.path, slot := d.slot, plateLine := d.plateLine + lo, lines := n,
                      offset := d.offset + 64 * lo, tag := d.tag, rows := 1, stride := 0 } }

def endTileOp : TileOp := { psel := 0, pen := false, pinv := false, body := .endOp }

def fillOps (ds : List InputDesc) : List TileOp := ds.map (fun d => fillXfer d 0 d.lines) ++ [endTileOp]

/-- Does a list of ops fit within 4,096 ac? -/
def fits (r : Rates) (c : Nat) (ops : List TileOp) : Bool := match tileCost r c ops with | some n => n ≤ 4096 | none => false

/-- The most lines of a descriptor that one fill tile carries, below or at `hi`; 0 when not even one fits. -/
def maxLines (r : Rates) (c : Nat) (d : InputDesc) (lo hi : Nat) : Nat := go 0 (hi + 1) 18
where
  -- largest n in [a, b) that fits, knowing that a fits or is 0 and b does not
  go (a b : Nat) : Nat → Nat
    | 0 => a
    | fuel + 1 =>
      if b ≤ a + 1 then a
      else
        let mid := (a + b) / 2
        if fits r c [fillXfer d lo mid, endTileOp] then go mid b fuel else go a mid fuel

/-- What one fill tile carries: its ops, declared count, and the entries it records by op index. -/
structure FillPlan where
  ops : List TileOp
  declared : Nat
  spans : List (Nat × Nat × Nat)
  deriving DecidableEq, Repr

/-- Cut a descriptor that does not fit alone into pieces. -/
def splitDesc (r : Rates) (c : Nat) (d : InputDesc) : List FillPlan := go 0 d.lines
where
  go (lo : Nat) : Nat → List FillPlan
    | 0 => []
    | fuel + 1 =>
      if lo ≥ d.lines then []
      else
        let n := maxLines r c d lo (d.lines - lo)
        if n = 0 then
          (if lo = 0 then [{ ops := fillOps [d], declared := 4096, spans := [(0, d.plateLine, d.lines)] }] else [])
        else
          let ops := [fillXfer d lo n, endTileOp]
          { ops := ops, declared := (tileCost r c ops).getD 4096,
            spans := if lo + n ≥ d.lines then [(0, d.plateLine, d.lines)] else [] } :: go (lo + n) fuel

/-- The fill tiles for the missing descriptors, in their order (R107). -/
def fillPlans (r : Rates) (c : Nat) (ds : List InputDesc) : List FillPlan := go [] ds
where
  flush (acc : List InputDesc) : List FillPlan :=
    if acc.isEmpty then []
    else [{ ops := fillOps acc, declared := (tileCost r c (fillOps acc)).getD 4096,
            spans := acc.zipIdx.map (fun d => (d.2, d.1.plateLine, d.1.lines)) }]
  go (acc : List InputDesc) : List InputDesc → List FillPlan
    | [] => flush acc
    | d :: rest =>
      if fits r c (fillOps (acc ++ [d])) then go (acc ++ [d]) rest
      else if fits r c (fillOps [d]) then flush acc ++ go [d] rest
      else flush acc ++ splitDesc r c d ++ go [] rest

/-- Discard the fill tiles of a tile that have not started (R20). -/
def Module.dropFills (m : Module) (uid : Nat) : Module := m.removeTiles (fun t => t.src == .fill uid)

/-- Bytes of op store in use on a core (R81): bodies of tiles listed or running there. -/
def Module.opStoreUsed (m : Module) (c : Nat) : Nat :=
  ((m.lists ++ m.nextLists ++ m.retries).filter (fun t => t.core == c && t.loaded)).foldl (fun n t => n + t.hdr.bytes) 0 +
  (match m.running? c with | some r => r.tile.hdr.bytes | none => 0)

/-- Has the op store of a core room for a body of `n` bytes (R81)? -/
def Module.opRoom (m : Module) (c n : Nat) : Bool := m.opStoreUsed c + n ≤ 131072

/-! ### Reading tiles (R81, R352, R357) -/

/-- Outcome of a read through a memory object. -/
inductive StreamRead where
  | data (bs : List Byte)
  | wait
  | range
  | uncorrectable (line : Nat)
  deriving DecidableEq, Repr

/-- Read bytes at a virtual address of a context. -/
def Module.readVa (m : Module) (ctx va len : Nat) (j : Joiner) : Module × StreamRead :=
  match m.translateRange (m.ctxFn ctx) (m.ctxPasid ctx) va len false j with
  | (m, .wait) => (m, .wait)
  | (m, .got ps) =>
    if ps.any (fun p => p.1 == .remote) then (m, .range)
    else ps.foldl (fun (acc : Module × StreamRead) p =>
      match acc.2 with
      | .data bs =>
        (match p.1 with
         | .loc off =>
           (match acc.1.memRead (acc.1.ctxPart ctx) off p.2 with
            | (m, .ok, b) => (m, .data (bs ++ b))
            | (m, .refused, _) => (m, .range)
            | (m, .uncorrectable l, _) => (m, .uncorrectable l))
         | .host pa => let (m, b) := acc.1.hostRead (acc.1.ctxFn ctx) pa p.2; (m, .data (bs ++ b))
         | .remote => (acc.1, .range))
      | _ => acc) (m, .data [])

/-- The memory object that holds a tile. -/
def Module.streamObj (m : Module) (handle : Nat) : Option MemObj :=
  (m.obj.mos.get? (bits handle 0 24)).bind (fun o => if o.gen = bits handle 24 8 then some o else none)

/-- Load and check a tile's body on its core (R81, R82). The state may have lost the tile's context. While a MOVE_CTX of the window
may still give the tile another device, a PEER_PUSH that names no core of the present one is judged after step 7 (R292, R358). -/
def Module.loadTile (m : Module) (t : Tile) : Module × Tile :=
  if t.loaded || t.waitRepair.isSome then (m, t)
  else if t.isFill then (m, { t with loaded := true })
  else match m.streamObj t.stream with
    | none => (m.markLost t.ctx lostBAD_OBJECT, t)
    | some ob =>
      let len := if t.hdr.nOps == 0 || t.hdr.nOps > 1020 then 128 else t.hdr.bytes
      match m.readVa t.ctx (ob.va + t.offset) len (.body t.uid t.ctx) with
      | (m, .wait) => (m, t)
      | (m, .range) => (m.markLost t.ctx lostMEM_RANGE, t)
      | (m, .uncorrectable l) =>
        if m.repairable t.vd (m.ctxPart t.ctx) l ob.precious then (m.noteVd t.vd 2, { t with waitRepair := some { line := l, seq := none, frame := m.F } })
        else ((m.dataLost l 2 (m.ctxPart t.ctx) (some t.ctx)).markLost t.ctx lostDATA_LOST, t)
      | (m, .data raw) =>
        (match loadCheck raw t.core (vdCores m.nextRecs t.vd) with
         | .inl (reason, idx) => if reason = tiPEER_TARGET && m.tick.phase != .cutoff then (m, t) else ((m.coreFault t.core reason idx t.ctx).markLost t.ctx lostTILE_INVALID, t)
         | .inr ops => (m.served (.body t.uid t.ctx), { t with loaded := true, ops := ops, hdr := parseHeader raw }))

/-- Load a tile's body if the op store of its core has room for it (R81). -/
def Module.loadBody (m : Module) (t : Tile) : Module × Tile :=
  let size := if t.hdr.nOps > 1020 then 128 else t.hdr.bytes
  if !t.loaded && !m.opRoom t.core size then (m, t) else m.loadTile t

/-! ### Fetching before admission (R181, R182) -/

/-- Byte ranges a tile names statically: slot, offset, length, write. -/
def Tile.ranges (t : Tile) : List (Nat × Nat × Nat × Bool) :=
  t.hdr.inps.map (fun d => (d.slot, d.offset, 64 * d.lines, false)) ++
  t.ops.flatMap (fun o => match o.body with
    | .xferIn x => (List.range x.rows).map (fun i => (x.slot, x.offset + i * x.stride, 64 * x.lines, false))
    | .xferOut x => (List.range x.rows).map (fun i => (x.slot, x.offset + i * x.stride, 64 * x.lines, true))
    | _ => [])

/-- Those ranges at their virtual addresses: address, length, write. -/
def Module.vaRanges (m : Module) (t : Tile) : List (Nat × Nat × Bool) :=
  t.ranges.filterMap (fun r => (m.slotObj t r.1).map (fun ob => (ob.va + r.2.1, r.2.2.1, r.2.2.2)))

/-- Does a range lie on a page? -/
def onPage (r : Nat × Nat × Bool) (p : Nat) : Bool := r.1 < p + 4096 && p < r.1 + r.2.1

/-- Add the pages from `p` on to a list of at most 64, each once. -/
def addPages (l : List Nat) (p : Nat) : Nat → List Nat
  | 0 => l
  | n + 1 => if l.length ≥ 64 then l else addPages (insertU l p) (p + 4096) n

/-- The first 64 pages a tile names, each with whether the tile writes it (R181). -/
def Module.fetchPages (m : Module) (t : Tile) : List (Nat × Bool) :=
  let rs := m.vaRanges t
  (rs.foldl (fun l r => addPages l (pageOf r.1) ((r.1 + r.2.1 - 1) / 4096 + 1 - r.1 / 4096)) []).map
    (fun p => (p, rs.any (fun r => r.2.2 && onPage r p)))

/-- Ask for the translations of these pages. -/
def Module.prefetch (m : Module) (t : Tile) : Module :=
  each (m.fetchPages t) m (fun m p => (m.translate (m.ctxFn t.ctx) (m.ctxPasid t.ctx) p.1 p.2 (.tile t.uid t.ctx)).1)

/-- Put the fill tiles of a tile into the lists being built; one for which the op store has no room beside the tile's own body, where
that is loaded, waits for it. Each fetches the translations of its own transfers (R181). -/
def Module.addFills (m : Module) (t : Tile) : Module :=
  let own := if t.loaded then t.hdr.bytes else 0
  let missing := t.hdr.inps.filter (fun d => !(m.core t.core).covers t.vd d)
  each (fillPlans (m.rates t.ctx t.be) t.core missing) m (fun m p =>
    let room := m.opRoom t.core (own + 128 + 32 * p.ops.length)
    let f : Tile := { t with
      uid := m.uidNext, src := .fill t.uid,
      hdr := { t.hdr with nOps := p.ops.length, declared := p.declared, fill := true, deps := [], inps := [], cand := [t.core], anyCore := false },
      ops := p.ops, loaded := room, joined := false, held := false, overruns := 0, errEnds := 0, lastErr := 0, ueLine := none, hold := 0,
      tagSpans := p.spans, waitRepair := none, candBad := false, noCore := false }
    let m : Module := { m with uidNext := m.uidNext + 1, nextLists := m.nextLists ++ [f] }
    m.prefetch f)

/-- Does an outstanding Page Request cover a page that the tile names statically (R186)? -/
def Module.pageHeld (m : Module) (t : Tile) : Bool :=
  let mine := m.xlat.pages.filter (fun r => r.sent && r.fn == m.ctxFn t.ctx && r.pasid == m.ctxPasid t.ctx)
  !mine.isEmpty && (m.vaRanges t).any (fun x => mine.any (fun r => onPage x r.page))

/-! ### The check of R158 -/

/-- Outcome of the check. -/
inductive GatherCheck where
  | pass
  | hold (lease : Option Nat)
  | gone
  deriving DecidableEq, Repr

/-- Check every GATHER of a tile in op order; a lost context or sequence takes the tile with it. DESIGN CHOICE (log entry 97): where the
leases of several sequences hold one tile, R159 does not say which becomes STATE_LOST; it is that of the last GATHER. -/
def Module.checkGathers (m : Module) (t : Tile) : Module × GatherCheck :=
  let gs := t.ops.filterMap (fun o => match o.body with | .gather g => some g | _ => none)
  gs.foldl (fun (acc : Module × GatherCheck) g =>
    let (m, r) := acc
    if r == .gone then acc
    else match m.seq? g.seqId with
      | none => (m.markLost t.ctx lostSEQ_RANGE, .gone)
      | some q =>
        if q.part ≠ m.ctxPart t.ctx || g.firstPage + g.pages > q.pageCount then (m.markLost t.ctx lostSEQ_RANGE, .gone)
        else if q.lost then (m.stateLostCmd t, .gone)
        else
          let pages := (List.range g.pages).map (g.firstPage + ·)
          if pages.any (fun p => (m.pageEntry q p).tier == tierABSENT) then ((m.loseSeq g.seqId lcNO_TIER).stateLostCmd t, .gone)
          else
            let r := if q.serving (m.F + 1) then r else .hold (some g.seqId)
            if !q.direct && pages.any (fun p => !m.tier0 g.seqId q p) then
              let m := each pages m (fun m p => if m.tier0 g.seqId q p then m else m.startPull g.seqId p)
              let pulling := pages.all (fun p => m.tier0 g.seqId q p || (m.pageEntry q p).pulling)
              (m, if pulling && r == .pass then .hold none else r)
            else (m, r)) (m, .pass)

/-! ### Taking a tile into the lists of the next frame -/

/-- Each record shows the largest hold count among the held tiles of its sequence (R152, R159). -/
def Module.showHolds (m : Module) : Module :=
  let held := (m.lists ++ m.nextLists).filter (·.held)
  m.setSeq (fun s => { s with recs := s.recs.map (fun e =>
    (e.1, { e.2 with hold := (held.filter (·.gathers e.1)).foldl (fun n t => max n (min 16 t.hold)) 0 })) })

/-- The consumer code of the read that a tile waits for (R382). -/
def Tile.repairCode (t : Tile) (x : Repair) : Nat := if x.seq.isSome then 4 else if t.loaded then 1 else 2

/-- The twin's read for the repair of a tile's line fails: the fallback of R382 applies in the window (R383). -/
def Module.repairFails (m : Module) (uid : Nat) : Module :=
  match (m.lists ++ m.nextLists ++ m.retries).find? (fun t => t.uid == uid && t.waitRepair.isSome) with
  | none => m
  | some t => match t.waitRepair with
    | none => m
    | some x =>
      let m := m.dataLost x.line (t.repairCode x) (m.ctxPart t.ctx) (some t.ctx)
      -- nothing is left to be repaired
      let stop (l : List Tile) : List Tile := l.map (fun y => if y.uid = uid then { y with waitRepair := none } else y)
      let m := { m with lists := stop m.lists, nextLists := stop m.nextLists, retries := stop m.retries }
      match x.seq with
      | some id => m.setSeq (fun s => { s with toLose := s.toLose ++ [(id, lcPOOL_FAIL)] })
      | none => m.willLose t.ctx lostDATA_LOST

/-- A read of a tier-2 or tier-3 page fails (R163): a GATHER's, or that of a copy in progress. -/
def effTier2ReadFail (x : PageReader) (m : Module) : Module :=
  match x with
  | .gather c => m.gatherReadFail c
  | .copy id page =>
    match m.seq.copies.find? (fun c => c.seq == id && c.page == page && !c.done), m.seq? id with
    | some c, some q =>
      let t := (m.pageEntry q page).tier
      if t = 2 || t = 3 then m.copyFails c else m
    | _, _ => m
  | .repair uid => m.repairFails uid

/-- Repair of a line from the twin (R383), from the window after the frame that found the error: a LOCKSTEP twin has passed step 1
of its own, and a SHADOW has received and committed that frame's negative. The line is read from the same local offset of the twin,
written with new ECC where the redirects of R296 send it, and read back; a failed read-back fails the channel. Without the pair the
fallback of R382 applies: the context is lost, or the sequence whose page a GATHER read (R164); the tile is then gone. -/
def Module.repairLine (m : Module) (t : Tile) : Module × Option Tile :=
  match t.waitRepair with
  | none => (m, some t)
  | some x =>
    let t' : Tile := { t with waitRepair := none }
    if m.twin.state != tsPAIRED then
      let m := m.dataLost x.line (t.repairCode x) (m.ctxPart t.ctx) (some t.ctx)
      match x.seq with
      | some id => ((m.loseSeq id lcPOOL_FAIL).stateLostCmd t, none)
      | none => (m.markLost t.ctx lostDATA_LOST, none)
    else if !frameLt x.frame m.F || !m.portUp 16 || (!m.isLockstep t.vd && m.negWaits t.vd x.frame) then (m, some t)
    else
      let line := m.offsetOf x.line
      let base := if chanOf line < 512 then alignDown line 64 else alignDown line 256
      let n := if chanOf line < 512 then 64 else 256
      let m := m.store base (m.twinMem.read base n)
      let ch := chanOf line
      let m := m.logEvent (if ch < 512 then clsHBM else clsDDR5) errTWIN_REPAIRED 0 (if ch < 512 then 3 else 4)
        (if ch < 512 then ch else ch - 512) (m.linePart line) none line
      let m := m.raise RAS_EVENT_twin_repair
      match m.readLine line with
      | (m, .good) => (m, some t')
      | (m, .uncorrectable) => (m.repeatEvent (if ch < 512 then 4 else 6) (if ch < 512 then ch else ch - 512), some t')

/-- A dependency names a lost timeline (R371). -/
def Module.depsLost (m : Module) (t : Tile) : Bool :=
  t.hdr.deps.any (fun d => match m.obj.tls.get? d.1 with | some x => m.tlLost x | none => true)

/-- Is a tile still known to the module? -/
def Module.tileLive (m : Module) (t : Tile) : Bool :=
  match m.ctx? t.ctx with
  | some x => !x.lost && (match t.cmdKey with | some (q, i) => m.wordState q i == cswPICKED | none => true)
  | none => false

/-- Place a tile on a core of its device, with its fill tiles (R19, R20). A tile that finds no core waits for the end of
step 7, because a MOVE_CTX of the same window may still give it one (R21, R358). -/
def Module.placeTile (m : Module) (t : Tile) : Module × Tile :=
  let m := m.dropFills t.uid
  match m.chooseCore t with
  | none => (m, { t with noCore := true })
  | some c =>
    let t := { t with core := c, loaded := t.loaded && t.core == c, lastErr := 0, noCore := false }
    ((m.touchTags c t).addFills t, t)

/-- Load and prefetch a placed tile, and put it at the end of the lists being built. -/
def Module.listTile (m : Module) (t : Tile) : Module :=
  let (m, t) := if t.noCore then (m, t) else m.loadBody t
  if !m.tileLive t then m.forgetTile t
  else if t.noCore then { m with nextLists := m.nextLists ++ [t] }
  else
    let m := m.prefetch t
    { m with nextLists := m.nextLists ++ [t] }

/-- A context moved in this window: of its tiles already in the lists being built, those on a core that its new device has stay there
with their fill tiles, and the others are placed for that device (R292, R358). -/
def Module.replaceCtx (m : Module) (ctx vd : Nat) : Module :=
  each m.nextLists m (fun m t =>
    let m : Module := { m with nextLists := m.nextLists.filter (fun x => x.uid != t.uid) }
    if t.ctx != ctx then { m with nextLists := m.nextLists ++ [t] }
    else if !m.tileLive t then m.forgetTile t
    else if m.coreBound t.core vd then m.listTile { t with vd := vd, noCore := false }
    else match t.src with
      | .fill _ => m.forgetTile t
      | _ =>
        let (m, t) := m.placeTile { t with vd := vd }
        m.listTile t)

/-- Step 7 has stopped: a tile whose core now belongs to another device, and whose context stays where it was, is placed again in its
place in the lists (R292), and a tile that no core of its device can take loses its context (R21). -/
def Module.placeUnplaced (m : Module) : Module :=
  each (m.nextLists.filter (·.noCore)) m (fun m t =>
    if !m.nextLists.any (fun x => x.uid == t.uid) then m
    else if t.isFill || !m.tileLive t then m.removeTiles (·.uid == t.uid)
    else
      let after := (m.nextLists.dropWhile (fun x => x.uid != t.uid)).drop 1
      let (m, t) := { m with nextLists := m.nextLists.takeWhile (fun x => x.uid != t.uid) }.placeTile t
      let m := if t.noCore then (m.markLost t.ctx lostBUDGET).forgetTile t else m.listTile t
      each after m (fun m x => if m.tileLive x then { m with nextLists := m.nextLists ++ [x] } else m.forgetTile x))

/-- The step-8 treatment of one tile: lost dependencies, the check of R158, placement where it has none or must change,
fill tiles, loading, prefetch, and joining. -/
def Module.treatTile (m : Module) (t : Tile) (place : Bool) : Module :=
  let vd := match m.ctx? t.ctx with | some x => x.vd | none => t.vd
  let isFill := t.isFill
  if !m.tileLive t then m.forgetTile t
  else if !isFill && m.depsLost t then
    (match t.cmdKey with
     | some (q, i) => (m.depLost q i).forgetTile t
     | none => m.forgetTile t)
  else
    match m.repairLine t with
    | (m, none) => m.forgetTile t
    | (m, some t) =>
      let (m, chk) := m.checkGathers t
      if chk == .gone then m.forgetTile t
      else
        -- a tile that joined under R159 stays in the lists, unless a lease holds it now
        let held := match chk with | .hold (some _) => true | .hold none => !(t.joined && t.hold ≥ 16) | _ => false
        let t := if held then { t with hold := t.hold + 1 } else t
        let m := if held then m.count SEQ_HELD_count 1 else m
        let t := { t with held := held }
        if !m.tileLive t then m.forgetTile t
        else if t.candBad then (m.markLost t.ctx lostTILE_INVALID).forgetTile t
        else
          let replace := place || t.vd != vd || !m.coreBound t.core vd
          -- a core that went to another device may be followed by the context in step 7 (R292)
          let waits : Bool := !place && t.vd == vd && (match coreVd m.nextRecs t.core with | some d => d != vd | none => false)
          if waits then m.listTile { t with noCore := true }
          else if isFill && (t.vd != vd || !m.coreBound t.core vd) then m.forgetTile t
          else
            let t := { t with vd := vd }
            let (m, t) := if !replace || isFill then (m, t) else m.placeTile t
            m.listTile t

/-- Step 8 takes one tile; a context that it loses is one that step 8 marked (R371). -/
def Module.takeTile (m : Module) (t : Tile) (place : Bool) : Module := Module.inStep8 m (m.treatTile t place)

/-- Until the edge, bodies that waited for a translation are loaded and checked (R30, R81). -/
def Module.loadLate (m : Module) : Module :=
  if m.tick.phase == .open_ then m
  else each (m.nextLists.filter (fun t => !t.loaded && !t.noCore)) m (fun m t =>
    if !m.tileLive t then m
    else
      let (m', t') := m.loadBody t
      { Module.inStep8 m m' with nextLists := m'.nextLists.map (fun x => if x.uid = t.uid then t' else x) })

/-- What follows a translation event: failed pages, contexts lost in an open window, and bodies that can now be loaded. -/
def Module.afterXlat (m : Module) : Module := m.actPageFails.markInWindow.loadLate

/-- May a tile of the lists being built start in the frame that begins (R81, R158, R186, R383)? -/
def Module.mayJoin (m : Module) (t : Tile) : Bool :=
  !t.held && t.loaded && t.waitRepair.isNone && !m.pageHeld t &&
  !(m.lists ++ m.nextLists).any (fun f => f.src == .fill t.uid && !f.loaded)

/-- A tile held for 16 frames (R159): a hold for a lease loses the sequence, that of the last GATHER where several hold (log
entry 97); otherwise the tile joins. -/
def effHoldLimit (uid : Nat) (m : Module) : Module :=
  match (m.nextLists ++ m.lists).find? (fun t => t.uid == uid && !t.joined && t.hold ≥ 16) with
  | none => m
  | some t =>
    match m.checkGathers t with
    | (m, .gone) => m
    | (m, .hold (some id)) => (m.loseSeq id lcHOLD_LIMIT).raise SEQ_EVENT_hold_limit
    | (m, _) =>
      let f (x : Tile) : Tile := if x.uid = uid then (let x := { x with held := false }; { x with joined := m.mayJoin x }) else x
      { m with nextLists := m.nextLists.map f, lists := m.lists.map f }.showHolds.raise SEQ_EVENT_hold_limit

/-- May a tile be retried after an uncorrectable error in a plate line it read: its own scratch, or an input (R381)? -/
def Tile.ueRetries (t : Tile) (line : Nat) : Bool :=
  (scratchOf t.ops).any (fun i => i.1 ≤ line && line < i.2) ||
  t.hdr.inps.any (fun d => d.plateLine ≤ line && line < d.plateLine + d.lines)

/-- A retry keeps its core unless it was retired or unbound, or the error was an uncorrectable plate error (R379); then
it is placed again, and its inputs are filled again (R20, R381). -/
def Module.takeRetry (m : Module) (t : Tile) : Module := m.takeTile { t with ueLine := none } t.ueLine.isSome

/-- Step 8, first part: the retries in the order their attempts ended, then the carry-overs in their order (R29). -/
def Module.takeOld (m : Module) : Module :=
  let rec retries : Nat → Module → Module
    | 0, m => m
    | n + 1, m => match m.retries with
      | [] => m
      | t :: rest => retries n ({ m with retries := rest }.takeRetry t)
  let rec carry : Nat → Module → Module
    | 0, m => m
    | n + 1, m => match m.lists with
      | [] => m
      | t :: rest => carry n ({ m with lists := rest }.takeTile t false)
  let m := retries m.retries.length m
  carry m.lists.length m

end Sys2Proof.Machine
end

