-- ==== Sys2Proof/Machine/Queues.lean ====
section
/-!
DEFINITION. Queues and commands (R348 to R371): doorbells, references, aborts, pick-up, the OBJ commands, what takes
effect at the edge, completion records and release.
-/
namespace Sys2Proof.Machine

/-! ### Doorbells (R353 to R355) -/

/-- Are doorbells of a function served (R348)? -/
def Module.servesFn (m : Module) (fn : Nat) : Bool := m.obj.running && m.fnTakes fn

/-- Is the host served at all? -/
def Module.serves (m : Module) : Bool := m.obj.running

/-- TAIL with value `v` on a slot; `upper` holds doorbell bits 61 to 32, all reserved here. -/
def effTail (fn slot v upper : Nat) (m : Module) : Module :=
  if !m.servesFn fn then m
  else if upper ≠ 0 then m.dbBad
  else match m.slotQueue fn slot with
    | none => m.dbBad
    | some (q, k) =>
      let v := v % 2 ^ 32
      let n := 2 ^ k.log2
      if subMod 32 v k.picked > n || subMod 32 v k.tail > n then m.dbBad
      else
        let cnt := subMod 32 v k.tail
        let m := (List.range cnt).foldl (fun m i => m.setWord q ((k.tail + i) % 2 ^ 32) cswQUEUED 0 0) m
        (m.modQueue q (fun k => { k with tail := v })).holdQueue q cnt

/-- QC_HEAD (R355): the control word of a function that is there keeps the value written; the queue's head takes an accepted one. It
is no doorbell, so HOST_CTRL.enable does not matter to it (R336, R348). -/
def effQcHead (fn slot v : Nat) (m : Module) : Module :=
  let v := v % 2 ^ 32
  if !m.fnTakes fn || !m.fnNamed fn then m
  else
    let m := m.setObj (fun o => { o with qcHead := SMap.set (fun _ => 0) o.qcHead (fn * 2 ^ 16 + slot) v })
    match m.slotQueue fn slot with
    | none => m.dbBad
    | some (q, k) => if subMod 32 k.written v > 2 ^ k.log2 then m.dbBad else m.modQueue q (fun k => { k with head := v })

/-! ### References (R366, R367) -/

/-- Partition of an object; none when it is FREE. -/
def Module.objPart (m : Module) (ty value : Nat) : Option Nat :=
  match ty with
  | 0 => (m.ctx? (value % 2 ^ 20)).bind (fun c => if value < 2 ^ 20 then some c.part else none)
  | 1 => (m.queue? value).map (fun q => m.ctxPart q.ctx)
  | 2 => (m.obj.mos.get? (bits value 0 24)).bind (fun o => if o.gen = bits value 24 8 then some (m.ctxPart o.ctx) else none)
  | _ => (m.obj.tls.get? value).map (fun t => m.ctxPart t.ctx)

/-- Host count and state of an object. -/
def Module.objHost (m : Module) (ty value : Nat) : Nat × ObjState :=
  match ty with
  | 0 => (match m.ctx? value with | some c => (c.hostCount, c.state) | none => (0, .free))
  | 1 => (match m.queue? value with | some q => (q.hostCount, q.state) | none => (0, .free))
  | 2 => (match m.obj.mos.get? (bits value 0 24) with | some o => (o.hostCount, o.state) | none => (0, .free))
  | _ => (match m.obj.tls.get? value with | some t => (t.hostCount, t.state) | none => (0, .free))

/-- Set the host count of an object, and its state and the tails seen when it becomes RELEASING. -/
def Module.setHost (m : Module) (ty value n : Nat) (rel : Option (List (Nat × Nat))) : Module :=
  match ty with
  | 0 => m.modCtx value (fun c => match rel with
    | some l => { c with hostCount := n, state := .releasing, unrefAt := l } | none => { c with hostCount := n })
  | 1 => m.modQueue value (fun c => match rel with
    | some l => { c with hostCount := n, state := .releasing, unrefAt := l } | none => { c with hostCount := n })
  | 2 => m.modMo (bits value 0 24) (fun c => match rel with
    | some l => { c with hostCount := n, state := .releasing, unrefAt := l } | none => { c with hostCount := n })
  | _ => m.modTl value (fun c => match rel with
    | some l => { c with hostCount := n, state := .releasing, unrefAt := l } | none => { c with hostCount := n })

/-- Tails of the queues of a partition now. -/
def Module.tailsOf (m : Module) (part : Nat) : List (Nat × Nat) :=
  (m.obj.queues.filter (fun e => e.2.state != .free && m.ctxPart e.2.ctx == part)).map (fun e => (e.1, e.2.tail))

/-- REF (`up`) or UNREF of an object by a partition; `any` for PF software through HOST_REF. -/
def Module.refObj (m : Module) (up any : Bool) (part ty value : Nat) : Module :=
  match m.objPart ty value with
  | none => m.refBad
  | some p =>
    let (n, st) := m.objHost ty value
    if !any && p ≠ part then m.refBad
    else if up then (if st != .live || n ≥ 65535 then m.refBad else m.setHost ty value (n + 1) none)
    else if n = 0 then m.refBad
    else m.setHost ty value (n - 1) (if n = 1 then some (m.tailsOf p) else none)

/-- A REF or UNREF doorbell; `upper` holds bits 61 to 32: the object type, then reserved bits. -/
def effDbRef (up : Bool) (fn slot value upper : Nat) (m : Module) : Module :=
  if !m.servesFn fn then m
  else if bits upper 2 28 ≠ 0 || (m.slotQueue fn slot).isNone then m.dbBad
  else match fnPart m.recs fn with
    | none => m.dbBad
    | some p => m.refObj up false p (bits upper 0 2) (value % 2 ^ 32)

def effRef (fn slot value upper : Nat) (m : Module) : Module := effDbRef true fn slot value upper m
def effUnref (fn slot value upper : Nat) (m : Module) : Module := effDbRef false fn slot value upper m

/-- A write of HOST_REF_HI with the value of HOST_REF_LO (R372), which HOST_CTRL.enable does not stop (R348). -/
def effHostRef (value upper : Nat) (m : Module) : Module :=
  let op := bits upper 30 2
  if (op ≠ 1 && op ≠ 2) || bits upper 2 28 ≠ 0 then m.refBad
  else m.refObj (op == 1) true 0xFF (bits upper 0 2) (value % 2 ^ 32)

/-! ### Aborts (R363, R364) -/

/-- Entries of a command by its kind. -/
def kindEntries (kind : Nat) : Nat := if kind = 2 ∨ kind = 3 then 2 else 1

def Module.addReply (m : Module) (q index status detail : Nat) : Module :=
  m.modQueue q (fun k => { k with replies := k.replies ++ [{ index := index, status := status, detail := detail }] })

/-- The device of a queue's context. -/
def Module.queueVd (m : Module) (k : Queue) : Nat := match m.ctx? k.ctx with | some c => c.vd | none => 0
def Module.queueDev (m : Module) (q : Nat) : Nat := match m.queue? q with | some k => m.queueVd k | none => 0

/-- ABORT of command index `i`. -/
def effAbort (fn slot i upper : Nat) (m : Module) : Module :=
  if !m.servesFn fn then m
  else if upper ≠ 0 then m.dbBad
  else match m.slotQueue fn slot with
    | none => m.dbBad
    | some (q, k) =>
      let i := i % 2 ^ 32
      let d := subMod 32 k.tail i
      if d = 0 || d > 2 ^ k.log2 || m.isLockstep (m.queueVd k) then m.addReply q i stREJECTED 0xF3
      else
        let w := m.csw (k.word i)
        let st := bits w 0 3
        if st = cswEMPTY then m.addReply q i stREJECTED 0xF3
        else if st = cswQUEUED then m.setWord q i cswABORTED stABORTED 0
        else if st = cswPICKED then
          (m.setWord q i cswABORTED stABORTED 0).setObj (fun o =>
            { o with done := o.done ++ [{ queue := q, index := i, status := stABORTED, detail := 0 }] })
        else m.addReply q i stALREADY_DONE (if st = cswABORTED then stABORTED else bits w 8 8)

/-! ### HOST_CTRL (R348, R372) -/

/-- A write of HOST_CTRL.enable. -/
def effHostEnable (m : Module) : Module :=
  if m.flag HOST_CTRL_lock || m.obj.running then m
  else if m.tablesOk then
    (((m.setFld HOST_CTRL_enable 1).setFld HOST_STATUS_running 1).setFld HOST_STATUS_bad_config 0).setObj (fun o => { o with running := true })
  else m.setFld HOST_STATUS_bad_config 1

/-- A write of 0 to HOST_CTRL.enable while the register is not locked: doorbells and pick-up stop (R348). -/
def effHostDisable (m : Module) : Module :=
  if m.flag HOST_CTRL_lock then m
  else ((m.setFld HOST_CTRL_enable 0).setFld HOST_STATUS_running 0).setObj (fun o => { o with running := false })

/-- A write of HOST_CTRL.lock. -/
def effHostLock (m : Module) : Module := m.setFld HOST_CTRL_lock 1

/-! ### Reading the command ring (R352, R356) -/

/-- Address of entry `i` of a queue's command ring. -/
def Queue.entryVa (k : Queue) (i : Nat) : Nat := k.cmdVa + (i % 2 ^ k.log2) * 64

/-- Record slots a pick-up still finds (R360). -/
def Module.ringRoom (m : Module) (q : Nat) (k : Queue) : Bool :=
  (m.obj.cmds.filter (·.queue == q)).length + 1 ≤ 2 ^ k.log2 - subMod 32 k.written k.head

/-- May step 7 look at a queue? Those of a device that the twin runs wait with their doorbells kept (R312). -/
def Module.queueReady (m : Module) (q : Nat) (k : Queue) : Bool :=
  k.state != .free && m.restored (match m.ctx? k.ctx with | some c => c.vd | none => 0) && m.runsVd (match m.ctx? k.ctx with | some c => c.vd | none => 0) && subMod 32 k.tailSeen k.picked != 0 && subMod 32 k.tailSeen k.picked < 2 ^ 31 && m.ringRoom q k

/-- A command header parsed (R356). -/
def cmdOf (q index ctx : Nat) (h payload : List Byte) : Cmd :=
  let fl := fieldOf h 1 1
  { queue := q, index := index, kind := fieldOf h 0 1, ctx := ctx, irq := bit fl 0, labelOvr := bit fl 1, sig := bit fl 2,
    label := bits (fieldOf h 2 1) 0 3, tag := fieldOf h 4 4, sigTl := bits (fieldOf h 8 4) 0 22, sigValue := fieldOf h 16 8,
    body := h, payload := payload, objs := [], tls := [], ended := 0, flags := 0, result := 0, atEdge := false }

/-- The first reason of R359 that the header and the body give before anything else is looked at. -/
def Cmd.reject (c : Cmd) (isPf : Bool) : Option Nat :=
  let h := c.body
  let z (off len : Nat) : Bool := fieldOf h off len == 0
  if c.kind = 0 || c.kind > 5 then some 0xF0
  else if fieldOf h 1 1 ≥ 8 || fieldOf h 2 1 ≥ 8 || !z 3 1 || fieldOf h 8 4 ≥ 2 ^ 22 || !z 12 4 || ((c.kind = 2 || c.kind = 3) && !z 24 40) then some 0xF1
  else if c.kind = 5 && !isPf then some 9
  else if c.kind = 1 then
    (if !z 34 2 || !z 38 26 then some 0xF1
     else if fieldOf h 36 2 = 0 || fieldOf h 36 2 > 4096 || fieldOf h 28 6 % 32 ≠ 0 then some 0xF2 else none)
  else if c.kind = 4 then (if fieldOf h 24 4 ≥ 2 ^ 22 || !z 28 4 || !z 40 24 then some 0xF1 else none)
  else none

/-- Outcome of reading a queue's next command. -/
inductive Fetched where
  | cmd (c : Cmd)
  | wait
  | lost (cause : Nat) (c : Cmd)
  deriving DecidableEq, Repr

/-- Read the command at `picked`; a command of two entries is not there until both are below the tail seen. -/
def Module.fetchCmd (m : Module) (q : Nat) (k : Queue) : Module × Fetched :=
  let rd (m : Module) (i : Nat) : Module × StreamRead := m.readVa k.ctx (k.entryVa i) 64 (.ring q)
  -- the tag of a header that cannot be read is a free value
  let blank (m : Module) (cause : Nat) : Module × Fetched :=
    let (m, tag) := m.freeBytes 4
    (m, .lost cause (cmdOf q k.picked k.ctx (zeros 4 ++ tag ++ zeros 56) []))
  let bad (m : Module) (h : Option (List Byte)) (r : StreamRead) : Module × Fetched :=
    let lost (m : Module) (cause : Nat) : Module × Fetched :=
      match h with
      | some h => (m, .lost cause (cmdOf q k.picked k.ctx h []))
      | none => blank m cause
    match r with
    | .range => lost m lostMEM_RANGE
    | .uncorrectable l => lost (m.dataLost l 2 (m.ctxPart k.ctx) (some k.ctx)) lostDATA_LOST
    | _ => (m, .wait)
  if k.cmdBad then blank (m.modQueue q (fun k => { k with cmdBad := false })) lostXLAT_FAULT
  else match rd m k.picked with
    | (m, .data h) =>
      if kindEntries (fieldOf h 0 1) = 1 then (m.served (.ring q), .cmd (cmdOf q k.picked k.ctx h []))
      else if subMod 32 k.tailSeen k.picked < 2 then (m, .wait)
      else (match rd m ((k.picked + 1) % 2 ^ 32) with
        | (m, .data p) => (m.served (.ring q), .cmd (cmdOf q k.picked k.ctx h p))
        | (m, r) => bad m (some h) r)
    | (m, r) => bad m none r

/-- The queues that step 7 may visit, from the one after the last picked, wrapping (R30). DESIGN CHOICE (log entry 91): a window
that picked nothing up leaves the last queue as it was, and after reset that queue is 0. -/
def Module.rotation (m : Module) : List (Nat × Queue) :=
  let l := if m.quiet then [] else m.obj.queues.filter (fun e => m.queueReady e.1 e.2)
  l.filter (fun e => m.obj.lastQueue < e.1) ++ l.filter (fun e => e.1 ≤ m.obj.lastQueue)

/-! ### Picking a command up (R357 to R361) -/

/-- Step 7 has reached a queue in this window (R360). -/
def Module.reach (m : Module) (q : Nat) : Module := m.setObj (fun o => { o with reached := insertU o.reached q })

/-- Take a command off its queue: the pick-up index moves on and the rotation with it. A command of two entries holds its
queue once from here on, and a command that signals holds the timeline it names (R366; log entry 55). -/
def Module.takeCmd (m : Module) (c : Cmd) : Module :=
  let m := (m.modQueue c.queue (fun k => { k with
    picked := (k.picked + kindEntries c.kind) % 2 ^ 32, tags := k.tags.put (c.index % 2 ^ k.log2) (c.index, c.tag) })).dropQueue
      c.queue (kindEntries c.kind - 1)
  let holds := c.sig && fieldOf c.body 8 4 < 2 ^ 22 && (m.obj.tls.get? c.sigTl).isSome
  let m := if holds then m.holdTl c.sigTl else m
  (m.setObj (fun o => { o with cmds := o.cmds ++ [{ c with tls := if holds then [c.sigTl] else [] }], lastQueue := c.queue })).reach c.queue

/-- Hold the device counts of a picked-up command (R366). -/
def Module.holdFor (m : Module) (c : Cmd) (objs tls : List Nat) : Module :=
  let m := each objs m (fun m i => m.holdMo i)
  let m := each tls m (fun m t => m.holdTl t)
  m.modCmd c.queue c.index (fun c => { c with objs := c.objs ++ objs, tls := c.tls ++ tls })

/-- A tile's bytes cut from the front of a stream, as the fields that pick-up uses. -/
structure RawTile where
  hdr : Header
  bad : Bool             -- counts out of range: it fails BAD_HEADER at load
  candBad : Bool
  ops : List TileOp
  deriving DecidableEq, Repr

/-- Fields of a tile read at pick-up; `b` holds header and ops. -/
def rawTile (b : List Byte) : RawTile :=
  let counts := fieldOf b 7 1
  let h := parseHeader b
  { hdr := h, bad := h.nOps == 0 || h.nOps > 1020 || bits counts 0 2 > 2 || bits counts 2 3 > 4 || fieldOf b 8 1 > 6,
    candBad := !candOk b,
    ops := if h.nOps > 1020 then [] else (opBytes b h.nOps).filterMap parseOp }

/-- Timelines that a tile names (R357). -/
def RawTile.tls (t : RawTile) : List Nat := namedTls (t.hdr.deps.map (·.1)) t.ops

/-- Does a tile pass the checks of R357 for a command of context `c`? -/
def Module.tileNamesOk (m : Module) (t : RawTile) (c : Nat) (cmd : Option (Nat × Nat)) : Bool :=
  t.bad || (t.hdr.objs.all (fun h => (m.moOf h c cmd).isSome) && t.tls.all (fun x => (m.tlOf x (m.ctxPart c) cmd).isSome))

/-- Outcome of reading the tiles of an EXEC. -/
inductive TilesRead where
  | tiles (l : List (Nat × RawTile))
  | reject
  | wait
  | lost (cause : Nat)
  deriving DecidableEq, Repr

/-- Read one tile of a memory object at a byte offset. -/
def Module.readTile (m : Module) (ctx : Nat) (ob : MemObj) (off : Nat) (j : Joiner) : Module × StreamRead :=
  if off + 128 > ob.size then (m, .range)
  else match m.readVa ctx (ob.va + off) 128 j with
    | (m, .data h) =>
      let n := 32 * fieldOf h 2 2
      if fieldOf h 2 2 > 1020 || off + 128 + n > ob.size then (m, .data h)
      else (match m.readVa ctx (ob.va + off + 128) n j with
        | (m, .data b) => (m, .data (h ++ b))
        | r => r)
    | r => r

/-- Read `n` tiles laid end to end from an offset (R357). -/
def Module.readTiles (m : Module) (ctx : Nat) (ob : MemObj) (off n : Nat) (j : Joiner) : Module × TilesRead :=
  go off n m []
where
  go (off : Nat) : Nat → Module → List (Nat × RawTile) → Module × TilesRead
    | 0, m, acc => (m, .tiles acc)
    | n + 1, m, acc =>
      if off + 128 > ob.size then (m, .reject)
      else match m.readTile ctx ob off j with
        | (m, .wait) => (m, .wait)
        | (m, .range) => (m, .lost lostMEM_RANGE)
        | (m, .uncorrectable l) => (m.dataLost l 2 (m.ctxPart ctx) (some ctx), .lost lostDATA_LOST)
        | (m, .data b) =>
          let t := rawTile b
          if off + t.hdr.bytes > ob.size then (m, .reject) else go (off + t.hdr.bytes) n m (acc ++ [(off, t)])

/-- A tile of the module made from a read one. -/
def Module.newTile (m : Module) (t : RawTile) (src : TileSrc) (ctx label stream off : Nat) : Module × Tile :=
  let (be, vd) := match m.ctx? ctx with | some x => (x.be, x.vd) | none => (false, 0)
  ({ m with uidNext := m.uidNext + 1 },
   { uid := m.uidNext, ctx := ctx, be := be, label := label, src := src, stream := stream, offset := off, vd := vd, hdr := t.hdr,
     ops := t.ops, core := 0, loaded := false, joined := false, held := false, overruns := 0, errEnds := 0, lastErr := 0, lastErrCore := 0,
     ueLine := none, hold := 0, tagSpans := [], waitRepair := none, candBad := t.candBad, noCore := false })

/-- EXEC at pick-up. The Bool says whether the queue must be passed over, its stream not yet translated. -/
def Module.pickExec (m : Module) (c : Cmd) : Module × Bool :=
  let handle := fieldOf c.body 24 4
  let off := fieldOf c.body 28 6
  let key := some (c.queue, c.index)
  let finishWith (m : Module) (st d : Nat) : Module := (m.takeCmd c).finish c.queue c.index st d
  match m.moOf handle c.ctx key with
  | none => ((m.takeCmd c).markLost c.ctx lostBAD_OBJECT, false)
  | some (oi, ob) =>
    match m.readTiles c.ctx ob off c.nTiles (.stream c.queue) with
    | (m, .wait) => (m, true)
    | (m, .reject) => (finishWith m stREJECTED 0xF2, false)
    | (m, .lost cause) => ((m.takeCmd c).markLost c.ctx cause, false)
    | (m, .tiles ts) =>
      let m := m.served (.stream c.queue)
      if ts.any (fun t => !m.tileNamesOk t.2 c.ctx key) then ((m.takeCmd c).markLost c.ctx lostBAD_OBJECT, false)
      else
        let objs := ts.foldl (fun l t => t.2.hdr.objs.foldl (fun l h => insertU l (bits h 0 24)) l) [oi]
        let tls := ts.foldl (fun l t => t.2.tls.foldl insertU l) []
        let m := ((m.takeCmd c).holdFor c objs (tls.filter (fun x => (m.obj.tls.get? x).isSome && !(c.sig && x == c.sigTl)))).setWord c.queue c.index cswPICKED 0 c.nTiles
        let label := if c.labelOvr then c.label else match m.ctx? c.ctx with | some x => x.label | none => 0
        ((ts.zipIdx).foldl (fun m t =>
          let (m, tile) := m.newTile t.1.2 (.host c.queue c.index t.2) c.ctx label handle t.1.1
          if !m.tileLive tile then m
          else if m.needsAgree tile.vd then { m with agreeQ := m.agreeQ ++ [tile] }.prefetch tile
          else m.takeTile tile true) m, false)

/-- Step 8 places the picked-up tiles of LOCKSTEP devices whose queue index both modules have reached (R321). -/
def Module.takeAgreed (m : Module) : Module :=
  let l := m.agreeQ
  each l { m with agreeQ := [] } (fun m t =>
    let ok := !m.needsAgree t.vd || (match t.cmdKey with
      | some (q, i) => (match m.agreedAt t.vd q with | some n => subMod 32 n i != 0 && subMod 32 n i < 2 ^ 31 | none => false)
      | none => true)
    if !m.tileLive t then m.forgetTile t else if ok then m.takeTile t true else { m with agreeQ := m.agreeQ ++ [t] })

/-- Are the reserved bits and bytes of an OBJ body zero (R356)? -/
def objBodyOk (b : List Byte) : Bool :=
  fieldOf b 26 1 < 2 && allZero ((b.drop 27).take 1) && allZero ((b.drop 38).take 2) && allZero ((b.drop 42).take 22)

/-- MOVE_CTX at pick-up (R358): rejection reason, or the state with the device changed. -/
def Module.moveCtx (m : Module) (c : Cmd) : Module :=
  let id := fieldOf c.body 28 4
  let vd := fieldOf c.body 40 2
  let bad (r : Nat) : Module := m.finish c.queue c.index stREJECTED r
  if !objBodyOk c.body then bad 10
  else if fieldOf c.body 25 1 > 3 || id ≥ 2 ^ 20 then bad 3
  else match m.ctx? id with
    | none => bad 4
    | some x =>
      if x.state != .live then bad 4
      else if !(if x.part = 0xFF then (match vdPart m.nextRecs vd with | some p => !m.nextConf p | none => false)
                else vdPart m.nextRecs vd == some x.part) then bad 8
      else
        let m := (m.modCtx id (fun x => { x with vd := vd })).complete c.queue c.index (m.okStatus x.vd) 0
        if x.vd = vd then m else m.replaceCtx id vd

/-- Act on a command at pick-up. The Bool says that its queue is passed over. -/
def Module.pickCmd (m : Module) (c : Cmd) : Module × Bool :=
  let st := m.wordState c.queue c.index
  let rec_ (m : Module) (status detail : Nat) : Module :=
    (m.takeCmd c).setObj (fun o => { o with done := o.done ++ [{ queue := c.queue, index := c.index, status := status, detail := detail }] })
  let lost := match m.ctx? c.ctx with | some x => if x.lost then some x.cause else none | none => none
  if st = cswABORTED then (rec_ m stABORTED 0, false)
  else if st ≠ cswQUEUED then (rec_ m stCONTEXT_LOST (lost.getD 0), false)
  else match lost with
    | some cause => ((m.takeCmd c).finish c.queue c.index stCONTEXT_LOST cause, false)
    | none =>
      match c.reject (m.ctxPart c.ctx == 0xFF) with
      | some r =>
        if c.kind = 1 || c.kind = 0 || c.kind > 5 || (c.kind == 5 && fieldOf c.body 24 1 == 2) then ((m.takeCmd c).finish c.queue c.index stREJECTED r, false)
        else ((m.takeCmd { c with atEdge := true }).setWord c.queue c.index cswPICKED 0 0, false)
      | none =>
        if c.kind = 1 then m.pickExec c
        else
          let m := m.takeCmd { c with atEdge := !(c.kind == 5 && fieldOf c.body 24 1 == 2) }
          let m := m.setWord c.queue c.index cswPICKED 0 0
          if c.kind = 5 && fieldOf c.body 24 1 = 2 then (m.moveCtx c, false) else (m, false)

/-- One pick-up of step 7, of any command or of one that satisfies `want`: the rotation passes over queues whose ring or
stream waits for a translation, and queues whose rings cannot be read lose their context. -/
def Module.pickOne (m : Module) (want : Cmd → Bool) : Module :=
  if m.tick.phase != .picking || m.obj.stopPickup || !m.serves then m
  else (m.rotation.foldl (fun (acc : Module × Bool) e =>
    if acc.2 then acc
    else match acc.1.fetchCmd e.1 e.2 with
      | (m, .cmd c) => if want c then (let r := m.pickCmd c; (r.1.reach e.1, !r.2)) else (m, true)
      | (m, .wait) => (m.reach e.1, false)
      | (m, .lost cause c) => (let r := (m.markLost e.2.ctx cause).pickCmd c; (r.1, !r.2))) (m, false)).1

/-- Is a command an OBJ command with an op? -/
def Cmd.isObj (c : Cmd) (op : Nat) : Bool := c.kind == 5 && fieldOf c.body 24 1 == op

/-- Is a command a SEQ command with an sop? -/
def Cmd.isSeq (c : Cmd) (sop : Nat) : Bool := c.kind == 2 && fieldOf c.payload 0 1 == sop

/-- Is a command a COLL command with a cop? -/
def Cmd.isColl (c : Cmd) (cop : Nat) : Bool := c.kind == 3 && fieldOf c.payload 0 1 == cop

/-- Is a command of no listed kind, or of a listed one with an unlisted operation? -/
def Cmd.unlisted (c : Cmd) : Bool :=
  c.kind == 0 || c.kind > 5 ||
  (c.kind == 2 && (fieldOf c.payload 0 1 == 0 || fieldOf c.payload 0 1 > 0x0A)) ||
  (c.kind == 3 && (fieldOf c.payload 0 1 == 0 || fieldOf c.payload 0 1 > 2)) ||
  (c.kind == 5 && (fieldOf c.body 24 1 == 0 || fieldOf c.body 24 1 > 3))

/-! ### CREATE and LOSE_CTX at the edge (R358) -/

/-- Reserved bytes of a source record by object type. -/
def srcReservedOk (ty : Nat) (b : List Byte) : Bool :=
  let z (off len : Nat) : Bool := allZero ((b.drop off).take len)
  match ty with
  | 0 => fieldOf b 0 1 < 8 && fieldOf b 1 1 < 16 && fieldOf b 4 4 < 2 ^ 20 && z 14 2 && z 26 6 && z 64 192
  | 1 => fieldOf b 0 1 < 4 && z 1 1 && fieldOf b 4 4 < 2 ^ 20 && z 25 1 && z 46 2 && z 56 8
  | 2 => fieldOf b 0 1 < 4 && fieldOf b 1 1 < 8 && z 2 2 && fieldOf b 4 4 < 2 ^ 20 && z 26 2 && z 33 31
  | _ => fieldOf b 0 1 < 16 && z 1 3 && fieldOf b 4 4 < 2 ^ 20 && z 26 2

def srcSize (ty : Nat) : Nat := ([256, 64, 64, 32] : List Nat).getD ty 32

/-- Lowest start of `n` contiguous free state words (R358). -/
def Module.cswAlloc (m : Module) (n : Nat) : Option Nat :=
  let used := (m.obj.queues.filter (fun e => e.2.state != .free)).map (fun e => (e.2.cswBase, e.2.cswBase + 2 ^ e.2.log2))
  (sortBy id (0 :: used.map (·.2))).find? (fun s => s + n ≤ m.cswWords && used.all (fun u => s + n ≤ u.1 || u.2 ≤ s))

/-- Install the record of a CREATE. -/
def Module.install (m : Module) (ty id : Nat) (b : List Byte) (gen csw : Nat) : Module × Nat :=
  let ctx := bits (fieldOf b 4 4) 0 20
  match ty with
  | 0 =>
    let part := fieldOf b 3 1
    let c : Ctx :=
      { state := .live, lost := false, be := bit (fieldOf b 1 1) 0, label := bits (fieldOf b 1 1) 1 3, cause := 0, part := part,
        pasid := ctx, vd := fieldOf b 8 2, fn := partFn m.nextRecs part, queues := 0, hostCount := 1, devCount := 0, lostFrame := 0,
        stale := 0, tiles := 0, lastError := zeros 16, unrefAt := [] }
    (m.setObj (fun o => { o with ctxs := o.ctxs.put id c }), id)
  | 1 =>
    let k : Queue :=
      { state := .live, dbSlot := fieldOf b 2 2, ctx := ctx, cmdVa := fieldOf b 8 8, cplVa := fieldOf b 16 8, log2 := fieldOf b 24 1,
        vector := fieldOf b 26 2, tail := 0, picked := 0, written := 0, head := 0, hostCount := 1, devCount := 0, cswBase := csw,
        tailSeen := 0, cmdBad := false, cplBad := false, replies := [], tags := [], unrefAt := [] }
    let m := (m.setObj (fun o => { o with queues := o.queues.put id k })).modCtx ctx (fun c => { c with queues := c.queues + 1 })
    ((List.range (2 ^ k.log2)).foldl (fun m i => m.setCsw (csw + i) 0) (m.holdCtx ctx), id)
  | 2 =>
    let o : MemObj :=
      { state := .live, read := bit (fieldOf b 1 1) 0, write := bit (fieldOf b 1 1) 1, precious := bit (fieldOf b 1 1) 2, ctx := ctx,
        va := fieldOf b 8 8, size := fieldOf b 16 8, hostCount := 1, devCount := 0, gen := gen, unrefAt := [] }
    ((m.setObj (fun x => { x with mos := x.mos.put id o, gens := SMap.set (fun _ => 0) x.gens id gen })).holdCtx ctx, id + 2 ^ 24 * gen)
  | _ =>
    let t : Timeline :=
      { state := .live, lost := false, exhausted := bit (fieldOf b 0 1) 3, ctx := ctx, value := fieldOf b 8 8, shadowVa := fieldOf b 16 8,
        hostCount := 1, devCount := 0, unrefAt := [] }
    ((m.setObj (fun o => { o with tls := o.tls.put id t })).holdCtx ctx, id)

/-- CREATE at its edge: the reasons of R358 in the order of R359. -/
def Module.create (m : Module) (c : Cmd) : CmdOut :=
  let b := c.body
  let ty := fieldOf b 25 1
  let given := bit (fieldOf b 26 1) 0
  let id := fieldOf b 28 4
  let src := fieldOf b 32 6
  let bodyOk := objBodyOk b
  let srcOk := src % 64 == 0 && ty ≤ 3 && m.allowed 0xFF src (srcSize ty)
  let (m, rd, r) := if srcOk then m.memRead 0xFF src (srcSize ty) else (m, .refused, [])
  if !bodyOk || (srcOk && rd == .ok && !srcReservedOk ty r) then rejOut m 10
  else if !srcOk || rd != .ok then rejOut m 3
  else
    let idOk := match ty with
      | 0 => id < 2 ^ 20
      | 2 => id ≠ 0 && id < m.moCount
      | _ => id < 2 ^ 22
    let ctx := bits (fieldOf r 4 4) 0 20
    let part := if ty = 0 then fieldOf r 3 1 else m.ctxPart ctx
    let gen0 := SMap.get (fun _ => 0) m.obj.gens id
    let gen := if given then fieldOf r 32 1 else if gen0 = 0 then 1 else gen0
    let recOk := match ty with
      | 0 => part == 0xFF || (partsOf m.nextRecs).contains part
      | 1 => 6 ≤ fieldOf r 24 1 && fieldOf r 24 1 ≤ 16 && fieldOf r 8 8 % 4096 == 0 && fieldOf r 16 8 % 4096 == 0 &&
             (fieldOf r 26 2 < 2048 || fieldOf r 26 2 == 0xFFFF)
      | 2 => fieldOf r 8 8 % 64 == 0 && fieldOf r 16 8 % 64 == 0 && 64 ≤ fieldOf r 16 8 && fieldOf r 16 8 ≤ 2 ^ 48 && gen ≠ 0
      | _ => fieldOf r 16 8 % 8 == 0
    let taken := match ty with
      | 0 => (m.ctx? id).isSome
      | 1 => (m.queue? id).isSome
      | 2 => (m.obj.mos.get? id).isSome
      | _ => (m.obj.tls.get? id).isSome
    let owner := m.ctx? ctx
    let vd := fieldOf r 8 2
    if !idOk || !recOk then rejOut m 3
    else if taken then rejOut m 1
    else if ty ≠ 0 && !(match owner with | some x => x.state == .live && !x.lost | none => false) then rejOut m 4
    else if ty = 0 && !(if part = 0xFF then (match vdPart m.nextRecs vd with | some p => !m.nextConf p | none => false) else vdPart m.nextRecs vd == some part) then rejOut m 8
    else if ty = 0 && part ≠ 0xFF && (m.obj.ctxs.filter (fun e => e.2.part == part)).length ≥ ctxQuota m.nextRecs part then rejOut m 2
    else if ty = 1 && part ≠ 0xFF && (m.obj.queues.filter (fun e => m.ctxPart e.2.ctx == part)).length ≥ queueQuota m.nextRecs part then rejOut m 2
    else if ty = 1 && (match owner with | some x => x.queues ≥ 4 | none => false) then rejOut m 5
    else if ty = 1 && (match owner with | some x => (m.slotQueue x.fn (fieldOf r 2 2)).isSome | none => false) then rejOut m 7
    else
      let csw := if ty = 1 then m.cswAlloc (2 ^ fieldOf r 24 1) else some 0
      match csw with
      | none => rejOut m 6
      | some s => let (m, res) := m.install ty id r gen s; okOut m res

/-- LOSE_CTX at its edge. -/
def Module.loseCtxCmd (m : Module) (c : Cmd) : CmdOut :=
  let b := c.body
  let id := fieldOf b 28 4
  if !objBodyOk b then rejOut m 10
  else if fieldOf b 25 1 > 3 || id ≥ 2 ^ 20 then rejOut m 3
  else match m.ctx? id with
    | some x => if x.state == .live then okOut (m.markLost id lostDRIVER) 0 else rejOut m 4
    | none => rejOut m 4

/-! ### The edge (R361) -/

/-- A SEQ, COLL, SIGNAL or OBJ command takes effect. -/
def Module.applyCmd (m : Module) (c : Cmd) : Module :=
  if m.wordState c.queue c.index ≠ cswPICKED then m
  else
    let out := match c.reject (m.ctxPart c.ctx == 0xFF) with
      | some r => rejOut m r
      | none =>
        if c.kind = 2 then m.seqApply c
        else if c.kind = 3 then m.collApply c
        else if c.kind = 4 then okOut (m.signalTl (bits (fieldOf c.body 24 4) 0 22) (fieldOf c.body 32 8) c.ctx) 0
        else if fieldOf c.body 24 1 = 1 then m.create c
        else if fieldOf c.body 24 1 = 3 then m.loseCtxCmd c
        else if !objBodyOk c.body then rejOut m 10
        else rejOut m 3
    let m := out.m.modCmd c.queue c.index (fun c => { c with result := out.result, atEdge := false })
    match out.reason with
    | some r => m.complete c.queue c.index stREJECTED r
    | none => m.complete c.queue c.index (m.okStatus (m.queueDev c.queue)) 0

/-- Every command that takes effect at this edge, in pick-up order. -/
def Module.cmdsAtEdge (m : Module) : Module := each (m.obj.cmds.filter (·.atEdge)) m (fun m c => m.applyCmd c)

/-! ### Completion records (R360, R362, R363) -/

/-- A completion record, 16 bytes. -/
def cplBytes (index status flags detail : Nat) (phase reply : Bool) (tag result : Nat) : List Byte :=
  leBytes 4 index ++ leBytes 1 status ++ leBytes 1 flags ++ leBytes 1 detail ++ leBytes 1 (b2n phase + 2 * b2n reply) ++
  leBytes 4 tag ++ leBytes 4 result

/-- Write one record at the queue's next completion entry. The Bool says whether it was written: not while the ring's
translation is outstanding. A write that fails counts as written, and the context is lost. -/
def Module.writeCpl (m : Module) (q : Nat) (k : Queue) (f : Bool → List Byte) : Module × Bool × Bool :=
  if m.quiet then (m, false, false) else
  let n := 2 ^ k.log2
  let va := k.cplVa + (k.written % n) * 16
  let phase := k.written / n % 2 == 0
  let bs := f phase
  let adv (m : Module) : Module := m.modQueue q (fun k => { k with written := (k.written + 1) % 2 ^ 32, cplBad := false })
  if k.cplBad then (adv m, true, false)
  else match m.translate (m.ctxFn k.ctx) (m.ctxPasid k.ctx) va true (.cpl q) with
  | (m, .wait) => (m, false, false)
  | (m, .hit pa) =>
    let m := m.served (.cpl q)
    (match m.place pa with
     | .host a => ((adv m).hostWrite (m.ctxFn k.ctx) a bs, true, true)
     | .remote => ((adv m).willLose k.ctx lostMEM_RANGE, true, false)
     | .loc off => (match m.memWrite (m.ctxPart k.ctx) off bs with
       | (m, .ok) => (adv m, true, true)
       | (m, .refused) => ((adv m).willLose k.ctx lostMEM_RANGE, true, false)
       | (m, .uncorrectable l) => (((adv m).dataLost l 1 (m.ctxPart k.ctx) (some k.ctx)).willLose k.ctx lostDATA_LOST, true, false)))

/-- Free completion entries of a queue. -/
def Queue.cplFree (k : Queue) : Nat := 2 ^ k.log2 - subMod 32 k.written k.head

/-- Release what a command holds once its record is written. -/
def Module.endCmd (m : Module) (c : Cmd) : Module :=
  let m := each c.objs m (fun m i => m.dropMo i)
  let m := each c.tls m (fun m t => m.dropTl t)
  (m.dropQueue c.queue 1).setObj (fun o => { o with cmds := o.cmds.filter (fun x => !(x.queue == c.queue && x.index == c.index)) })

/-- The tag of an abort reply (R362): that of the header in the ring entry the index names. With no such header, or one that
cannot be read, the tag is a free value (log entry 19); none while the read waits for its translation. -/
def Module.replyTag (m : Module) (q : Nat) (k : Queue) (index : Nat) : Module × Option Nat :=
  let free (m : Module) : Module × Option Nat := let (m, t) := m.freeWord; (m, some t)
  let d := subMod 32 k.tail index
  match k.tags.get? (index % 2 ^ k.log2) with
  | some (i, t) => if i = index then (m, some t) else go free d
  | none => go free d
where
  go (free : Module → Module × Option Nat) (d : Nat) : Module × Option Nat :=
    if d = 0 || d > 2 ^ k.log2 || m.wordState q index == cswEMPTY then free m
    else match m.readVa k.ctx (k.entryVa index) 64 (.ring q) with
      | (m, .data h) => (m.served (.ring q), some (fieldOf h 4 4))
      | (m, .wait) => (m, none)
      | (m, _) => free m

/-- Records of one queue in the order of their updates; the vectors to send come with the state. -/
def Module.postQueue (m : Module) (q : Nat) (vecs : List (Nat × Nat)) : Module × List (Nat × Nat) :=
  let (m, vecs) := (m.obj.done.filter (·.queue == q)).foldl (fun (acc : Module × List (Nat × Nat)) d =>
    let (m, vecs) := acc
    match m.queue? q, m.cmd? q d.index with
    | some k, some c =>
      let flags := c.flags
      let result := if d.status = stOK || d.status = stDIVERGENT || c.kind = 1 then c.result else 0
      (match m.writeCpl q k (fun ph => cplBytes d.index d.status flags d.detail ph false c.tag result) with
       | (m, false, _) => (m, vecs)
       | (m, true, stored) =>
         let m := (m.setObj (fun o => { o with done := o.done.filter (· != d) })).endCmd c
         (m, if stored && c.irq && k.vector != 0xFFFF then insertU vecs (m.ctxFn k.ctx, k.vector) else vecs))
    | _, _ => (m.setObj (fun o => { o with done := o.done.filter (· != d) }), vecs)) (m, vecs)
  match m.queue? q with
  | none => (m, vecs)
  | some k =>
    k.replies.foldl (fun (acc : Module × List (Nat × Nat)) r =>
      let (m, vecs) := acc
      match m.queue? q with
      | none => acc
      | some k =>
        if k.cplFree ≤ (m.obj.cmds.filter (·.queue == q)).length then (m.raise HOST_EVENT_cpl_held, vecs)
        else
          match m.replyTag q k r.index with
          | (m, none) => (m, vecs)
          | (m, some tag) =>
          match m.writeCpl q k (fun ph => cplBytes r.index r.status 0 r.detail ph true tag 0) with
          | (m, false, _) => (m, vecs)
          | (m, true, stored) =>
            let m := m.modQueue q (fun k => { k with replies := k.replies.erase r })
            (m, if stored && k.vector != 0xFFFF then insertU vecs (m.ctxFn k.ctx, k.vector) else vecs)) (m, vecs)

/-- The commands of a queue of a LOST context that ended while they were QUEUED (R370): step 2 passes over them, each while the
ring has a free entry for its record, so that their records are written now. The rotation and the queues reached stay as they are. -/
def Module.passDone (m : Module) (q : Nat) : Module :=
  match m.queue? q with
  | some k =>
    let last := m.obj.lastQueue
    let reached := m.obj.reached
    (go (min 65536 (subMod 32 k.tailSeen k.picked)) m).setObj (fun o => { o with lastQueue := last, reached := reached })
  | none => m
where
  go : Nat → Module → Module
    | 0, m => m
    | n + 1, m => match m.queue? q with
      | some k =>
        let w := m.wordState q k.picked
        let lost := match m.ctx? k.ctx with | some x => x.lost | none => false
        if !m.queueReady q k || m.quiet || !lost || !(w == cswDONE || w == cswABORTED) then m
        else (match m.fetchCmd q k with
          | (m, .cmd c) => go n (m.pickCmd c).1
          | (m, .lost _ c) => go n (m.pickCmd c).1
          | (m, .wait) => m)
      | none => m

/-- Step 2: the completion records and then the vectors, at most one message each; a SHADOW keeps those of its devices (R312). -/
def Module.postCompletions (m : Module) : Module :=
  let (m, vecs) := ((m.obj.queues.map (·.1)).filter (fun q => m.postsVd (m.queueDev q))).foldl
    (fun acc q => Module.postQueue (acc.1.passDone q) q acc.2) (m, [])
  each vecs m (fun m v => m.signal v.1 v.2)

/-! ### Release (R367) -/

/-- Was every TAIL received before the UNREF picked up in full? -/
def Module.tailsPicked (m : Module) (l : List (Nat × Nat)) : Bool :=
  l.all (fun e => match m.queue? e.1 with | some k => subMod 32 k.picked e.2 < 2 ^ 31 | none => true)

/-- Step 5: releases decided. -/
def Module.decideRelease (m : Module) : Module :=
  let ok (st : ObjState) (dev : Nat) (l : List (Nat × Nat)) : Bool := st == .releasing && dev == 0 && m.tailsPicked l
  m.setObj (fun o => { o with release :=
    (o.ctxs.filter (fun e => ok e.2.state e.2.devCount e.2.unrefAt)).map (fun e => (0, e.1)) ++
    (o.queues.filter (fun e => ok e.2.state e.2.devCount e.2.unrefAt)).map (fun e => (1, e.1)) ++
    (o.mos.filter (fun e => ok e.2.state e.2.devCount e.2.unrefAt)).map (fun e => (2, e.1)) ++
    (o.tls.filter (fun e => ok e.2.state e.2.devCount e.2.unrefAt)).map (fun e => (3, e.1)) })

/-- A memory object's generation after a release (R349). -/
def nextGen (g : Nat) : Nat := if g ≥ 255 then 1 else g + 1

/-- A released queue's TAILs are all picked up: what an UNREF saw of them is dropped, so that a later queue of the same ID
does not stand for them (R357, R367). -/
def Module.forgetTails (m : Module) (q : Nat) : Module :=
  let cut (l : List (Nat × Nat)) : List (Nat × Nat) := l.filter (·.1 != q)
  m.setObj (fun o => { o with
    ctxs := o.ctxs.map (fun e => (e.1, { e.2 with unrefAt := cut e.2.unrefAt })),
    queues := o.queues.map (fun e => (e.1, { e.2 with unrefAt := cut e.2.unrefAt })),
    mos := o.mos.map (fun e => (e.1, { e.2 with unrefAt := cut e.2.unrefAt })),
    tls := o.tls.map (fun e => (e.1, { e.2 with unrefAt := cut e.2.unrefAt })) })

/-- Free one object. -/
def Module.freeObj (m : Module) (ty id : Nat) : Module :=
  match ty with
  | 0 => m.setObj (fun o => { o with ctxs := o.ctxs.del id })
  | 1 => (match m.queue? id with
    | some k => (((m.forgetTails id).setObj (fun o => { o with queues := o.queues.del id })).modCtx k.ctx (fun c => { c with queues := c.queues - 1 })).dropCtx k.ctx
    | none => m)
  | 2 => (match m.obj.mos.get? id with
    | some o => (m.setObj (fun x => { x with mos := x.mos.del id, gens := SMap.set (fun _ => 0) x.gens id (nextGen o.gen) })).dropCtx o.ctx
    | none => m)
  | _ => (match m.obj.tls.get? id with
    | some t => (m.setObj (fun o => { o with tls := o.tls.del id })).dropCtx t.ctx
    | none => m)

/-- The edge: the decided releases take effect. -/
def Module.releaseAtEdge (m : Module) : Module :=
  let l := m.obj.release
  each l (m.setObj (fun o => { o with release := [] })) (fun m e => m.freeObj e.1 e.2)

/-- The window opens: the tails received before it are what step 7 may reach (R31). -/
def Module.sealTails (m : Module) : Module :=
  m.setObj (fun o => { o with
    reached := [], queues := o.queues.map (fun e => (e.1, { e.2 with tailSeen := e.2.tail })) })

/-- Is there a queue with outstanding TAILs that R360 lets step 7 reach, and that it has not reached in this window? -/
def Module.pickupLeft (m : Module) : Bool := m.rotation.any (fun e => !m.obj.reached.contains e.1)

/-! ### The command rows -/

def effExec (m : Module) : Module := m.pickOne (fun c => c.kind == 1)
def effSignalCmd (m : Module) : Module := m.pickOne (fun c => c.kind == 4)
def effCreate (m : Module) : Module := m.pickOne (fun c => c.isObj 1)
def effMoveCtx (m : Module) : Module := m.pickOne (fun c => c.isObj 2)
def effLoseCtx (m : Module) : Module := m.pickOne (fun c => c.isObj 3)
def effBadKind (m : Module) : Module := m.pickOne (fun c => c.unlisted)
def effSeqCmd (sop : Nat) (m : Module) : Module := m.pickOne (fun c => c.isSeq sop)
def effCollCmd (cop : Nat) (m : Module) : Module := m.pickOne (fun c => c.isColl cop)

/-- Step 7 stops 64 ac before the edge (R30, R360). -/
def effPickupCutoff (m : Module) : Module :=
  if m.tick.phase != .picking then m
  else
    let m := if m.serves && !m.obj.stopPickup && m.pickupLeft then m.count HOST_PICKUP_SKIP_count 1 else m
    m.setTick (fun t => { t with phase := .cutoff })

end Sys2Proof.Machine
end

