-- ==== Sys2Proof/Machine/Ras.lean ====
section
/-!
DEFINITION. Fault handling (R373 to R396): the journal's queue, the drain of the die logs into the ring, the damper and
fault reports, the judgement of step 3, and the loss of the system carve-out.
-/
namespace Sys2Proof.Machine

def Module.setRas (m : Module) (f : Ras → Ras) : Module := { m with ras := f m.ras }
def Module.setNvj (m : Module) (f : Nvj → Nvj) : Module := { m with nvj := f m.nvj }

/-- Is an erase of a compaction in progress? -/
def Nvj.erasing (j : Nvj) : Bool := j.compact == 1 || j.compact == 3 || j.compact == 5

/-- An erase in progress stays suspended while a record is being written (R474). -/
def Nvj.suspend (j : Nvj) : Nvj := { j with suspended := j.erasing && !j.queue.isEmpty }

/-- A record goes to the journal's queue (R470), and its writing suspends an erase. -/
def Module.jWrite (m : Module) (ty : Nat) (payload : List Byte) : Module :=
  let m := m.setNvj (fun j => ({ j with queue := j.queue ++ [{ ty := ty, payload := payload }] } : Nvj).suspend)
  m.setFld NVJ_STATUS_erase_suspended (b2n m.nvj.suspended)

/-! ### Record types of the journal (R471) -/

def jRESUME : Nat := 0x0001
def jMORAINE_ADD : Nat := 0x0010
def jMORAINE_REMOVE : Nat := 0x0011
def jLCS_STEP : Nat := 0x0020
def jHSS_RESERVE : Nat := 0x0021
def jEPOCH_RESERVE : Nat := 0x0022
def jPROFILE_DATA : Nat := 0x0030
def jPROFILE_COMMIT : Nat := 0x0031
def jPROFILE_CLEAR : Nat := 0x0032
def jBOOT_SETTINGS : Nat := 0x0040
def jSLOT_STATE : Nat := 0x0050
def jDIMM : Nat := 0x0060

/-! ### The ring (R392) -/

def ringRecords : Nat := 65536

/-- Base of the ring. -/
def Module.ringBase (m : Module) : Nat := m.reg64 RAS_RING_BASE_LO RAS_RING_BASE_HI

/-- Does a range lie wholly in the system carve-out? -/
def Module.inSystem (m : Module) (off len : Nat) : Bool := m.allowed 0xFF off len

/-- May an image lie here (R269)? DEDUCED (log entry 80): while no composition is in force there is no system carve-out, and R284
has an image submitted then; it may lie in the HBM of any trained stack. -/
def Module.imageAt (m : Module) (off len : Nat) : Bool :=
  if m.compOn then m.inSystem off len
  else match locate off, locate (off + len - 1) with
    | .hbm g _, .hbm h _ => (List.range (h + 1 - g)).all (fun i => m.mem.hbmTrained.contains ((g + i) / 32))
    | _, _ => false

/-- Records in the ring that software has not consumed. -/
def Module.ringHeld (m : Module) : Nat := subMod 32 (m.reg RAS_RING_TAIL) (m.reg RAS_RING_HEAD)

/-- Is the ring written: enabled, and wholly inside the system carve-out? -/
def Module.ringOn (m : Module) : Bool := m.flag RAS_CTRL_ring_en && m.inSystem m.ringBase (ringRecords * 32)

/-- Has the ring room for one record? -/
def Module.ringRoomRec (m : Module) : Bool := m.ringOn && m.ringHeld < ringRecords

/-- Write a record at the tail and advance it; a line that cannot take it loses it (R384, R392). -/
def Module.ringPut (m : Module) (r : LogRec) : Module :=
  let k := m.reg RAS_RING_TAIL
  let off := m.ringBase + (k % ringRecords) * 32
  if m.mem.uncorr.contains (alignDown off 64) then m.loseRecord r.cls r.frame
  else (m.store off r.bytes).setReg RAS_RING_TAIL ((k + 1) % 2 ^ 32)

/-- The LOST record of a class (R390, R392). -/
def Module.lostRecord (m : Module) (cls : Nat) : LogRec :=
  let first := m.reg64 (RAS_LOST_FIRST_LO cls) (RAS_LOST_FIRST_HI cls)
  let last := m.reg64 (RAS_LOST_LAST_LO cls) (RAS_LOST_LAST_HI cls)
  { cls := cls, rtype := 5, cause := 0, sub := 0, unitType := 0, unit := 0, module_ := m.selfId, frame := first,
    part := none, die := 12, ctx := none,
    detail := m.reg (RAS_LOST_CNT cls) + 2 ^ 32 * min (subMod 48 last first) (2 ^ 32 - 1), phase := m.tick.ns }

/-- Once the ring has room after a loss, one LOST record for each class whose count changed (R392). -/
def Module.flushLost (m : Module) : Module :=
  each (sortBy id m.ras.lostDirty) m (fun m c =>
    if m.ringRoomRec then (m.setRas (fun r => { r with lostDirty := r.lostDirty.filter (· != c) })).ringPut (m.lostRecord c)
    else m)

/-- The oldest record of a die's log is drained into the ring, or lost while the ring has no room or is disabled. -/
def effLogDrain (die : Nat) (m : Module) : Module :=
  match takeFirst (fun (r : LogRec) => r.die == die) m.ras.logs with
  | (none, _) => m
  | (some r, rest) =>
    let m := m.setRas (fun x => { x with logs := rest })
    let m := if m.ringRoomRec then m.flushLost else m
    if m.ringRoomRec then m.ringPut r else m.loseRecord r.cls r.frame

/-- A write of RAS_RING_HEAD: ignored above TAIL or below TAIL − 65,536. -/
def effRingHead (v : Nat) (m : Module) : Module :=
  if subMod 32 (m.reg RAS_RING_TAIL) v ≤ ringRecords then (m.setReg RAS_RING_HEAD v).flushLost else m

/-- A history whose window has passed starts over (R375). -/
def effHistoryClose (row unit : Nat) (m : Module) : Module :=
  match m.ras.hist.get? (row * 2 ^ 16 + unit) with
  | some h => if m.histOpen h then m else m.setRas (fun r => { r with hist := r.hist.del (row * 2 ^ 16 + unit) })
  | none => m

/-! ### The damper (R394, R395) -/

/-- Is a damper entry open in the present frame: its first frame and the 255 that follow? -/
def Module.dampOpen (m : Module) (d : Damp) : Bool := decide (subMod 48 m.F d.opened ≤ 255)

/-- The damper record of an entry. -/
def Damp.logOf (d : Damp) (rtype phase : Nat) : LogRec :=
  { cls := d.cls, rtype := rtype, cause := d.cause, sub := 0, unitType := d.unitType, unit := d.unit, module_ := d.subject,
    frame := d.lowest, part := none, die := 12, ctx := none,
    detail := d.count + 2 ^ 32 * d.first + 2 ^ 48 * min (subMod 48 d.highest d.lowest) (2 ^ 16 - 1), phase := phase }

/-- The earlier and the later of two frames, wrap-aware. -/
def frameMin (a b : Nat) : Nat := if frameGe a b then b else a
def frameMax (a b : Nat) : Nat := if frameGe a b then a else b

/-- A report passes through the damper. -/
def Module.damp (m : Module) (cls cause ut unit subject frame reporter : Nat) : Module :=
  let same (d : Damp) : Bool := d.subject == subject && d.unitType == ut && d.unit == unit && d.cls == cls
  if m.ras.damper.any (fun d => same d && m.dampOpen d) then
    m.setRas (fun r => { r with damper := r.damper.map (fun d =>
      if same d && m.dampOpen d then
        { d with count := d.count + 1, lowest := frameMin d.lowest frame, highest := frameMax d.highest frame } else d) })
  else if (m.ras.damper.filter (fun d => m.dampOpen d)).length ≥ 4096 then
    let m := (m.count RAS_DAMP_OVF_count 1).raise RAS_EVENT_damp_full
    let old := m.ras.dampOvf
    let ovf := if old.any (fun o => o.1 == cls) then
        old.map (fun o => if o.1 = cls then (cls, o.2.1 + 1, frameMin o.2.2.1 frame, frameMax o.2.2.2 frame) else o)
      else old ++ [(cls, 1, frame, frame)]
    m.setRas (fun r => { r with dampOvf := ovf })
  else
    let d : Damp :=
      { subject := subject, unitType := ut, unit := unit, cls := cls, cause := cause, opened := m.F, count := 1, lastCount := 1, updated := 0,
        lowest := frame, highest := frame, first := reporter }
    let m := m.setRas (fun r => { r with damper := r.damper ++ [d] })
    (m.logRec (d.logOf 1 m.tick.ns)).raise RAS_EVENT_damp_first

/-- The key that a damper row names. -/
def Damp.isKey (d : Damp) (cls ut unit subject : Nat) : Bool :=
  d.subject == subject && d.unitType == ut && d.unit == unit && d.cls == cls

/-- At the edge that ended a frame 16, 32 and so on after the entry opened, a changed count writes an UPDATE record. -/
def effDamperUpdate (cls ut unit subject : Nat) (m : Module) : Module :=
  match m.ras.damper.find? (fun d => d.isKey cls ut unit subject && decide (subMod 48 m.F d.opened ≤ 256)) with
  | none => m
  | some d =>
    let age := subMod 48 (subMod 48 m.F 1) d.opened
    if age = 0 || age ≥ 256 || age % 16 != 0 || age == d.updated || d.count == d.lastCount then m
    else
      (m.setRas (fun r => { r with damper := r.damper.map (fun x => if x == d then { x with lastCount := x.count, updated := age } else x) })).logRec
        (d.logOf 2 m.tick.ns)

/-- At the edge ending the last of its frames an entry closes, with a FINAL record when its count grew. -/
def effDamperClose (cls ut unit subject : Nat) (m : Module) : Module :=
  match m.ras.damper.find? (·.isKey cls ut unit subject) with
  | none => m
  | some d =>
    if m.dampOpen d then m
    else
      let m := m.setRas (fun r => { r with damper := r.damper.filter (· != d) })
      if d.count > d.lastCount then m.logRec (d.logOf 3 m.tick.ns) else m

/-- Once in every 16 frames, one OVERFLOW record for each class whose reports found the damper full. -/
def effDamperOverflow (m : Module) : Module :=
  if subMod 48 m.F m.ras.dampAt < 16 then m
  else
    let l := m.ras.dampOvf
    let m := m.setRas (fun r => { r with dampOvf := [], dampAt := m.F })
    each l m (fun m o => m.logRec
      { cls := o.1, rtype := 4, cause := 0, sub := 0, unitType := 0, unit := 0, module_ := m.selfId, frame := o.2.2.1,
        part := none, die := 12, ctx := none,
        detail := min o.2.1 (2 ^ 32 - 1) + 2 ^ 32 * min (subMod 48 o.2.2.2 o.2.2.1) (2 ^ 32 - 1), phase := m.tick.ns })

/-! ### Fault reports (R393) -/

/-- The bytes of a FAULT message. -/
def faultBytes (cls cause ut unit subject frame reporter : Nat) : List Byte :=
  leBytes 1 cls ++ leBytes 1 cause ++ leBytes 2 ut ++ leBytes 2 unit ++ leBytes 2 subject ++ leBytes 6 frame ++ leBytes 2 reporter

/-- An event to be reported waits, when a collector is set, is not this module, and reports are enabled. -/
def Module.report (m : Module) (cls cause ut unit subject : Nat) : Module :=
  if m.flag RAS_CTRL_send_faults && m.flag RAS_FAULT_COLLECT_enable && m.fld RAS_FAULT_COLLECT_module_id != m.selfId then
    m.setRas (fun r => { r with reports := r.reports ++ [faultBytes cls cause ut unit subject m.F m.selfId] })
  else m

/-- The damper takes a report's bytes. -/
def Module.dampBytes (m : Module) (b : List Byte) : Module :=
  m.damp (fieldOf b 0 1) (fieldOf b 1 1) (fieldOf b 2 1) (fieldOf b 4 2) (fieldOf b 6 2) (fieldOf b 8 6) (fieldOf b 14 2)

/-- The oldest waiting report is sent to the collector and passes through the damper. -/
def effFaultSend (m : Module) : Module :=
  match m.ras.reports with
  | [] => m
  | b :: rest => ((m.setRas (fun r => { r with reports := rest })).sendCtrl (m.fld RAS_FAULT_COLLECT_module_id) ctrlFAULT b).dampBytes b

/-- A report arrives from another module; it is not forwarded. -/
def effFaultReceived (cls cause ut unit subject frame reporter : Nat) (m : Module) : Module :=
  m.damp cls cause ut unit subject frame reporter

/-! ### Retirement decisions (R377, R378, R385 to R388) -/

/-- Is a unit in the moraine? -/
def Module.retired (m : Module) (ut unit : Nat) : Bool := m.ras.moraine.any (fun e => e.unitType == ut && e.unit == unit)

/-- The 16 bytes of a moraine entry. -/
def Moraine.bytes (e : Moraine) : List Byte :=
  leBytes 1 e.unitType ++ leBytes 1 e.cause ++ leBytes 2 e.unit ++ leBytes 6 e.frame ++ leBytes 2 (min e.count 0xFFFF) ++ zeros 4

/-- Clear a bit of a bitmap that starts at byte `off` of a value. -/
def clearBit (v : List Byte) (off i : Nat) : List Byte :=
  let b := (v.getD (off + i / 8) 0).toNat
  if b.testBit (i % 8) then v.set (off + i / 8) (BitVec.ofNat 8 (b - 2 ^ (i % 8))) else v

/-- Byte offset in a BIND value of the bitmap of a unit type. -/
def bindField (ut : Nat) : Option Nat :=
  match ut with
  | 1 => some 8
  | 2 => some 200
  | 3 => some 136
  | 4 => some 208
  | 7 => some 212
  | _ => none

/-- Does a BIND record name a unit? -/
def bindNames (v : List Byte) (ut unit : Nat) : Bool :=
  match bindField ut with | some o => bmap v o unit | none => false

/-- Remove a unit from every BIND record. -/
def unbind (r : Recs) (ut unit : Nat) : Recs :=
  match bindField ut with
  | some o => r.map (fun e => if e.1 / 2 ^ 64 = 0x0501 then (e.1, clearBit e.2 o unit) else e)
  | none => r

/-- RESERVE core promoted for a retired core: lowest ID in its block, on its die, or anywhere; none that already takes the place of
another (R386). -/
def Module.promote (m : Module) (core : Nat) : Option Nat :=
  let free := (sortBy id m.ras.reserve).filter (fun c => !m.retired 1 c && !m.ras.retire.any (·.promoted == some c))
  match free.find? (fun c => c / 16 == core / 16) with
  | some c => some c
  | none => match free.find? (fun c => c / 128 == core / 128) with
    | some c => some c
    | none => free.head?

/-- Write the moraine entry of a unit: journal record, log record, event and report. -/
def Module.moraineAdd (m : Module) (ut unit cause count : Nat) : Module :=
  let e : Moraine := { unitType := ut, cause := cause, unit := unit, frame := m.F, count := count, saved := false }
  let m := (m.setRas (fun r => { r with moraine := r.moraine ++ [e] })).jWrite jMORAINE_ADD e.bytes
  let m := (m.logEvent clsRETIRE cause 0 ut unit none none 0).raise RAS_EVENT_retired
  m.report clsRETIRE cause ut unit m.selfId

/-- The composition before the changes of this window is kept for what is still in force until the edge. -/
def Module.keepOld (m : Module) : Module :=
  { m with comp := { m.comp with oldRecs := some (m.comp.oldRecs.getD m.comp.recs) } }

/-- Step 3 decides to retire a unit: in force at the edge, with the promotion of R386, but its bindings are gone for the
placements of step 8. -/
def Module.decideRetire (m : Module) (ut unit cause count : Nat) : Module :=
  if m.retired ut unit then m
  else
    let bound := (bindsOf m.nextRecs).any (fun e => bindNames e.2 ut unit)
    let m := m.moraineAdd ut unit cause count
    let promoted := if ut = 1 then m.promote unit else none
    let m := m.setRas (fun r => { r with retire := r.retire ++
      [{ unitType := ut, unit := unit, cause := cause, frame := m.F, count := count, bound := bound, promoted := promoted }] })
    let m := if bound then
        let m := m.keepOld
        { m with comp := { m.comp with recs := unbind m.comp.recs ut unit } }
      else m
    if ut = 1 && promoted.isNone then m.raise RAS_EVENT_reserve_empty else m

/-- Step 3 judges every unit on the events of the frame, but for lanes and lane groups, which are judged at once (R378). -/
def Module.judge (m : Module) : Module :=
  let l := m.ras.events
  let m := m.setRas (fun r => { r with events := [] })
  each l m (fun m e =>
    if e.row = 9 || e.row = 10 then m
    else
      let n := match m.ras.hist.get? (e.row * 2 ^ 16 + e.unit) with | some h => h.count | none => 0
      if e.repeat_ then m.decideRetire e.unitType e.unit errRETIRED_REPEAT n
      else if m.overThreshold e.row e.unit then m.decideRetire e.unitType e.unit errRETIRED n
      else m)

/-- Uncorrectable plate errors in step 3 (R381): the line is zeroed and read back, the entries over it go, and a tile that
read it is retried only when the line can be written again. `bad` lists the cores whose read-back fails. -/
def Module.plateErrors (m : Module) (bad : List Nat) : Module :=
  let l := m.ras.plateUe
  let m := m.setRas (fun r => { r with plateUe := [] })
  let m := each l m (fun m e =>
    let m := m.modCore e.1 (fun k => { k with
      plate := SMap.set plateDefault k.plate e.2.1 0,
      tags := k.tags.filter (fun t => !(t.first ≤ e.2.1 && e.2.1 < t.first + t.lines)) })
    if bad.contains e.1 then (m.logEvent clsCORE errPLATE_UE 0 1 e.1 none none 0).errEvent 0 e.1 none true else m)
  each m.retries m (fun m t =>
    match t.ueLine with
    | some line => if t.ueRetries line then m
      else (m.logEvent clsCORE errDATA_LOST 1 1 t.lastErrCore (let p := m.ctxPart t.ctx; if p < 64 then some p else none) (some t.ctx) 0).willLose t.ctx lostDATA_LOST
    | none => m)

/-! ### The system carve-out (R384) -/

/-- The mirror ring's base and size in bytes. -/
def Module.mirrorBase (m : Module) : Nat := m.reg64 TWIN_RING_BASE_LO TWIN_RING_BASE_HI
def Module.mirrorSize (m : Module) : Nat := m.fld TWIN_RING_SIZE_mib * 2 ^ 20

/-- Does a message of a ring of `size` bytes hold a place of it? A message wraps at the end of the ring. -/
def MirrorMsg.holds (x : MirrorMsg) (size place : Nat) : Bool :=
  (x.at_ ≤ place && place < x.at_ + x.len) || place + size < x.at_ + x.len

/-- Act on the uncorrectable lines of the system carve-out that were found. -/
def Module.actSystem (m : Module) : Module :=
  let l := m.ras.sysLines
  let m := m.setRas (fun r => { r with sysLines := [] })
  each l m (fun m line =>
    if m.mirrorBase ≤ line && line < m.mirrorBase + m.mirrorSize then
      match m.twin.ring.find? (·.holds m.mirrorSize (line - m.mirrorBase)) with
      | some x =>
        (m.setTwin (fun t => { t with ring := t.ring.filter (· != x) })).modTwinVd x.vd (fun t => { t with state := tvUNPROTECTED, seeded := false })
      | none => m
    else if m.ringBase ≤ line && line < m.ringBase + ringRecords * 32 then m
    else if m.flag RAS_STATUS_system_ue then m
    else
      let m := (m.setFld RAS_STATUS_system_ue 1).raise RAS_EVENT_system_ue
      let m := m.logEvent clsRETIRE errSYSTEM_UE 0 0 0 none none line
      let m := m.report clsRETIRE errSYSTEM_UE 0 0 m.selfId
      let m := m.sendTwin tmFAILED 0 0 (leBytes 1 3)
      let m := m.setObj (fun o => { o with stopPickup := true })
      each (m.obj.ctxs.filter (fun e => e.2.state != .free)) m (fun m e => m.willLose e.1 lostDATA_LOST))

end Sys2Proof.Machine
end

