-- ==== Sys2Proof/Machine/RvInt.lean ====
section
/-!
DEFINITION. The integer instructions of the steward cores (R10, R111): the register file of a hart, what an instruction does to
it, RV64I with M, A, Zicsr and Zifencei, and the 32-bit instruction that each 16-bit one of the C extension stands for.
PRESUMED (log entry 30): encodings and results are those of the RISC-V unprivileged specification, which R10 names.
-/
namespace Sys2Proof.Machine

/-! ### Registers of a hart -/

/-- Write a register: x 0 to 31 (x0 stays zero), f 32 to 63, v 64 to 95. -/
def Hart.setReg (t : Hart) (r v : Nat) : Hart :=
  if r = 0 then t
  else if r < 32 then { t with x := SMap.set (fun _ => 0) t.x r (v % 2 ^ 64) }
  else if r < 64 then { t with f := SMap.set (fun _ => 0) t.f (r - 32) (v % 2 ^ 64) }
  else { t with v := SMap.set (fun _ => 0) t.v (r - 64) (v % 2 ^ 512) }

/-- x register `r`; x0 is zero. -/
def Hart.xr (t : Hart) (r : Nat) : Nat := if r = 0 then 0 else SMap.get (fun _ => 0) t.x r

/-- f register `r`, 64 bits. -/
def Hart.fr (t : Hart) (r : Nat) : Nat := SMap.get (fun _ => 0) t.f r

/-- v register `r`, 512 bits. -/
def Hart.vr (t : Hart) (r : Nat) : Nat := SMap.get (fun _ => 0) t.v r

/-- A CSR of a hart, 64 bits; it reads 0 where nothing was written. -/
def Hart.csrOf (t : Hart) (n : Nat) : Nat := SMap.get (fun _ => 0) t.csr n
def Hart.setCsr (t : Hart) (n v : Nat) : Hart := { t with csr := SMap.set (fun _ => 0) t.csr n (v % 2 ^ 64) }

/-- The hart goes on `len` bytes further. -/
def Hart.skip (t : Hart) (len : Nat) : Hart := { t with pc := (t.pc + len) % 2 ^ 64 }

/-- A value of `w` bits sign-extended to 64. -/
def sext (w v : Nat) : Nat := unsigned 64 (signed w v)

/-! ### What an instruction does -/

/-- How an instruction writes a CSR. -/
inductive CsrOp where
  | read | write | set | clear
  deriving DecidableEq, Repr

/-- The address space of an access: the program's own, or the two-stage one of the H extension, for a load that needs execute
permission or for any other access. -/
inductive StwSpace where
  | own | guest | guestExec
  deriving DecidableEq, Repr

/-- What a decoded instruction does. Registers are numbered x 0 to 31, f 32 to 63, v 64 to 95; addresses are virtual. -/
inductive RvResult where
  /-- It changes the hart alone. -/
  | done (t : Hart)
  /-- A load of pieces, elements of `elem` bytes, into the register or group at `rd`, sign-extended or not; for a
  fault-only-first load `ff` is the fields of a segment, otherwise 0. -/
  | load (space : StwSpace) (parts : List StwPiece) (elem rd : Nat) (sx : Bool) (ff : Nat)
  /-- A store of pieces, elements of `elem` bytes: address and data. -/
  | store (space : StwSpace) (elem : Nat) (parts : List (Nat × List Byte))
  /-- An atomic operation on `len` bytes: the old value goes to `rd`, `src` is the operand. -/
  | amo (va len rd : Nat) (op : AmoOp) (src : Nat)
  /-- A CSR instruction: the old value goes to `rd`. -/
  | csr (num rd : Nat) (op : CsrOp) (src : Nat)
  /-- ECALL and EBREAK: the supervisor serves it, or the program stops with the scause. -/
  | call (scause : Nat)
  /-- An exception with its scause. -/
  | trap (scause : Nat)
  deriving DecidableEq, Repr

/-- An illegal instruction. -/
def RvResult.illegal : RvResult := .trap 2

/-! ### Immediates of the 32-bit formats -/

def immI (w : Nat) : Nat := sext 12 (bits w 20 12)
def immS (w : Nat) : Nat := sext 12 (bits w 25 7 * 32 + bits w 7 5)
def immB (w : Nat) : Nat := sext 13 (bits w 31 1 * 2 ^ 12 + bits w 7 1 * 2 ^ 11 + bits w 25 6 * 32 + bits w 8 4 * 2)
def immU (w : Nat) : Nat := sext 32 (bits w 12 20 * 2 ^ 12)
def immJ (w : Nat) : Nat := sext 21 (bits w 31 1 * 2 ^ 20 + bits w 12 8 * 2 ^ 12 + bits w 20 1 * 2 ^ 11 + bits w 21 10 * 2)

/-! ### Arithmetic -/

/-- The operations of OP and OP-IMM on `w` bits, by funct3; `alt` is bit 30: SUB and SRA. Shift amounts are of log2 w bits. -/
def rvAlu (w f3 : Nat) (alt : Bool) (a b : Nat) : Nat :=
  let a := a % 2 ^ w
  let b := b % 2 ^ w
  let sh := b % w
  match f3 with
  | 0 => if alt then subMod w a b else (a + b) % 2 ^ w
  | 1 => a * 2 ^ sh % 2 ^ w
  | 2 => b2n (signed w a < signed w b)
  | 3 => b2n (a < b)
  | 4 => a ^^^ b
  | 5 => if alt then unsigned w (signed w a / 2 ^ sh) else a / 2 ^ sh
  | 6 => a ||| b
  | _ => a &&& b

/-- Quotient of `w`-bit signed numbers, toward zero; all ones for a divisor of 0, the dividend for the overflow. -/
def rvDiv (w a b : Nat) : Nat := if b % 2 ^ w = 0 then 2 ^ w - 1 else unsigned w ((signed w a).tdiv (signed w b))

/-- Remainder of `w`-bit signed numbers, with the sign of the dividend; the dividend for a divisor of 0. -/
def rvRem (w a b : Nat) : Nat := if b % 2 ^ w = 0 then a % 2 ^ w else unsigned w ((signed w a).tmod (signed w b))

def rvDivu (w a b : Nat) : Nat := if b % 2 ^ w = 0 then 2 ^ w - 1 else (a % 2 ^ w) / (b % 2 ^ w)
def rvRemu (w a b : Nat) : Nat := if b % 2 ^ w = 0 then a % 2 ^ w else (a % 2 ^ w) % (b % 2 ^ w)

/-- The upper `w` bits of a product, each factor signed or not. -/
def rvMulh (w : Nat) (sa sb : Bool) (a b : Nat) : Nat :=
  let v (s : Bool) (x : Nat) : Int := if s then signed w x else ((x % 2 ^ w : Nat) : Int)
  unsigned w (v sa a * v sb b / 2 ^ w)

/-- The M extension on `w` bits, by funct3. -/
def rvMul (w f3 a b : Nat) : Nat :=
  match f3 with
  | 0 => a * b % 2 ^ w
  | 1 => rvMulh w true true a b
  | 2 => rvMulh w true false a b
  | 3 => rvMulh w false false a b
  | 4 => rvDiv w a b
  | 5 => rvDivu w a b
  | 6 => rvRem w a b
  | _ => rvRemu w a b

/-- Does a branch of a funct3 go? -/
def rvTaken (f3 a b : Nat) : Option Bool :=
  match f3 with
  | 0 => some (a == b)
  | 1 => some (a != b)
  | 4 => some (decide (signed 64 a < signed 64 b))
  | 5 => some (decide (signed 64 b ≤ signed 64 a))
  | 6 => some (decide (a < b))
  | 7 => some (decide (b ≤ a))
  | _ => none

/-- Operation of an A instruction by its funct5. -/
def amoOf (f5 : Nat) : Option AmoOp :=
  match f5 with
  | 0 => some .add
  | 1 => some .swap
  | 2 => some .lr
  | 3 => some .sc
  | 4 => some .xor
  | 8 => some .or_
  | 12 => some .and_
  | 16 => some .min_
  | 20 => some .max_
  | 24 => some .minu
  | 28 => some .maxu
  | _ => none

/-- Result of an atomic operation on words of `n` bytes: old value and operand. -/
def AmoOp.apply (op : AmoOp) (n old src : Nat) : Nat :=
  let w := 8 * n
  let src := src % 2 ^ w
  match op with
  | .swap | .sc => src
  | .add => (old + src) % 2 ^ w
  | .xor => old ^^^ src
  | .and_ => old &&& src
  | .or_ => old ||| src
  | .min_ => if signed w old ≤ signed w src then old else src
  | .max_ => if signed w old ≤ signed w src then src else old
  | .minu => min old src
  | .maxu => max old src
  | .lr => old

/-- One access of `len` bytes. -/
def onePiece (va len : Nat) : List StwPiece := [{ va := va % 2 ^ 64, len := len, pos := 0 }]

/-- SYSTEM: the environment calls, the CSR instructions, and the hypervisor loads and stores, which U-mode may use with
hstatus.HU. The instructions of higher modes, WFI among them, are illegal in U-mode. -/
def rvSystem (t : Hart) (w : Nat) : RvResult :=
  let rd := bits w 7 5
  let f3 := bits w 12 3
  let rs1 := bits w 15 5
  let f7 := bits w 25 7
  let num := bits w 20 12
  let src := if f3 ≥ 4 then rs1 else t.xr rs1
  match f3 with
  | 0 => if w = 0x73 then .call 8 else if w = 0x0010_0073 then .call 3 else .illegal
  | 4 =>
    if !bit (t.csrOf 0x600) 9 then .illegal
    else
      let n := 2 ^ (bits f7 1 2)
      let rs2 := bits w 20 5
      if bits f7 3 4 ≠ 6 then .illegal
      else if bit f7 0 then (if rd = 0 then .store .guest n [(t.xr rs1, leBytes n (t.xr rs2))] else .illegal)
      else if rs2 = 0 || (rs2 = 1 && n < 8) then .load .guest (onePiece (t.xr rs1) n) n rd (rs2 == 0) 0
      else if rs2 = 3 && (n = 2 || n = 4) then .load .guestExec (onePiece (t.xr rs1) n) n rd false 0
      else .illegal
  | 1 | 5 => .csr num rd .write src
  | 2 | 6 => .csr num rd (if rs1 = 0 then .read else .set) src
  | _ => .csr num rd (if rs1 = 0 then .read else .clear) src

/-- An integer instruction of 32 bits, or of 16 (`len` 2) in its 32-bit form; none for an opcode of F, D or V. -/
def rvInt (t : Hart) (w len : Nat) : Option RvResult :=
  let rd := bits w 7 5
  let f3 := bits w 12 3
  let f7 := bits w 25 7
  let a := t.xr (bits w 15 5)
  let b := t.xr (bits w 20 5)
  let put (v : Nat) : Option RvResult := some (.done ((t.setReg rd v).skip len))
  let jump (t : Hart) (pc : Nat) : Option RvResult := some (.done { t with pc := pc % 2 ^ 64 })
  let bad : Option RvResult := some .illegal
  match bits w 0 7 with
  | 0x37 => put (immU w)
  | 0x17 => put (t.pc + immU w)
  | 0x6F => jump (t.setReg rd (t.pc + len)) (t.pc + immJ w)
  | 0x67 => if f3 = 0 then jump (t.setReg rd (t.pc + len)) ((a + immI w) / 2 * 2) else bad
  | 0x63 => match rvTaken f3 a b with
    | some go => jump t (t.pc + (if go then immB w else len))
    | none => bad
  | 0x03 => if f3 = 7 then bad else some (.load .own (onePiece (a + immI w) (2 ^ (f3 % 4))) (2 ^ (f3 % 4)) rd (decide (f3 < 4)) 0)
  | 0x23 => if f3 > 3 then bad else some (.store .own (2 ^ f3) [((a + immS w) % 2 ^ 64, leBytes (2 ^ f3) b)])
  | 0x13 =>
    if f3 = 1 && bits w 26 6 ≠ 0 then bad
    else if f3 = 5 && bits w 26 6 ≠ 0 && bits w 26 6 ≠ 16 then bad
    else put (rvAlu 64 f3 (f3 == 5 && bit w 30) a (immI w))
  | 0x1B =>
    if f3 = 0 then put (sext 32 (a + immI w))
    else if f3 = 1 && f7 = 0 then put (sext 32 (rvAlu 32 1 false a (bits w 20 5)))
    else if f3 = 5 && (f7 = 0 || f7 = 32) then put (sext 32 (rvAlu 32 5 (f7 == 32) a (bits w 20 5)))
    else bad
  | 0x33 =>
    if f7 = 0 || (f7 = 32 && (f3 = 0 || f3 = 5)) then put (rvAlu 64 f3 (f7 == 32) a b)
    else if f7 = 1 then put (rvMul 64 f3 a b)
    else bad
  | 0x3B =>
    if (f7 = 0 && (f3 = 0 || f3 = 1 || f3 = 5)) || (f7 = 32 && (f3 = 0 || f3 = 5)) then put (sext 32 (rvAlu 32 f3 (f7 == 32) a b))
    else if f7 = 1 && (f3 = 0 || f3 ≥ 4) then put (sext 32 (rvMul 32 f3 a b))
    else bad
  | 0x0F => if f3 ≤ 1 then some (.done (t.skip len)) else bad
  | 0x2F =>
    if f3 ≠ 2 && f3 ≠ 3 then bad
    else match amoOf (bits w 27 5) with
      | some op => if op == .lr && bits w 20 5 ≠ 0 then bad else some (.amo a (2 ^ f3) rd op b)
      | none => bad
  | 0x73 => some (rvSystem t w)
  | _ => none

/-! ### The C extension -/

/-- The 32-bit formats, from their fields. -/
def encR (f7 rs2 rs1 f3 rd op : Nat) : Nat := f7 * 2 ^ 25 + rs2 * 2 ^ 20 + rs1 * 2 ^ 15 + f3 * 2 ^ 12 + rd * 2 ^ 7 + op
def encI (imm rs1 f3 rd op : Nat) : Nat := imm % 2 ^ 12 * 2 ^ 20 + rs1 * 2 ^ 15 + f3 * 2 ^ 12 + rd * 2 ^ 7 + op
def encS (imm rs2 rs1 f3 op : Nat) : Nat := encR (bits imm 5 7) rs2 rs1 f3 (bits imm 0 5) op
def encB (imm rs1 f3 : Nat) : Nat :=
  bits imm 12 1 * 2 ^ 31 + bits imm 5 6 * 2 ^ 25 + rs1 * 2 ^ 15 + f3 * 2 ^ 12 + bits imm 1 4 * 2 ^ 8 + bits imm 11 1 * 2 ^ 7 + 0x63
def encJ (imm rd : Nat) : Nat :=
  bits imm 20 1 * 2 ^ 31 + bits imm 1 10 * 2 ^ 21 + bits imm 11 1 * 2 ^ 20 + bits imm 12 8 * 2 ^ 12 + rd * 2 ^ 7 + 0x6F
def encU (imm rd op : Nat) : Nat := imm % 2 ^ 20 * 2 ^ 12 + rd * 2 ^ 7 + op

/-- The 32-bit instruction that a 16-bit one stands for; none for one that is illegal or reserved. -/
def expandC (h : Nat) : Option Nat :=
  let f3 := bits h 13 3
  let rd := bits h 7 5
  let rs2 := bits h 2 5
  let rdp := 8 + bits h 2 3
  let rs1p := 8 + bits h 7 3
  let imm6 := sext 6 (bits h 12 1 * 32 + bits h 2 5)
  let sh := bits h 12 1 * 32 + bits h 2 5
  let offD := bits h 10 3 * 8 + bits h 5 2 * 64
  let offW := bits h 10 3 * 8 + bits h 6 1 * 4 + bits h 5 1 * 64
  let spD := bits h 12 1 * 32 + bits h 5 2 * 8 + bits h 2 3 * 64
  let spW := bits h 12 1 * 32 + bits h 4 3 * 4 + bits h 2 2 * 64
  let spSD := bits h 10 3 * 8 + bits h 7 3 * 64
  let spSW := bits h 9 4 * 4 + bits h 7 2 * 64
  let offJ := sext 12 (bits h 12 1 * 2 ^ 11 + bits h 11 1 * 16 + bits h 9 2 * 256 + bits h 8 1 * 1024 + bits h 7 1 * 64 +
    bits h 6 1 * 128 + bits h 3 3 * 2 + bits h 2 1 * 32)
  let offB := sext 9 (bits h 12 1 * 256 + bits h 10 2 * 8 + bits h 5 2 * 64 + bits h 3 2 * 2 + bits h 2 1 * 32)
  match bits h 0 2, f3 with
  | 0, 0 =>
    let imm := bits h 11 2 * 16 + bits h 7 4 * 64 + bits h 6 1 * 4 + bits h 5 1 * 8
    if imm = 0 then none else some (encI imm 2 0 rdp 0x13)
  | 0, 1 => some (encI offD rs1p 3 rdp 0x07)
  | 0, 2 => some (encI offW rs1p 2 rdp 0x03)
  | 0, 3 => some (encI offD rs1p 3 rdp 0x03)
  | 0, 5 => some (encS offD rdp rs1p 3 0x27)
  | 0, 6 => some (encS offW rdp rs1p 2 0x23)
  | 0, 7 => some (encS offD rdp rs1p 3 0x23)
  | 1, 0 => some (encI imm6 rd 0 rd 0x13)
  | 1, 1 => if rd = 0 then none else some (encI imm6 rd 0 rd 0x1B)
  | 1, 2 => some (encI imm6 0 0 rd 0x13)
  | 1, 3 =>
    if rd = 2 then
      let imm := sext 10 (bits h 12 1 * 512 + bits h 6 1 * 16 + bits h 5 1 * 64 + bits h 3 2 * 128 + bits h 2 1 * 32)
      if imm = 0 then none else some (encI imm 2 0 2 0x13)
    else if imm6 = 0 then none else some (encU imm6 rd 0x37)
  | 1, 4 =>
    (match bits h 10 2 with
     | 0 => some (encI sh rs1p 5 rs1p 0x13)
     | 1 => some (encI (1024 + sh) rs1p 5 rs1p 0x13)
     | 2 => some (encI imm6 rs1p 7 rs1p 0x13)
     | _ =>
       match bits h 12 1, bits h 5 2 with
       | 0, 0 => some (encR 32 rdp rs1p 0 rs1p 0x33)
       | 0, 1 => some (encR 0 rdp rs1p 4 rs1p 0x33)
       | 0, 2 => some (encR 0 rdp rs1p 6 rs1p 0x33)
       | 0, _ => some (encR 0 rdp rs1p 7 rs1p 0x33)
       | _, 0 => some (encR 32 rdp rs1p 0 rs1p 0x3B)
       | _, 1 => some (encR 0 rdp rs1p 0 rs1p 0x3B)
       | _, _ => none)
  | 1, 5 => some (encJ offJ 0)
  | 1, 6 => some (encB offB rs1p 0)
  | 1, 7 => some (encB offB rs1p 1)
  | 2, 0 => some (encI sh rd 1 rd 0x13)
  | 2, 1 => some (encI spD 2 3 rd 0x07)
  | 2, 2 => if rd = 0 then none else some (encI spW 2 2 rd 0x03)
  | 2, 3 => if rd = 0 then none else some (encI spD 2 3 rd 0x03)
  | 2, 4 =>
    if bits h 12 1 = 0 then
      (if rs2 ≠ 0 then some (encR 0 rs2 0 0 rd 0x33) else if rd = 0 then none else some (encI 0 rd 0 0 0x67))
    else if rs2 ≠ 0 then some (encR 0 rs2 rd 0 rd 0x33)
    else if rd = 0 then some 0x0010_0073
    else some (encI 0 rd 0 1 0x67)
  | 2, 5 => some (encS spSD rs2 2 3 0x27)
  | 2, 6 => some (encS spSW rs2 2 2 0x23)
  | 2, 7 => some (encS spSD rs2 2 3 0x23)
  | _, _ => none

end Sys2Proof.Machine
end

