-- ==== Sys2Proof/Machine/RvFloat.lean ====
section
/-!
DEFINITION. Binary floating point of the steward cores (R10, R111): the formats of 32 and 64 bits with the five rounding modes
and the exception flags, and the instructions of the F and D extensions. PRESUMED (log entry 30): the arithmetic is that of
IEEE 754, with tininess found after rounding, and encodings, NaN boxing and the canonical NaN are those of the RISC-V specification.
-/
namespace Sys2Proof.Machine

/-- A binary format: widths of exponent and fraction. -/
structure FpFmt where
  e : Nat
  m : Nat
  deriving DecidableEq, Repr

def fpS : FpFmt := { e := 8, m := 23 }
def fpD : FpFmt := { e := 11, m := 52 }

/-- Rounding modes; `rod` rounds to odd (VFNCVT.ROD). -/
inductive FpRm where
  | rne | rtz | rdn | rup | rmm | rod
  deriving DecidableEq, Repr

/-- A value: NaN, quiet or signalling, infinity, or (-1)^s n 2^x. -/
inductive Fp where
  | nan (quiet : Bool)
  | inf (s : Bool)
  | fin (s : Bool) (n : Nat) (x : Int)
  deriving DecidableEq, Repr

/-- A result and the flags it raises: NV 16, DZ 8, OF 4, UF 2, NX 1. -/
abbrev FpOut := Nat × Nat

def FpFmt.bias (f : FpFmt) : Nat := 2 ^ (f.e - 1) - 1
def FpFmt.width (f : FpFmt) : Nat := 1 + f.e + f.m
def FpFmt.signed (f : FpFmt) (s : Bool) (v : Nat) : Nat := b2n s * 2 ^ (f.e + f.m) + v
def FpFmt.qnan (f : FpFmt) : Nat := (2 ^ f.e - 1) * 2 ^ f.m + 2 ^ (f.m - 1)
def FpFmt.infOf (f : FpFmt) (s : Bool) : Nat := f.signed s ((2 ^ f.e - 1) * 2 ^ f.m)
def FpFmt.maxOf (f : FpFmt) (s : Bool) : Nat := f.signed s ((2 ^ f.e - 1) * 2 ^ f.m - 1)

/-- The value of a bit pattern. -/
def FpFmt.value (f : FpFmt) (v : Nat) : Fp :=
  let s := bit v (f.e + f.m)
  let x := bits v f.m f.e
  let n := bits v 0 f.m
  if x = 2 ^ f.e - 1 then (if n = 0 then .inf s else .nan (bit n (f.m - 1)))
  else if x = 0 then .fin s n (1 - f.bias - f.m)
  else .fin s (2 ^ f.m + n) (x - f.bias - f.m)

/-- n / 2^sh rounded to a whole number, and whether it changed. -/
def fpShift (rm : FpRm) (s : Bool) (n : Nat) (sh : Int) : Nat × Bool :=
  if sh ≤ 0 then (n * 2 ^ (-sh).toNat, false)
  else
    let u := 2 ^ sh.toNat
    let q := n / u
    let r := n % u
    let up := match rm with
      | .rne => 2 * r > u || (2 * r == u && q % 2 == 1)
      | .rtz => false
      | .rdn => s && r != 0
      | .rup => !s && r != 0
      | .rmm => 2 * r ≥ u
      | .rod => r != 0 && q % 2 == 0
    (q + b2n up, r != 0)

/-- Round (-1)^s n 2^x, n not 0, into a format. -/
def FpFmt.round (f : FpFmt) (rm : FpRm) (s : Bool) (n : Nat) (x : Int) : FpOut :=
  let low : Int := 1 - f.bias - f.m
  let top : Int := n.log2 + x
  let q := max (top - f.m) low
  let (sig, inexact) := fpShift rm s n (q - x)
  let (sig, q) := if sig ≥ 2 ^ (f.m + 1) then (sig / 2, q + 1) else (sig, q)
  let exp : Nat := if sig ≥ 2 ^ f.m then (q - low + 1).toNat else 0
  if exp ≥ 2 ^ f.e - 1 then
    let toInf := match rm with | .rne | .rmm => true | .rtz | .rod => false | .rdn => s | .rup => !s
    (if toInf then f.infOf s else f.maxOf s, 5)
  else
    let free := (fpShift rm s n (top - f.m - x)).1
    let tiny := top + (if free ≥ 2 ^ (f.m + 1) then 1 else 0) < 1 - (f.bias : Int)
    (f.signed s (exp * 2 ^ f.m + sig % 2 ^ f.m), if inexact then (if tiny then 3 else 1) else 0)

/-- A NaN result: canonical, NV when an operand is signalling. -/
def FpFmt.nanOut (f : FpFmt) (l : List Fp) : FpOut := (f.qnan, if l.any (· == .nan false) then 16 else 0)

/-- An invalid operation. -/
def FpFmt.invalid (f : FpFmt) : FpOut := (f.qnan, 16)

def Fp.isNan (v : Fp) : Bool := match v with | .nan _ => true | _ => false
def Fp.neg (v : Fp) : Fp := match v with | .nan q => .nan q | .inf s => .inf !s | .fin s n x => .fin (!s) n x

/-- An exact integer multiple of 2^x, rounded; an exact zero of operands with signs `sa` and `sb` is negative when both are, or when
they differ and rounding is down. -/
def FpFmt.ofSum (f : FpFmt) (rm : FpRm) (sa sb : Bool) (v : Int) (x : Int) (zeros : Bool) : FpOut :=
  if v = 0 then (f.signed (if zeros && sa == sb then sa else rm == .rdn) 0, 0) else f.round rm (decide (v < 0)) v.natAbs x

/-- Sum. -/
def FpFmt.add (f : FpFmt) (rm : FpRm) (a b : Fp) : FpOut :=
  match a, b with
  | .fin sa na xa, .fin sb nb xb =>
    let x := min xa xb
    let term (s : Bool) (n : Nat) (e : Int) : Int := (if s then -1 else 1) * ((n * 2 ^ (e - x).toNat : Nat) : Int)
    f.ofSum rm sa sb (term sa na xa + term sb nb xb) x (na == 0 && nb == 0)
  | .inf sa, .inf sb => if sa == sb then (f.infOf sa, 0) else f.invalid
  | .inf s, .fin .. => (f.infOf s, 0)
  | .fin .., .inf s => (f.infOf s, 0)
  | _, _ => f.nanOut [a, b]

/-- The exact product of two values that are no NaN; none for infinity times zero. -/
def Fp.mulExact (a b : Fp) : Option Fp :=
  match a, b with
  | .fin sa na xa, .fin sb nb xb => some (.fin (sa != sb) (na * nb) (xa + xb))
  | .inf sa, .inf sb => some (.inf (sa != sb))
  | .inf sa, .fin sb nb _ => if nb = 0 then none else some (.inf (sa != sb))
  | .fin sa na _, .inf sb => if na = 0 then none else some (.inf (sa != sb))
  | _, _ => none

/-- A value rounded into a format. -/
def FpFmt.ofValue (f : FpFmt) (rm : FpRm) (v : Fp) : FpOut :=
  match v with
  | .nan _ => f.nanOut [v]
  | .inf s => (f.infOf s, 0)
  | .fin s n x => if n = 0 then (f.signed s 0, 0) else f.round rm s n x

/-- Product. -/
def FpFmt.mul (f : FpFmt) (rm : FpRm) (a b : Fp) : FpOut :=
  if a.isNan || b.isNan then f.nanOut [a, b]
  else match a.mulExact b with
    | some v => f.ofValue rm v
    | none => f.invalid

/-- a b + c, rounded once. -/
def FpFmt.fma (f : FpFmt) (rm : FpRm) (a b c : Fp) : FpOut :=
  if a.isNan || b.isNan then f.nanOut [a, b, c]
  else match a.mulExact b with
    | none => f.invalid
    | some p => if c.isNan then f.nanOut [c] else f.add rm p c

/-- Quotient. -/
def FpFmt.div (f : FpFmt) (rm : FpRm) (a b : Fp) : FpOut :=
  match a, b with
  | .fin sa na xa, .fin sb nb xb =>
    let s := sa != sb
    if nb = 0 then (if na = 0 then f.invalid else (f.infOf s, 8))
    else if na = 0 then (f.signed s 0, 0)
    else
      let k := f.m + 4 + nb.log2 - na.log2
      let n := na * 2 ^ k
      f.round rm s (2 * (n / nb) + b2n (n % nb != 0)) (xa - xb - k - 1)
  | .inf _, .inf _ => f.invalid
  | .inf sa, .fin sb .. => (f.infOf (sa != sb), 0)
  | .fin sa .., .inf sb => (f.signed (sa != sb) 0, 0)
  | _, _ => f.nanOut [a, b]

/-- Square root. -/
def FpFmt.sqrt (f : FpFmt) (rm : FpRm) (a : Fp) : FpOut :=
  match a with
  | .nan _ => f.nanOut [a]
  | .inf s => if s then f.invalid else (f.infOf false, 0)
  | .fin s n x =>
    if n = 0 then (f.signed s 0, 0)
    else if s then f.invalid
    else
      let k := 2 * (f.m + 4) + (x % 2).toNat
      let v := n * 2 ^ k
      let r := Nat.sqrt v
      f.round rm false (2 * r + b2n (r * r != v)) ((x - k) / 2 - 1)

/-- Convert between formats. -/
def fpConvert (g f : FpFmt) (rm : FpRm) (v : Nat) : FpOut := f.ofValue rm (g.value v)

/-- Convert to an integer of `w` bits, signed or not: what does not fit is invalid and saturates. -/
def Fp.toInt (v : Fp) (rm : FpRm) (w : Nat) (sgn : Bool) : FpOut :=
  let hi : Int := if sgn then 2 ^ (w - 1) - 1 else 2 ^ w - 1
  let lo : Int := if sgn then -(2 ^ (w - 1)) else 0
  match v with
  | .nan _ => (unsigned w hi, 16)
  | .inf s => (unsigned w (if s then lo else hi), 16)
  | .fin s n x =>
    let r := fpShift rm s n (-x)
    let i : Int := if s then -(r.1 : Int) else r.1
    if i < lo then (unsigned w lo, 16) else if i > hi then (unsigned w hi, 16) else (unsigned w i, b2n r.2)

/-- Convert from an integer. -/
def FpFmt.ofInt (f : FpFmt) (rm : FpRm) (i : Int) : FpOut :=
  if i = 0 then (0, 0) else f.round rm (decide (i < 0)) i.natAbs 0

/-- Is a less than b, for values that are no NaN? -/
def Fp.less (a b : Fp) : Bool :=
  match a, b with
  | .fin sa na xa, .fin sb nb xb =>
    let x := min xa xb
    let term (s : Bool) (n : Nat) (e : Int) : Int := (if s then -1 else 1) * ((n * 2 ^ (e - x).toNat : Nat) : Int)
    decide (term sa na xa < term sb nb xb)
  | .inf sa, .inf sb => sa && !sb
  | .inf s, .fin .. => s
  | .fin .., .inf s => !s
  | _, _ => false

/-- Equal, less, or less or equal (kinds 2, 1, 0 as funct3 has them): only equality is quiet. -/
def fpCompare (kind : Nat) (a b : Fp) : FpOut :=
  if a.isNan || b.isNan then (0, if kind != 2 || a == .nan false || b == .nan false then 16 else 0)
  else match kind with
    | 0 => (b2n (!b.less a), 0)
    | 1 => (b2n (a.less b), 0)
    | _ => (b2n (!a.less b && !b.less a), 0)

/-- The smaller or the larger of two patterns: -0 is below +0, a NaN gives way to a number. -/
def FpFmt.minMax (f : FpFmt) (max : Bool) (a b : Nat) : FpOut :=
  let x := f.value a
  let y := f.value b
  let fl := if x == .nan false || y == .nan false then 16 else 0
  let less := if !x.less y && !y.less x then bit a (f.e + f.m) else x.less y
  if x.isNan && y.isNan then (f.qnan, fl)
  else if x.isNan then (b, fl)
  else if y.isNan then (a, fl)
  else (if less != max then a else b, fl)

/-- The class mask of FCLASS. -/
def FpFmt.classify (f : FpFmt) (v : Nat) : Nat :=
  match f.value v with
  | .nan q => if q then 512 else 256
  | .inf s => if s then 1 else 128
  | .fin s n _ =>
    if n = 0 then (if s then 8 else 16)
    else if bits v f.m f.e = 0 then (if s then 4 else 32)
    else if s then 2 else 64

/-- Sign injection (0), its inverse (1), and exclusive or (2). -/
def FpFmt.signInject (f : FpFmt) (kind a b : Nat) : Nat :=
  let sa := bit a (f.e + f.m)
  let sb := bit b (f.e + f.m)
  f.signed (match kind with | 0 => sb | 1 => !sb | _ => sa != sb) (a % 2 ^ (f.e + f.m))

/-! ### Floating-point registers and flags -/

/-- An f register as a value of a format: a single that is not boxed is the canonical NaN. -/
def Hart.fpr (t : Hart) (f : FpFmt) (r : Nat) : Nat :=
  let v := t.fr r
  if f.width = 64 then v else if v / 2 ^ 32 = 2 ^ 32 - 1 then v % 2 ^ 32 else f.qnan

/-- A value of a format in an f register: a single is boxed. -/
def fpBox (f : FpFmt) (v : Nat) : Nat := if f.width = 64 then v else (2 ^ 32 - 1) * 2 ^ 32 + v % 2 ^ 32

/-- Raise flags in fcsr. -/
def Hart.flags (t : Hart) (fl : Nat) : Hart := if fl = 0 then t else t.setCsr 3 (t.csrOf 3 ||| fl)

/-- The rounding mode of a number; none for the reserved ones. -/
def fpRmOf (n : Nat) : Option FpRm :=
  match n with
  | 0 => some .rne
  | 1 => some .rtz
  | 2 => some .rdn
  | 3 => some .rup
  | 4 => some .rmm
  | _ => none

/-- The rounding mode of an instruction: its field, or frm. -/
def Hart.rmOf (t : Hart) (w : Nat) : Option FpRm :=
  if bits w 12 3 = 7 then fpRmOf (bits (t.csrOf 3) 5 3) else fpRmOf (bits w 12 3)

/-- The integer of a conversion field: W, WU, L, LU. -/
def fpIntOf (k v : Nat) : Int :=
  match k with
  | 0 => signed 32 v
  | 1 => ((v % 2 ^ 32 : Nat) : Int)
  | 2 => signed 64 v
  | _ => ((v % 2 ^ 64 : Nat) : Int)

/-- OP-FP. -/
def rvOpFp (t : Hart) (f : FpFmt) (w len : Nat) : RvResult :=
  let rd := bits w 7 5
  let f3 := bits w 12 3
  let rs1 := bits w 15 5
  let rs2 := bits w 20 5
  let x := t.fpr f rs1
  let y := t.fpr f rs2
  let a := f.value x
  let b := f.value y
  let putF (g : FpFmt) (r : FpOut) : RvResult := .done (((t.setReg (32 + rd) (fpBox g r.1)).flags r.2).skip len)
  let putX (r : FpOut) : RvResult := .done (((t.setReg rd r.1).flags r.2).skip len)
  let rounded (k : FpRm → RvResult) : RvResult := match t.rmOf w with | some rm => k rm | none => .illegal
  match bits w 27 5 with
  | 0 => rounded (fun rm => putF f (f.add rm a b))
  | 1 => rounded (fun rm => putF f (f.add rm a b.neg))
  | 2 => rounded (fun rm => putF f (f.mul rm a b))
  | 3 => rounded (fun rm => putF f (f.div rm a b))
  | 0x0B => if rs2 = 0 then rounded (fun rm => putF f (f.sqrt rm a)) else .illegal
  | 4 => if f3 ≤ 2 then putF f (f.signInject f3 x y, 0) else .illegal
  | 5 => if f3 ≤ 1 then putF f (f.minMax (f3 == 1) x y) else .illegal
  | 8 =>
    if rs2 = 0 && f = fpD then rounded (fun rm => putF f (fpConvert fpS f rm (t.fpr fpS rs1)))
    else if rs2 = 1 && f = fpS then rounded (fun rm => putF f (fpConvert fpD f rm (t.fpr fpD rs1)))
    else .illegal
  | 0x14 => if f3 ≤ 2 then putX (fpCompare f3 a b) else .illegal
  | 0x18 =>
    if rs2 > 3 then .illegal
    else rounded (fun rm =>
      let r := a.toInt rm (if rs2 < 2 then 32 else 64) (rs2 % 2 == 0)
      putX (if rs2 < 2 then sext 32 r.1 else r.1, r.2))
  | 0x1A => if rs2 > 3 then .illegal else rounded (fun rm => putF f (f.ofInt rm (fpIntOf rs2 (t.xr rs1))))
  | 0x1C =>
    if rs2 ≠ 0 then .illegal
    else if f3 = 0 then putX (if f = fpD then t.fr rs1 else sext 32 (t.fr rs1), 0)
    else if f3 = 1 then putX (f.classify x, 0)
    else .illegal
  | 0x1E => if rs2 = 0 && f3 = 0 then putF f (t.xr rs1 % 2 ^ f.width, 0) else .illegal
  | _ => .illegal

/-- An instruction of the F and D extensions; none for any other opcode, and for the vector widths of loads and stores. -/
def rvFloat (t : Hart) (w len : Nat) : Option RvResult :=
  let rd := bits w 7 5
  let f3 := bits w 12 3
  let a := t.xr (bits w 15 5)
  let fmt : Option FpFmt := match bits w 25 2 with | 0 => some fpS | 1 => some fpD | _ => none
  let fused (negP negC : Bool) : Option RvResult :=
    match fmt, t.rmOf w with
    | some f, some rm =>
      let p := f.value (t.fpr f (bits w 15 5))
      let c := f.value (t.fpr f (bits w 27 5))
      let r := f.fma rm (if negP then p.neg else p) (f.value (t.fpr f (bits w 20 5))) (if negC then c.neg else c)
      some (.done (((t.setReg (32 + rd) (fpBox f r.1)).flags r.2).skip len))
    | _, _ => some .illegal
  match bits w 0 7 with
  | 0x07 => if f3 = 2 || f3 = 3 then some (.load .own (onePiece (a + immI w) (2 ^ f3)) (2 ^ f3) (32 + rd) false 0) else none
  | 0x27 =>
    if f3 = 2 || f3 = 3 then some (.store .own (2 ^ f3) [((a + immS w) % 2 ^ 64, leBytes (2 ^ f3) (t.fr (bits w 20 5)))]) else none
  | 0x43 => fused false false
  | 0x47 => fused false true
  | 0x4B => fused true false
  | 0x4F => fused true true
  | 0x53 => match fmt with | some f => some (rvOpFp t f w len) | none => some .illegal
  | _ => none

end Sys2Proof.Machine
end

