-- ==== Sys2Proof/Machine/RvVector.lean ====
section
/-!
DEFINITION. The vector instructions of the steward cores (R10, R111): the V extension with VLEN 512 and ELEN 64. PRESUMED (log
entry 30): encodings, constraints and results are those of the RISC-V "V" specification, version 1.0. DESIGN CHOICE (log
entry 119): tail and masked elements stay undisturbed, an encoding it reserves is illegal, and the unordered sums go in element order.
-/
namespace Sys2Proof.Machine

/-! ### Elements, masks and groups -/

/-- Element `i` of `sew` bits of the group at `r`. -/
def Hart.elem (t : Hart) (sew r i : Nat) : Nat := bits (t.vr (r + i * sew / 512)) (i * sew % 512) sew

/-- Write element `i` of the group at `r`. -/
def Hart.setElem (t : Hart) (sew r i v : Nat) : Hart :=
  let q := r + i * sew / 512
  let lo := i * sew % 512
  let old := t.vr q
  t.setReg (64 + q) (old - bits old lo sew * 2 ^ lo + v % 2 ^ sew * 2 ^ lo)

/-- Mask bit `i` of a register. -/
def Hart.maskBit (t : Hart) (r i : Nat) : Bool := bit (t.vr r) i
def Hart.setMaskBit (t : Hart) (r i : Nat) (v : Bool) : Hart := t.setElem 1 r i (b2n v)

/-- vtype as element width and eighths of LMUL; none when the value is not supported. -/
def vtypeOf (v : Nat) : Option (Nat × Nat) :=
  let lm := bits v 0 3
  let sew := 8 * 2 ^ bits v 3 3
  let l8 := if lm < 4 then 8 * 2 ^ lm else 2 ^ (lm - 5)
  if v ≥ 256 || lm = 4 || sew > 64 || sew * 8 > 64 * l8 then none else some (sew, l8)

def csrVSTART : Nat := 0x008
def csrVL : Nat := 0xC20
def csrVTYPE : Nat := 0xC21

def Hart.vl (t : Hart) : Nat := t.csrOf csrVL
def Hart.vstart (t : Hart) : Nat := t.csrOf csrVSTART

/-- Elements that a group of `l8` eighths of a register holds. -/
def vlmax (sew l8 : Nat) : Nat := 64 * l8 / sew

/-- Registers of a group. -/
def vregs (l8 : Nat) : Nat := max 1 (l8 / 8)

/-- May a group of `l8` eighths start at register `r`? -/
def vgroup (l8 r : Nat) : Bool := 1 ≤ l8 && l8 ≤ 64 && r % vregs l8 == 0

/-- Do two groups share a register? -/
def vmeets (r n s k : Nat) : Bool := r < s + k && s < r + n

/-- May a destination with elements of `dw` bits overlap a source with elements of `sw`? -/
def vlap (dw d8 d sw s8 s : Nat) : Bool :=
  !vmeets d (vregs d8) s (vregs s8) || dw == sw || (dw < sw && d == s) || (dw > sw && s8 ≥ 8 && s + vregs s8 == d + vregs d8)

/-- A vector instruction is done: vstart is 0 again. -/
def Hart.vdone (t : Hart) : RvResult := .done ((t.setCsr csrVSTART 0).skip 4)

/-- The result of one element: value, floating-point flags, and whether it saturated. -/
structure VOut where
  v : Nat
  fl : Nat
  sat : Bool
  deriving DecidableEq, Repr

def vout (v : Nat) : VOut := { v := v, fl := 0, sat := false }
def voutF (r : FpOut) : VOut := { v := r.1, fl := r.2, sat := false }

/-- Raise what an element's result raises. -/
def Hart.vraise (t : Hart) (o : VOut) : Hart :=
  let t := t.flags o.fl
  if o.sat then t.setCsr 0xF (t.csrOf 0xF ||| 1) else t

/-- Elements of the body that are active. -/
def Hart.active (t : Hart) (vm : Bool) : List Nat := (List.range t.vl).filter (fun i => t.vstart ≤ i && (vm || t.maskBit 0 i))

/-- Write the active elements of a group. -/
def Hart.vmap (t : Hart) (vm : Bool) (sew d : Nat) (f : Nat → VOut) : RvResult :=
  ((t.active vm).foldl (fun (k : Hart) i => let o := f i; (k.setElem sew d i o.v).vraise o) t).vdone

/-- Write the mask bits of the active elements. -/
def Hart.vmapMask (t : Hart) (vm : Bool) (d : Nat) (f : Nat → Nat × Nat) : RvResult :=
  ((t.active vm).foldl (fun (k : Hart) i => let o := f i; (k.setMaskBit d i (o.1 != 0)).flags o.2) t).vdone

/-! ### Configuration -/

/-- Set vtype and vl. -/
def Hart.vset (t : Hart) (rd vt : Nat) (avl : Option Nat) : RvResult :=
  match vtypeOf vt with
  | none => .done ((((t.setCsr csrVTYPE (2 ^ 63)).setCsr csrVL 0).setReg rd 0).setCsr csrVSTART 0 |>.skip 4)
  | some (sew, l8) =>
    let n := min (avl.getD t.vl) (vlmax sew l8)
    .done ((((t.setCsr csrVTYPE vt).setCsr csrVL n).setReg rd n).setCsr csrVSTART 0 |>.skip 4)

/-- VSETVLI, VSETIVLI and VSETVL. -/
def rvVset (t : Hart) (w : Nat) : RvResult :=
  let rd := bits w 7 5
  let rs1 := bits w 15 5
  let avl : Option Nat := if rs1 ≠ 0 then some (t.xr rs1) else if rd ≠ 0 then some (2 ^ 64 - 1) else none
  if !bit w 31 then t.vset rd (bits w 20 11) avl
  else if bit w 30 then t.vset rd (bits w 20 10) (some rs1)
  else if bits w 25 5 = 0 then t.vset rd (t.xr (bits w 20 5)) avl
  else .illegal

/-! ### Fixed point -/

/-- v / 2^d rounded as vxrm says. -/
def vround (vxrm : Nat) (v : Int) (d : Nat) : Int :=
  let q := v / 2 ^ d
  let r := (v % 2 ^ d).toNat
  let up := match vxrm with
    | 0 => d > 0 && 2 * r ≥ 2 ^ d
    | 1 => d > 0 && (2 * r > 2 ^ d || (2 * r == 2 ^ d && q % 2 == 1))
    | 2 => false
    | _ => r != 0 && q % 2 == 0
  q + (b2n up : Int)

/-- Saturate to `w` bits. -/
def vsatS (w : Nat) (v : Int) : VOut :=
  if v > 2 ^ (w - 1) - 1 then { v := 2 ^ (w - 1) - 1, fl := 0, sat := true }
  else if v < -(2 ^ (w - 1)) then { v := 2 ^ (w - 1), fl := 0, sat := true }
  else vout (unsigned w v)
def vsatU (w : Nat) (v : Int) : VOut :=
  if v > 2 ^ w - 1 then { v := 2 ^ w - 1, fl := 0, sat := true }
  else if v < 0 then { v := 0, fl := 0, sat := true }
  else vout (unsigned w v)

/-! ### Integer arithmetic -/

/-- The integer of `w` bits of an element, signed or not. -/
def vint (sgn : Bool) (w v : Nat) : Int := if sgn then signed w v else ((v % 2 ^ w : Nat) : Int)

/-- Single-width operations of OPIVV, OPIVX and OPIVI: a from vs2, b from vs1, rs1 or the immediate. -/
def vopi (f6 w vxrm a b : Nat) : Option VOut :=
  let sh := b % w
  match f6 with
  | 0 => some (vout (a + b))
  | 2 => some (vout (subMod w a b))
  | 3 => some (vout (subMod w b a))
  | 4 => some (vout (min a b))
  | 5 => some (vout (if signed w b < signed w a then b else a))
  | 6 => some (vout (max a b))
  | 7 => some (vout (if signed w a < signed w b then b else a))
  | 9 => some (vout (a &&& b))
  | 10 => some (vout (a ||| b))
  | 11 => some (vout (a ^^^ b))
  | 32 => some (vsatU w (vint false w a + vint false w b))
  | 33 => some (vsatS w (signed w a + signed w b))
  | 34 => some (vsatU w (vint false w a - vint false w b))
  | 35 => some (vsatS w (signed w a - signed w b))
  | 37 => some (vout (a * 2 ^ sh))
  | 39 => some (vsatS w (vround vxrm (signed w a * signed w b) (w - 1)))
  | 40 => some (vout (a / 2 ^ sh))
  | 41 => some (vout (unsigned w (signed w a / 2 ^ sh)))
  | 42 => some (vout (unsigned w (vround vxrm (vint false w a) sh)))
  | 43 => some (vout (unsigned w (vround vxrm (signed w a) sh)))
  | _ => none

/-- Comparisons of OPIVV, OPIVX and OPIVI. -/
def vcmpi (f6 w a b : Nat) : Bool :=
  match f6 with
  | 24 => a == b
  | 25 => a != b
  | 26 => decide (a < b)
  | 27 => decide (signed w a < signed w b)
  | 28 => decide (a ≤ b)
  | 29 => decide (signed w a ≤ signed w b)
  | 30 => decide (b < a)
  | _ => decide (signed w b < signed w a)

/-- Single-width operations of OPMVV and OPMVX: a from vs2, b from vs1 or rs1, c the old destination. -/
def vopm (f6 w vxrm a b c : Nat) : Option VOut :=
  let avg (sgn sub : Bool) : VOut :=
    vout (unsigned w (vround vxrm (if sub then vint sgn w a - vint sgn w b else vint sgn w a + vint sgn w b) 1))
  match f6 with
  | 8 => some (avg false false)
  | 9 => some (avg true false)
  | 10 => some (avg false true)
  | 11 => some (avg true true)
  | 32 => some (vout (rvDivu w a b))
  | 33 => some (vout (rvDiv w a b))
  | 34 => some (vout (rvRemu w a b))
  | 35 => some (vout (rvRem w a b))
  | 36 => some (vout (rvMulh w false false a b))
  | 37 => some (vout (a * b))
  | 38 => some (vout (rvMulh w true false a b))
  | 39 => some (vout (rvMulh w true true a b))
  | 41 => some (vout (b * c + a))
  | 43 => some (vout (subMod w a (b * c)))
  | 45 => some (vout (b * a + c))
  | 47 => some (vout (subMod w c (b * a)))
  | _ => none

/-- Widening operations of OPMVV and OPMVX on `w` bits: a from vs2, b from vs1 or rs1, c the old destination; the `.w` forms have a
of 2w bits. -/
def vopw (f6 w a b c : Nat) : Option Nat :=
  let two (sgn : Bool) (f : Int → Int → Int) : Option Nat := some (unsigned (2 * w) (f (vint sgn w a) (vint sgn w b)))
  let wide (sgn : Bool) (f : Int → Int → Int) : Option Nat := some (unsigned (2 * w) (f (vint sgn (2 * w) a) (vint sgn w b)))
  let prod (sa sb : Bool) (acc : Nat) : Option Nat := some (unsigned (2 * w) (vint sa w a * vint sb w b + acc))
  match f6 with
  | 48 => two false (· + ·)
  | 49 => two true (· + ·)
  | 50 => two false (· - ·)
  | 51 => two true (· - ·)
  | 52 => wide false (· + ·)
  | 53 => wide true (· + ·)
  | 54 => wide false (· - ·)
  | 55 => wide true (· - ·)
  | 56 => prod false false 0
  | 58 => prod true false 0
  | 59 => prod true true 0
  | 60 => prod false false c
  | 61 => prod true true c
  | 62 => prod true false c
  | 63 => prod false true c
  | _ => none

/-- One step of an integer reduction: funct6 0 to 7. -/
def vredi (f6 w acc a : Nat) : Nat :=
  match f6 with
  | 0 => (acc + a) % 2 ^ w
  | 1 => acc &&& a
  | 2 => acc ||| a
  | 3 => acc ^^^ a
  | 4 => min acc a
  | 5 => if signed w a < signed w acc then a else acc
  | 6 => max acc a
  | _ => if signed w acc < signed w a then a else acc

/-- Write a reduction's result into element 0; nothing where vl is 0. -/
def Hart.vreduce (t : Hart) (vm : Bool) (w d init : Nat) (f : Nat → Nat → FpOut) : RvResult :=
  if t.vstart ≠ 0 then .illegal
  else if t.vl = 0 then t.vdone
  else
    let r := (t.active vm).foldl (fun (acc : FpOut) i => let o := f acc.1 i; (o.1, acc.2 ||| o.2)) (init, 0)
    ((t.setElem w d 0 r.1).flags r.2).vdone

/-! ### OPIVV, OPIVX and OPIVI -/

/-- A gather, slide or merge moves elements as they are. -/
def Hart.vmove (t : Hart) (vm : Bool) (sew d : Nat) (f : Nat → Nat) : RvResult := t.vmap vm sew d (fun i => vout (f i))

/-- vs2[i + off] of a slide down, 0 beyond the group. -/
def Hart.slid (t : Hart) (sew l8 s i off : Nat) : Nat := if i + off < vlmax sew l8 then t.elem sew s (i + off) else 0

/-- The integer instructions with funct3 0, 3 and 4. -/
def rvOpi (t : Hart) (sew l8 w : Nat) : RvResult :=
  let f3 := bits w 12 3
  let f6 := bits w 26 6
  let vm := bit w 25
  let d := bits w 7 5
  let s2 := bits w 20 5
  let s1 := bits w 15 5
  let vv := f3 = 0
  let vi := f3 = 3
  let x := t.xr s1
  let b (width i : Nat) : Nat := if vv then t.elem width s1 i else if vi then unsigned width (signed 5 s1) else x % 2 ^ width
  let u : Nat := if vi then s1 else x
  let a := t.elem sew s2
  let vxrm := bits (t.csrOf 0xF) 1 2
  let free := vm || d != 0
  let one := !vv || vgroup l8 s1
  let flat := vgroup l8 d && vgroup l8 s2 && one
  let ok (c : Bool) (r : RvResult) : RvResult := if c then r else .illegal
  let apart := !vmeets d (vregs l8) s2 (vregs l8)
  match f6 with
  | 12 => ok (flat && free && apart && (!vv || !vmeets d (vregs l8) s1 (vregs l8)))
      (t.vmove vm sew d (fun i => let k := if vv then t.elem sew s1 i else u; if k < vlmax sew l8 then a k else 0))
  | 14 =>
    if vv then
      let e8 := 16 * l8 / sew
      ok (vgroup l8 d && vgroup l8 s2 && vgroup e8 s1 && free && apart && !vmeets d (vregs l8) s1 (vregs e8))
        (t.vmove vm sew d (fun i => let k := t.elem 16 s1 i; if k < vlmax sew l8 then a k else 0))
    else ok (flat && free && apart)
      (((t.active vm).filter (u ≤ ·)).foldl (fun (k : Hart) i => k.setElem sew d i (a (i - u))) t).vdone
  | 15 => ok (!vv && flat && free) (t.vmove vm sew d (fun i => t.slid sew l8 s2 i u))
  | 16 => ok (flat && !vm && d != 0) (t.vmove true sew d (fun i => a i + b sew i + b2n (t.maskBit 0 i)))
  | 18 => ok (flat && !vi && !vm && d != 0) (t.vmove true sew d (fun i => subMod sew (a i) (b sew i + b2n (t.maskBit 0 i))))
  | 17 => ok (vgroup l8 s2 && one && vlap 1 8 d sew l8 s2 && (!vv || vlap 1 8 d sew l8 s1))
      (t.vmapMask true d (fun i => ((a i + b sew i + (if vm then 0 else b2n (t.maskBit 0 i))) / 2 ^ sew, 0)))
  | 19 => ok (!vi && vgroup l8 s2 && one && vlap 1 8 d sew l8 s2 && (!vv || vlap 1 8 d sew l8 s1))
      (t.vmapMask true d (fun i => (b2n (a i < b sew i + (if vm then 0 else b2n (t.maskBit 0 i))), 0)))
  | 23 =>
    if vm then ok (s2 = 0 && vgroup l8 d && one) (t.vmove true sew d (b sew))
    else ok (flat && d != 0) (t.vmove true sew d (fun i => if t.maskBit 0 i then b sew i else a i))
  | 39 =>
    if vi then
      let n := s1 + 1
      ok (vm && (n = 1 || n = 2 || n = 4 || n = 8) && d % n = 0 && s2 % n = 0)
        (((List.range (n * 512 / sew)).filter (t.vstart ≤ ·)).foldl (fun (k : Hart) i => k.setElem sew d i (a i)) t).vdone
    else ok (flat && free) (t.vmap vm sew d (fun i => (vopi 39 sew vxrm (a i) (b sew i)).getD (vout 0)))
  | 48 | 49 =>
    let sgn := f6 = 49
    ok (vv && sew ≤ 32 && vgroup l8 s2) (t.vreduce vm (2 * sew) d (t.elem (2 * sew) s1 0)
      (fun acc i => (unsigned (2 * sew) ((acc : Int) + vint sgn sew (a i)), 0)))
  | _ =>
    if 24 ≤ f6 && f6 ≤ 31 then
      ok (vgroup l8 s2 && one && vlap 1 8 d sew l8 s2 && (!vv || vlap 1 8 d sew l8 s1) &&
          (if vv then f6 < 30 else !vi || (f6 != 26 && f6 != 27)))
        (t.vmapMask vm d (fun i => (b2n (vcmpi f6 sew (a i) (b sew i)), 0)))
    else if 44 ≤ f6 && f6 ≤ 47 then
      let wide := t.elem (2 * sew) s2
      let sh (i : Nat) : Nat := (if vi then s1 else b sew i) % (2 * sew)
      ok (sew ≤ 32 && vgroup l8 d && vgroup (2 * l8) s2 && one && free && vlap sew l8 d (2 * sew) (2 * l8) s2)
        (t.vmap vm sew d (fun i => match f6 with
          | 44 => vout (wide i / 2 ^ sh i)
          | 45 => vout (unsigned sew (signed (2 * sew) (wide i) / 2 ^ sh i))
          | 46 => vsatU sew (vround vxrm (vint false (2 * sew) (wide i)) (sh i))
          | _ => vsatS sew (vround vxrm (signed (2 * sew) (wide i)) (sh i))))
    else
      let shift := 37 ≤ f6
      let forms := if vv then f6 != 3 else if vi then f6 == 0 || f6 == 3 || (9 ≤ f6 && f6 ≤ 11) || f6 == 32 || f6 == 33 || shift else true
      ok (flat && free && forms && (vopi f6 sew vxrm 0 0).isSome)
        (t.vmap vm sew d (fun i => (vopi f6 sew vxrm (a i) (if vi && shift then s1 else b sew i)).getD (vout 0)))

/-! ### OPMVV and OPMVX -/

/-- The first set bit of a mask source among the active elements. -/
def Hart.firstSet (t : Hart) (vm : Bool) (s : Nat) : Option Nat := (t.active vm).find? (fun i => t.maskBit s i)

/-- A logical operation of masks, by funct6: a from vs2, b from vs1. -/
def vmaskOp (f6 : Nat) (a b : Bool) : Bool :=
  match f6 with
  | 24 => a && !b
  | 25 => a && b
  | 26 => a || b
  | 27 => a != b
  | 28 => a || !b
  | 29 => !(a && b)
  | 30 => !(a || b)
  | _ => a == b

/-- The instructions with funct3 2 and 6. -/
def rvOpm (t : Hart) (sew l8 w : Nat) : RvResult :=
  let vv := bits w 12 3 = 2
  let f6 := bits w 26 6
  let vm := bit w 25
  let d := bits w 7 5
  let s2 := bits w 20 5
  let s1 := bits w 15 5
  let x := t.xr s1
  let b (i : Nat) : Nat := if vv then t.elem sew s1 i else x % 2 ^ sew
  let a := t.elem sew s2
  let vxrm := bits (t.csrOf 0xF) 1 2
  let free := vm || d != 0
  let one := !vv || vgroup l8 s1
  let flat := vgroup l8 d && vgroup l8 s2 && one
  let ok (c : Bool) (r : RvResult) : RvResult := if c then r else .illegal
  let apart := !vmeets d (vregs l8) s2 (vregs l8)
  let first := t.vstart = 0
  if f6 < 8 then ok (vv && vgroup l8 s2) (t.vreduce vm sew d (t.elem sew s1 0) (fun acc i => (vredi f6 sew acc (a i), 0)))
  else match f6 with
  | 14 => ok (!vv && flat && free && apart) (t.vmove vm sew d (fun i => if i = 0 then x else a (i - 1)))
  | 15 => ok (!vv && flat && free) (t.vmove vm sew d (fun i => if i + 1 = t.vl then x else t.slid sew l8 s2 i 1))
  | 16 =>
    if vv then
      (if s1 = 0 then ok vm ((t.setReg d (sext sew (a 0))).vdone)
       else if s1 = 16 then ok first ((t.setReg d ((t.active vm).filter (fun i => t.maskBit s2 i)).length).vdone)
       else if s1 = 17 then ok first ((t.setReg d (match t.firstSet vm s2 with | some i => i | none => 2 ^ 64 - 1)).vdone)
       else .illegal)
    else ok (vm && s2 = 0) ((if t.vstart < t.vl then t.setElem sew d 0 x else t).vdone)
  | 18 =>
    let n := if s1 = 2 || s1 = 3 then 8 else if s1 = 4 || s1 = 5 then 4 else 2
    let sw := sew / n
    ok (vv && 2 ≤ s1 && s1 ≤ 7 && sw ≥ 8 && vgroup l8 d && vgroup (l8 / n) s2 && free && vlap sew l8 d sw (l8 / n) s2)
      (t.vmap vm sew d (fun i => vout (unsigned sew (vint (s1 % 2 == 1) sw (t.elem sw s2 i)))))
  | 20 =>
    if s1 = 17 then ok (vv && s2 = 0 && vgroup l8 d && free) (t.vmove vm sew d id)
    else if s1 = 16 then
      ok (vv && first && vgroup l8 d && free && !vmeets d (vregs l8) s2 1)
        (t.vmove vm sew d (fun i => ((t.active vm).filter (fun k => k < i && t.maskBit s2 k)).length))
    else ok (vv && first && 1 ≤ s1 && s1 ≤ 3 && d != s2 && free)
      (t.vmapMask vm d (fun i => (b2n (match t.firstSet vm s2 with
        | none => s1 != 2
        | some k => match s1 with | 1 => decide (i < k) | 2 => i == k | _ => decide (i ≤ k)), 0)))
  | 23 =>
    ok (vv && vm && first && vgroup l8 d && vgroup l8 s2 && apart && !vmeets d (vregs l8) s1 1)
      ((((t.active true).filter (fun i => t.maskBit s1 i)).zipIdx.foldl (fun (k : Hart) e => k.setElem sew d e.2 (a e.1)) t).vdone)
  | _ =>
    if 24 ≤ f6 && f6 ≤ 31 then
      ok (vv && vm) (t.vmapMask true d (fun i => (b2n (vmaskOp f6 (t.maskBit s2 i) (t.maskBit s1 i)), 0)))
    else if 48 ≤ f6 then
      let wide := 52 ≤ f6 && f6 ≤ 55
      let src (i : Nat) : Nat := if wide then t.elem (2 * sew) s2 i else a i
      ok (sew ≤ 32 && vgroup (2 * l8) d && vgroup (if wide then 2 * l8 else l8) s2 && one && free &&
          (wide || vlap (2 * sew) (2 * l8) d sew l8 s2) && (!vv || vlap (2 * sew) (2 * l8) d sew l8 s1) &&
          (vopw f6 sew 0 0 0).isSome && (f6 != 62 || !vv))
        (t.vmap vm (2 * sew) d (fun i =>
          -- 62 takes rs1 unsigned and vs2 signed, 63 the reverse
          vout ((vopw f6 sew (src i) (b i) (t.elem (2 * sew) d i)).getD 0)))
    else ok (flat && free && (vopm f6 sew vxrm 0 0 0).isSome)
      (t.vmap vm sew d (fun i => (vopm f6 sew vxrm (a i) (b i) (t.elem sew d i)).getD (vout 0)))

/-! ### OPFVV and OPFVF -/

/-- The floating-point format of an element width. -/
def fpOfWidth (w : Nat) : Option FpFmt := if w = 32 then some fpS else if w = 64 then some fpD else none

/-- Bits of the estimate tables, 7 bits: of 1 / sqrt for the parity of the exponent and 6 bits of the fraction, and of 1 / x. -/
def rsqrtTable (i : Nat) : Nat :=
  (Nat.sqrt (4 * 65536 * (if i < 64 then 64 else 128) / (129 + 2 * (i % 64))) + 1) / 2 - 128
def recipTable (i : Nat) : Nat := (2 * 65536 / (257 + 2 * i) + 1) / 2 - 128

/-- A subnormal's exponent and fraction, shifted until its first one is left of the fraction. -/
def FpFmt.normal (f : FpFmt) (v : Nat) : Int × Nat :=
  let x := bits v f.m f.e
  let n := bits v 0 f.m
  if x ≠ 0 then (x, n) else (1 - ((f.m - n.log2 : Nat) : Int), n * 2 ^ (f.m - n.log2) % 2 ^ f.m)

/-- VFRSQRT7. -/
def FpFmt.rsqrt7 (f : FpFmt) (v : Nat) : FpOut :=
  match f.value v with
  | .nan q => (f.qnan, if q then 0 else 16)
  | .inf s => if s then f.invalid else (0, 0)
  | .fin s n _ =>
    if n = 0 then (f.infOf s, 8)
    else if s then f.invalid
    else
      let (x, sig) := f.normal v
      let i := (x % 2).toNat * 64 + sig / 2 ^ (f.m - 6)
      let out := ((3 * (f.bias : Int) - 1 - x) / 2).toNat
      (out * 2 ^ f.m + rsqrtTable i * 2 ^ (f.m - 7), 0)

/-- VFREC7. -/
def FpFmt.rec7 (f : FpFmt) (rm : FpRm) (v : Nat) : FpOut :=
  match f.value v with
  | .nan q => (f.qnan, if q then 0 else 16)
  | .inf s => (f.signed s 0, 0)
  | .fin s n _ =>
    if n = 0 then (f.infOf s, 8)
    else
      let (x, sig) := f.normal v
      if x < -1 then
        let toMax := match rm with | .rtz => true | .rdn => !s | .rup => s | _ => false
        (if toMax then f.maxOf s else f.infOf s, 5)
      else
        let tab := recipTable (sig / 2 ^ (f.m - 7)) * 2 ^ (f.m - 7)
        let out : Int := 2 * f.bias - 1 - x
        if out > 0 then (f.signed s (out.toNat * 2 ^ f.m + tab), 0)
        else
          let half := tab / 2 + 2 ^ (f.m - 1)
          (f.signed s (if out = 0 then half else half / 2), 0)

/-- Single-width operations of OPFVV and OPFVF: a from vs2, b from vs1 or rs1, c the old destination. -/
def vopf (f : FpFmt) (rm : FpRm) (f6 a b c : Nat) : Option FpOut :=
  let x := f.value a
  let y := f.value b
  let z := f.value c
  let fma (p q r : Fp) : Option FpOut :=
    some (f.fma rm (if f6 % 2 = 1 then p.neg else p) q (if f6 % 4 = 1 || f6 % 4 = 2 then r.neg else r))
  match f6 with
  | 0 => some (f.add rm x y)
  | 2 => some (f.add rm x y.neg)
  | 4 => some (f.minMax false a b)
  | 6 => some (f.minMax true a b)
  | 8 => some (f.signInject 0 a b, 0)
  | 9 => some (f.signInject 1 a b, 0)
  | 10 => some (f.signInject 2 a b, 0)
  | 32 => some (f.div rm x y)
  | 33 => some (f.div rm y x)
  | 36 => some (f.mul rm x y)
  | 39 => some (f.add rm y x.neg)
  | 40 | 41 | 42 | 43 => fma z y x
  | 44 | 45 | 46 | 47 => fma y x z
  | _ => none

/-- Comparisons of OPFVV and OPFVF. -/
def vcmpf (f : FpFmt) (f6 a b : Nat) : Option FpOut :=
  let x := f.value a
  let y := f.value b
  match f6 with
  | 24 => some (fpCompare 2 x y)
  | 25 => some (fpCompare 0 x y)
  | 27 => some (fpCompare 1 x y)
  | 28 => let r := fpCompare 2 x y; some (1 - r.1, r.2)
  | 29 => some (fpCompare 1 y x)
  | 31 => some (fpCompare 0 y x)
  | _ => none

/-- Widening operations: operands already as values, c of the wide format. -/
def vopfw (g : FpFmt) (rm : FpRm) (f6 : Nat) (x y z : Fp) : Option FpOut :=
  match f6 with
  | 48 | 52 => some (g.add rm x y)
  | 50 | 54 => some (g.add rm x y.neg)
  | 56 => some (g.mul rm x y)
  | 60 | 61 | 62 | 63 =>
    some (g.fma rm (if f6 % 2 = 1 then y.neg else y) x (if f6 % 4 = 1 || f6 % 4 = 2 then z.neg else z))
  | _ => none

/-- VFUNARY0: a conversion by its field from a source of `sw` bits to a destination of `dw`. -/
def vconvert (k sw dw : Nat) (rm : FpRm) (v : Nat) : Option FpOut :=
  let k := k % 8
  if k = 2 || k = 3 then (fpOfWidth dw).map (fun g => g.ofInt rm (vint (k == 3) sw v))
  else match fpOfWidth sw with
    | none => none
    | some f =>
      if k = 4 || k = 5 then (fpOfWidth dw).map (fun g => fpConvert f g (if k = 5 then .rod else rm) v)
      else some ((f.value v).toInt (if k ≥ 6 then .rtz else rm) dw (k % 2 == 1))

/-- Is a field of VFUNARY0 a conversion: single-width, widening or narrowing? -/
def vconverts (k : Nat) : Bool :=
  match k / 8 with
  | 0 => k != 4 && k != 5
  | 1 => k % 8 != 5
  | 2 => true
  | _ => false

/-- The instructions with funct3 1 and 5. -/
def rvOpf (t : Hart) (sew l8 w : Nat) : RvResult :=
  let vv := bits w 12 3 = 1
  let f6 := bits w 26 6
  let vm := bit w 25
  let d := bits w 7 5
  let s2 := bits w 20 5
  let s1 := bits w 15 5
  let free := vm || d != 0
  let ok (c : Bool) (r : RvResult) : RvResult := if c then r else .illegal
  match fpRmOf (bits (t.csrOf 3) 5 3) with
  | none => .illegal
  | some rm =>
    if f6 = 18 then
      let (sw, s8, dw, d8) := match s1 / 8 with
        | 0 => (sew, l8, sew, l8)
        | 1 => (sew, l8, 2 * sew, 2 * l8)
        | _ => (2 * sew, 2 * l8, sew, l8)
      ok (vv && vconverts s1 && sw ≤ 64 && dw ≤ 64 && vgroup d8 d && vgroup s8 s2 && free && vlap dw d8 d sw s8 s2 &&
          (vconvert s1 sw dw rm 0).isSome)
        (t.vmap vm dw d (fun i => voutF ((vconvert s1 sw dw rm (t.elem sw s2 i)).getD (0, 0))))
    else match fpOfWidth sew with
      | none => .illegal
      | some f =>
        let scalar := t.fpr f s1
        let a := t.elem sew s2
        let b (i : Nat) : Nat := if vv then t.elem sew s1 i else scalar
        let one := !vv || vgroup l8 s1
        let flat := vgroup l8 d && vgroup l8 s2 && one
        match f6 with
        | 1 | 3 => ok (vv && vgroup l8 s2)
            (t.vreduce vm sew d (t.elem sew s1 0) (fun acc i => f.add rm (f.value acc) (f.value (a i))))
        | 5 | 7 => ok (vv && vgroup l8 s2) (t.vreduce vm sew d (t.elem sew s1 0) (fun acc i => f.minMax (f6 == 7) acc (a i)))
        | 14 => ok (!vv && flat && free && !vmeets d (vregs l8) s2 (vregs l8))
            (t.vmove vm sew d (fun i => if i = 0 then scalar else a (i - 1)))
        | 15 => ok (!vv && flat && free) (t.vmove vm sew d (fun i => if i + 1 = t.vl then scalar else t.slid sew l8 s2 i 1))
        | 16 =>
          if vv then ok (vm && s1 = 0) ((t.setReg (32 + d) (fpBox f (a 0))).vdone)
          else ok (vm && s2 = 0) ((if t.vstart < t.vl then t.setElem sew d 0 scalar else t).vdone)
        | 19 =>
          let go (k : Nat → FpOut) : RvResult := ok (vv && vgroup l8 d && vgroup l8 s2 && free) (t.vmap vm sew d (fun i => voutF (k (a i))))
          (match s1 with
           | 0 => go (fun v => f.sqrt rm (f.value v))
           | 4 => go f.rsqrt7
           | 5 => go (f.rec7 rm)
           | 16 => go (fun v => (f.classify v, 0))
           | _ => .illegal)
        | 23 =>
          if vm then ok (!vv && s2 = 0 && vgroup l8 d) (t.vmove true sew d (fun _ => scalar))
          else ok (!vv && flat && d != 0) (t.vmove true sew d (fun i => if t.maskBit 0 i then scalar else a i))
        | 49 | 51 => ok (vv && sew = 32 && vgroup l8 s2)
            (t.vreduce vm 64 d (t.elem 64 s1 0) (fun acc i => fpD.add rm (fpD.value acc) (f.value (a i))))
        | _ =>
          if 24 ≤ f6 && f6 ≤ 31 then
            ok (vgroup l8 s2 && one && vlap 1 8 d sew l8 s2 && (!vv || vlap 1 8 d sew l8 s1) &&
                (vcmpf f f6 0 0).isSome && (f6 < 29 || !vv))
              (t.vmapMask vm d (fun i => (vcmpf f f6 (a i) (b i)).getD (0, 0)))
          else if 48 ≤ f6 then
            let wide := f6 = 52 || f6 = 54
            let x (i : Nat) : Fp := if wide then fpD.value (t.elem 64 s2 i) else f.value (a i)
            ok (sew = 32 && vgroup (2 * l8) d && vgroup (if wide then 2 * l8 else l8) s2 && one && free &&
                (wide || vlap 64 (2 * l8) d 32 l8 s2) && (!vv || vlap 64 (2 * l8) d 32 l8 s1) &&
                (vopfw fpD rm f6 (.inf false) (.inf false) (.inf false)).isSome)
              (t.vmap vm 64 d (fun i => voutF ((vopfw fpD rm f6 (x i) (f.value (b i)) (fpD.value (t.elem 64 d i))).getD (0, 0))))
          else ok (flat && free && (vopf f rm f6 0 0 0).isSome && ((f6 != 33 && f6 != 39) || !vv))
            (t.vmap vm sew d (fun i => voutF ((vopf f rm f6 (a i) (b i) (t.elem sew d i)).getD (0, 0))))

/-! ### Loads and stores -/

/-- Bytes of the group at `r`, from byte `pos` on. -/
def Hart.groupBytes (t : Hart) (r pos n : Nat) : List Byte :=
  (List.range n).map (fun k => BitVec.ofNat 8 (bits (t.vr (r + (pos + k) / 64)) ((pos + k) % 64 * 8) 8))

/-- Join pieces that follow each other in memory and in the register group. -/
def joinPieces (l : List StwPiece) : List StwPiece :=
  (l.foldl (fun (acc : List StwPiece) p =>
    match acc with
    | q :: rest => if q.va + q.len = p.va && q.pos + q.len = p.pos then { q with len := q.len + p.len } :: rest else p :: acc
    | [] => [p]) []).reverse

/-- A vector load or store of the pieces that a list of (address, byte position) names, `n` bytes each. -/
def Hart.vmem (t : Hart) (isLoad : Bool) (d n elem ff : Nat) (l : List (Nat × Nat)) : RvResult :=
  if isLoad then
    let ps : List StwPiece := l.map (fun e => { va := e.1 % 2 ^ 64, len := n, pos := e.2 })
    .load .own (if ff = 0 then joinPieces ps else ps) elem (64 + d) false ff
  else .store .own elem (l.map (fun e => (e.1 % 2 ^ 64, t.groupBytes d e.2 n)))

/-- The vector loads and stores, by width, addressing mode, fields and unit-stride kind. -/
def rvVmem (t : Hart) (isLoad : Bool) (w : Nat) : RvResult :=
  let nf := bits w 29 3 + 1
  let mop := bits w 26 2
  let vm := bit w 25
  let kind := bits w 20 5
  let base := t.xr (bits w 15 5)
  let d := bits w 7 5
  let eew := match bits w 12 3 with | 0 => 8 | 5 => 16 | 6 => 32 | _ => 64
  let ok (c : Bool) (r : RvResult) : RvResult := if c then r else .illegal
  let vt := if bit (t.csrOf csrVTYPE) 63 then none else vtypeOf (t.csrOf csrVTYPE)
  if bit w 28 then .illegal
  else if mop = 0 && kind = 8 then
    let from_ := t.vstart * (eew / 8)
    ok (vm && (nf = 1 || nf = 2 || nf = 4 || nf = 8) && d % nf = 0 && (isLoad || eew = 8))
      (t.vmem isLoad d 1 1 0 (((List.range (64 * nf)).filter (from_ ≤ ·)).map (fun k => (base + k, k))))
  else match vt with
    | none => .illegal
    | some (sew, l8) =>
      if mop = 0 && kind = 11 then
        ok (vm && eew = 8 && nf = 1)
          (t.vmem isLoad d 1 1 0 (((List.range (ceilDiv t.vl 8)).filter (t.vstart ≤ ·)).map (fun k => (base + k, k))))
      else
        let indexed := mop = 1 || mop = 3
        -- width and group of the data, and of the index
        let (dw, d8) := if indexed then (sew, l8) else (eew, eew * l8 / sew)
        let i8 := eew * l8 / sew
        let n := vregs d8
        let at_ (i : Nat) : Nat := match mop with
          | 0 => base + i * nf * (dw / 8)
          | 2 => base + i * t.xr kind
          | _ => base + t.elem eew kind i
        let fits := vgroup d8 d && nf * n ≤ 8 && d + nf * n ≤ 32 && (vm || !isLoad || d != 0) && (eew * l8) % sew == 0 &&
          (!indexed || (vgroup i8 kind &&
            (!isLoad || (if nf = 1 then vlap dw d8 d eew i8 kind else !vmeets d (nf * n) kind (vregs i8)))))
        let spots := (t.active vm).flatMap (fun i =>
          (List.range nf).map (fun k => (at_ i + k * (dw / 8), k * n * 64 + i * (dw / 8))))
        ok (fits && (mop != 0 || kind = 0 || (kind = 16 && isLoad)))
          (t.vmem isLoad d (dw / 8) (dw / 8) (if mop = 0 && kind = 16 then nf else 0) spots)

/-- An instruction of the V extension; none for any other opcode. -/
def rvVector (t : Hart) (w : Nat) : Option RvResult :=
  let f3 := bits w 12 3
  let vecWidth := f3 = 0 || f3 ≥ 5
  match bits w 0 7 with
  | 0x07 => some (if vecWidth then rvVmem t true w else .illegal)
  | 0x27 => some (if vecWidth then rvVmem t false w else .illegal)
  | 0x57 =>
    if f3 = 7 then some (rvVset t w)
    else if bit (t.csrOf csrVTYPE) 63 then some .illegal
    else match vtypeOf (t.csrOf csrVTYPE) with
      | none => some .illegal
      | some (sew, l8) => some (match f3 with
        | 0 | 3 | 4 => rvOpi t sew l8 w
        | 2 | 6 => rvOpm t sew l8 w
        | _ => rvOpf t sew l8 w)
  | _ => none

/-! ### Any instruction -/

/-- A decoded instruction: what it does, its length in bytes, and whether it is a vector load or store. -/
structure RvDecoded where
  res : RvResult
  len : Nat
  vec : Bool
  deriving DecidableEq, Repr

/-- What the instruction does whose first two bytes are `lo`, and whose next two are `hi`. -/
def Hart.decode (t : Hart) (lo hi : Nat) : RvDecoded :=
  let whole (w len : Nat) : RvDecoded :=
    match rvInt t w len with
    | some r => { res := r, len := len, vec := false }
    | none => match rvFloat t w len with
      | some r => { res := r, len := len, vec := false }
      | none => { res := (rvVector t w).getD .illegal, len := len, vec := true }
  if lo % 4 = 3 then (if lo % 32 = 31 then { res := .illegal, len := 4, vec := false } else whole (lo + 2 ^ 16 * hi) 4)
  else match expandC lo with
    | some w => whole w 2
    | none => { res := .illegal, len := 2, vec := false }

end Sys2Proof.Machine
end

