-- ==== Sys2Proof/Machine/Steward.lean ====
section
/-!
DEFINITION. Steward cores (R111 to R123): barrel issue, what a program may reach, stops, commits of list entries, their
intake in step 8, and errors of the TCM.
-/
namespace Sys2Proof.Machine

/-! ### The steward cores -/

/-- Does a steward core serve: bound, its supervisor started, not reloading (R382)? -/
def Module.stwServes (m : Module) (s : Nat) : Bool :=
  s < 64 && (stwVd m.recs s).isSome && m.rst.stepNo > 8 && (m.stwCore s).supReady

/-- The partition a steward core serves. -/
def Module.stwPart (m : Module) (s : Nat) : Option Nat := (stwVd m.recs s).bind (vdPart m.recs)

/-- Is a steward core bound to a confidential partition? -/
def Module.stwConf (m : Module) (s : Nat) : Bool := match m.stwPart s with | some p => m.conf p | none => false

/-- May a hart issue? -/
def Hart.ready (t : Hart) : Bool := t.running && t.block == .none

/-- The hart whose turn it is: the first ready one from `rr` on (R111); none while a clamp stops the issue of its die (R406). -/
def Module.stwTurn (m : Module) (s : Nat) : Option Nat :=
  if m.dieClamped (s / 8) then none
  else ((List.range 16).map (fun i => ((m.stwCore s).rr + i) % 16)).find? (fun h => (m.hart s h).ready)

/-- 64-byte reads outside TCM that an access of these pieces has outstanding at once, at most 4. -/
def piecesOut (l : List StwPiece) : Nat := min 4 (l.foldl (fun n p => n + ((p.va + p.len - 1) / 64 + 1 - p.va / 64)) 0)

/-- Reads outside TCM that a steward core has outstanding. -/
def Module.stwOut (m : Module) (s : Nat) : Nat :=
  (m.stwCore s).harts.foldl (fun n e => match e.2.block with | .read l _ _ _ => n + piecesOut l | _ => n) 0

/-- A loaded value, extended to the register. -/
def loadValue (bs : List Byte) (sx : Bool) : Nat :=
  if sx then unsigned 64 (signed (8 * bs.length) (leNat bs)) else leNat bs

/-- Put bytes into the vector register group at `r`, from byte `pos` on; the group's other bytes stay. -/
def Hart.setGroup (t : Hart) (r pos : Nat) (bs : List Byte) : Hart :=
  bs.zipIdx.foldl (fun t b =>
    let i := r - 64 + (pos + b.2) / 64
    let old := leBytes 64 (SMap.get (fun _ => 0) t.v i)
    if i < 32 then { t with v := SMap.set (fun _ => 0) t.v i (leNat (setBytes old ((pos + b.2) % 64) [b.1])) } else t) t

/-- What a load of pieces puts into its register or register group; a single is boxed in its f register. -/
def Hart.loaded (t : Hart) (rd : Nat) (sx : Bool) (l : List (Nat × List Byte)) : Hart :=
  if rd < 64 then
    let bs := l.flatMap (·.2)
    t.setReg rd (if rd ≥ 32 && bs.length = 4 then fpBox fpS (leNat bs) else loadValue bs sx)
  else l.foldl (fun t p => t.setGroup rd p.1 p.2) t

/-- CSR numbers of the RISC-V privileged and vector standards (log entry 69). -/
def csrSATP : Nat := 0x180
def csrVSSTATUS : Nat := 0x200
def csrVSATP : Nat := 0x280
def csrHSTATUS : Nat := 0x600
def csrHGATP : Nat := 0x680
def csrSEPC : Nat := 0x141
def csrSCAUSE : Nat := 0x142
def csrSTVAL : Nat := 0x143

/-- A hart issued: the turn passes on. -/
def Module.passTurn (m : Module) (s h : Nat) : Module := m.modStw s (fun k => { k with rr := (h + 1) % 16 })

/-! ### Stops (R114, R382) -/

/-- A program ends; its context will be marked LOST when `cause` is not 0. Uncommitted entries are lost with it. -/
def Module.stopHart (m : Module) (s h cause : Nat) (byTrap : Bool) : Module :=
  let t := m.hart s h
  let m := match t.ctx with
    | some c => if cause = 0 then m else m.willLose c cause
    | none => m
  m.modHart s h (fun t => { t with running := false, block := .none, ctx := none, resv := none, stopped := t.stopped || byTrap })

/-- A stop under R114: STEWARD_FAULT, with the hart, scause and context recorded. -/
def Module.trapHart (m : Module) (s h scause : Nat) : Module :=
  let c := ((m.hart s h).ctx).getD 0
  let m := m.modHart s h (fun t => (t.setCsr csrSCAUSE scause).setCsr csrSEPC t.pc)
  let m := m.stopHart s h lostSTEWARD_FAULT true
  (m.setReg (STW_FAULT s) (h + bits scause 0 6 * 16 + 2 ^ 10)).setReg (STW_FAULT_CTX s) (c % 2 ^ 20)

/-- A hart's program also ends when its context is marked LOST or is gone (R120). -/
def Module.stopLostHarts (m : Module) : Module :=
  each m.stw m (fun m k => each k.2.harts m (fun m e =>
    match e.2.ctx with
    | some c => (match m.ctx? c with
      | some x => if x.lost then m.stopHart k.1 e.1 0 false else m
      | none => m.stopHart k.1 e.1 0 false)
    | none => m))

/-! ### Rings (R116, R117) -/

def tcmPrograms : Nat := 0x1_0000
def tcmRings : Nat := 0x7_0000

/-- Free entries of a hart's ring. -/
def Hart.free (t : Hart) : Nat := 256 - t.due - t.late

/-- The bytes of the entry `i` places behind the head of a hart's ring. -/
def Module.ringEntry (m : Module) (s h i : Nat) : List Byte :=
  let t := m.hart s h
  (t.kept[i]?).getD ((m.stwCore s).tcm.read (tcmRings + h * 0x1000 + (t.head + i) % 256 * 16) 16)

/-- The entry at the head of a hart's ring is freed. -/
def Module.freeRing (m : Module) (s h : Nat) : Module :=
  m.modHart s h (fun t => { t with head := (t.head + 1) % 256, due := t.due - 1, kept := t.kept.drop 1, taken := (t.taken + 1) % 2 ^ 32 })

/-- The ring entries that a write of tlcommit makes visible, `m.tick.ns` into the frame: a count of 0 is ignored, one above tlfree is
dropped, and the entries are for the coming frame while the window has not opened on the core's die (R117, R118). -/
def Module.commitEntries (m : Module) (s h n cutoff : Nat) : Module :=
  if n = 0 then m
  else if n > (m.hart s h).free then m.count (STW_LIST_DROP_count s) 1
  else if m.tick.ns < cutoff && m.tick.phase == .open_ then m.modHart s h (fun t => { t with due := t.due + n })
  else (m.modHart s h (fun t => { t with late := t.late + n })).count (STW_LIST_LATE_count s) 1

/-! ### TCM reads (R111, R373, R382) -/

/-- Account for a TCM read of unit `s`; `true` when it delivers data. An armed injection makes a clean read correctable. DEDUCED
(log entry 95): a word that fails its re-read counts, and only the read-back of R382 fails the core at once, since the core serves
again after it. -/
def Module.tcmRead (m : Module) (s : Nat) (check : ReadCheck) (part : Option Nat) : Module × Bool :=
  let armed := (m.stwCore s).injTcm
  let m := if armed then m.modStw s (fun k => { k with injTcm := false }) else m
  match (if armed && check == .clean then .corrected else check) with
  | .clean => (m, true)
  | .corrected =>
    (((m.count (STW_TCM_ECC_corrected s) 1).logEvent clsSTEWARD errTCM_CE 0 2 s part none 0).errEvent 3 s none false, true)
  | .secondOk =>
    (((m.count (STW_TCM_ECC_uncorrected s) 1).logEvent clsSTEWARD errTCM_UE 0 2 s part none 0).errEvent 2 s none false, true)
  | .failed =>
    (((m.count (STW_TCM_ECC_uncorrected s) 1).logEvent clsSTEWARD errTCM_UE 0 2 s part none 0).errEvent 2 s none false, false)

/-- TCM that stays uncorrectable is lost to a hart's program (R382). -/
def Module.tcmLost (m : Module) (s h : Nat) : Module :=
  m.logEvent clsSTEWARD errDATA_LOST 3 2 s (m.stwPart s) (m.hart s h).ctx 0

/-- An uncorrectable error of the supervisor region: every program stops, and the supervisor is loaded again (R382). -/
def Module.supervisorLost (m : Module) (s : Nat) : Module :=
  let m := each (m.stwCore s).harts m (fun m e => if e.2.running then (m.tcmLost s e.1).stopHart s e.1 lostDATA_LOST false else m)
  -- what is found after step 3 began belongs to the next frame (R378)
  m.modStw s (fun k => { k with supReady := false, reload := some (frameAdd m.F (if m.tick.phase == .open_ then 2 else 3)) })

/-- Step 3: the TCM of a core whose supervisor was lost is zeroed and read back; `bad` lists 1024 + s of those whose
read-back fails. Entries committed before the stop are still taken (R120): their bytes are read before the TCM is zeroed. -/
def Module.stewardReload (m : Module) (bad : List Nat) : Module :=
  each (m.stw.filter (fun k => k.2.reload == some (frameAdd m.F 2))) m (fun m k =>
    let m := m.modStw k.1 (fun x => { x with
      tcm := [],
      harts := x.harts.map (fun e => (e.1, { e.2 with
        kept := (List.range (e.2.due + e.2.late)).map (fun i => m.ringEntry k.1 e.1 i) })) })
    if bad.contains (1024 + k.1) then (m.logEvent clsSTEWARD errTCM_UE 0 2 k.1 none none 0).errEvent 2 k.1 none true else m)

/-- The edge: a reloaded supervisor serves from its frame. -/
def Module.stewardBack (m : Module) : Module :=
  each (m.stw.filter (fun k => match k.2.reload with | some f => frameGe (frameAdd m.F 1) f | none => false)) m (fun m k =>
    m.modStw k.1 (fun x => { x with reload := none, supReady := true }))

/-! ### What a program may reach (R113) -/

/-- Where an access goes. -/
inductive StwReach where
  | tcm (off : Nat)
  | plate (core off : Nat)
  | mem
  | pageFault
  | accessFault
  deriving DecidableEq, Repr

/-- Where `len` bytes at a local offset lie for the program of a hart. -/
def Module.stwReach (m : Module) (s h off len : Nat) : StwReach :=
  match m.stwPart s with
  | none => .pageFault
  | some p =>
    match locate off with
    | .tcm s' b =>
      if s' = s && ((tcmPrograms ≤ b && b + len ≤ tcmRings) || (tcmRings + h * 0x1000 ≤ b && b + len ≤ tcmRings + (h + 1) * 0x1000)) then .tcm b
      else .pageFault
    | .plate c b =>
      if b + len ≤ 0x30_0000 && (match stwVd m.recs s with | some vd => coreVd m.recs c == some vd | none => false) then .plate c b else .pageFault
    | .hbm g _ => if hbmOwner m.recs g == some p then (if m.allowed p off len then .mem else .accessFault) else .pageFault
    | .ddr c o => if ddrOwner m.recs c (o / gibSize) == some p then (if m.allowed p off len then .mem else .accessFault) else .pageFault
    | _ => .pageFault

/-! ### Translation of a program's addresses (R111, R113) -/

/-- Levels of the tables that a satp value names: Sv48 four, Sv57 five; the supervisor builds no others. -/
def satpLevels (satp : Nat) : Nat := if satp / 2 ^ 60 = 9 then 4 else if satp / 2 ^ 60 = 10 then 5 else 0

/-- What an access does. -/
inductive StwKind where
  | fetch | load | store
  deriving DecidableEq, Repr

/-- The scause of a page fault and of an access fault. -/
def StwKind.pageCause : StwKind → Nat
  | .fetch => 12
  | .load => 13
  | .store => 15
def StwKind.accessCause : StwKind → Nat
  | .fetch => 1
  | .load => 5
  | .store => 7

/-- Outcome of a walk. -/
inductive StwWalk where
  | leaf (level pte : Nat)
  | pageFault
  | accessFault
  deriving DecidableEq, Repr

/-- The page table entry at a local offset: tables lie in the supervisor's region of the core's own TCM. -/
def Module.pteAt (m : Module) (s off : Nat) : Option Nat :=
  match locate off with
  | .tcm s' b => if s' = s && b + 8 ≤ tcmPrograms then some (leNat ((m.stwCore s).tcm.read b 8)) else none
  | _ => none

/-- Walk the tables from the one at `base`, `n` levels deep, for a virtual page number. -/
def Module.stwWalk (m : Module) (s vpn : Nat) : Nat → Nat → StwWalk
  | 0, _ => .pageFault
  | n + 1, base =>
    match m.pteAt s (base + 8 * (vpn / 2 ^ (9 * n) % 512)) with
    | none => .accessFault
    | some p =>
      if !bit p 0 || (bit p 2 && !bit p 1) || bits p 54 10 ≠ 0 then .pageFault
      else if bit p 1 || bit p 3 then (if bits p 10 (9 * n) ≠ 0 then .pageFault else .leaf n p)
      else m.stwWalk s vpn n (bits p 10 44 * 4096)

/-- Does a leaf give an access its permission: A set, R, W or X, and D for a store? -/
def pteGrants (p : Nat) (k : StwKind) : Bool :=
  bit p 6 && (match k with | .fetch => bit p 3 | .load => bit p 1 | .store => bit p 2 && bit p 7)

/-- Does a leaf allow a U-mode access: its permission, and U set? -/
def pteAllows (p : Nat) (k : StwKind) : Bool := bit p 4 && pteGrants p k

/-- Outcome of translating an address. -/
inductive StwAt where
  | at_ (off : Nat)
  | fault (scause : Nat)
  deriving DecidableEq, Repr

/-- Translate a virtual address of a hart's program by its TLB, or by a walk whose leaf the TLB then keeps. -/
def Module.stwTranslate (m : Module) (s h va : Nat) (k : StwKind) : Module × StwAt :=
  let t := m.hart s h
  let satp := t.csrOf csrSATP
  let n := satpLevels satp
  let vpn := bits va 12 (9 * n)
  let place (level pte : Nat) : StwAt :=
    if pteAllows pte k then .at_ ((bits pte 10 44 / 2 ^ (9 * level) * 2 ^ (9 * level) + vpn % 2 ^ (9 * level)) * 4096 + va % 4096)
    else .fault k.pageCause
  if n = 0 || va ≠ unsigned 64 (signed (12 + 9 * n) (bits va 0 (12 + 9 * n))) then (m, .fault k.pageCause)
  else match t.tlb.find? (fun e => e.vpn == vpn / 2 ^ (9 * e.level)) with
    | some e => (m, place e.level e.pte)
    | none =>
      match m.stwWalk s vpn n (bits satp 0 44 * 4096) with
      | .pageFault => (m, .fault k.pageCause)
      | .accessFault => (m, .fault k.accessCause)
      | .leaf level pte =>
        (m.modHart s h (fun t => { t with tlb := (t.tlb ++ [TlbEntry.mk (vpn / 2 ^ (9 * level)) level pte]).drop (t.tlb.length - 31) }),
         place level pte)

/-! ### Two-stage translation of the H extension

A program reaches it by the hypervisor loads and stores, which U-mode may use while hstatus.HU is set; VS-mode and VU-mode run
no program (R112). Its walks too read tables in TCM only. -/

/-- The scause of a guest page fault. -/
def StwKind.guestCause : StwKind → Nat
  | .fetch => 20
  | .load => 21
  | .store => 23

/-- The address that a leaf at a level gives a virtual one. -/
def leafAddr (level pte va : Nat) : Nat :=
  bits pte 10 44 / 2 ^ (9 * level) * 2 ^ (9 * level) * 4096 + va % 2 ^ (12 + 9 * level)

/-- The G stage: hgatp translates a guest address, with two more bits at its root, for an access of kind `k`; a fault is one of the
original kind `o`. -/
def Module.gStage (m : Module) (s h gpa : Nat) (k o : StwKind) : StwAt :=
  let hgatp := (m.hart s h).csrOf csrHGATP
  let n := satpLevels hgatp
  if hgatp / 2 ^ 60 = 0 then .at_ gpa
  else if n = 0 || gpa ≥ 2 ^ (14 + 9 * n) then .fault o.guestCause
  else match m.stwWalk s (gpa / 4096) n (bits hgatp 0 44 / 4 * 4 * 4096 + 4096 * (gpa / 2 ^ (12 + 9 * n))) with
    | .pageFault => .fault o.guestCause
    | .accessFault => .fault o.accessCause
    | .leaf level pte => if pteAllows pte k then .at_ (leafAddr level pte gpa) else .fault o.guestCause

/-- The VS stage from the table at guest address `base`, `n` levels deep: its tables lie where the G stage says. -/
def Module.vsWalk (m : Module) (s h va : Nat) (k o : StwKind) (allows : Nat → Bool) : Nat → Nat → StwAt
  | 0, _ => .fault o.pageCause
  | n + 1, base =>
    match m.gStage s h (base + 8 * (va / 2 ^ (12 + 9 * n) % 512)) .load o with
    | .fault c => .fault c
    | .at_ off => match m.pteAt s off with
      | none => .fault o.accessCause
      | some p =>
        if !bit p 0 || (bit p 2 && !bit p 1) || bits p 54 10 ≠ 0 then .fault o.pageCause
        else if bit p 1 || bit p 3 then
          (if bits p 10 (9 * n) ≠ 0 || !allows p || !pteGrants p k then .fault o.pageCause else m.gStage s h (leafAddr n p va) k o)
        else m.vsWalk s h va k o allows n (bits p 10 44 * 4096)

/-- Translate an address of a hypervisor load or store: vsatp, then hgatp. `k` is the permission it needs and `o` the kind that
its faults name; hstatus.SPVP says whether it acts as VS-mode, which reads U pages only with vsstatus.SUM. -/
def Module.guestTranslate (m : Module) (s h va : Nat) (k o : StwKind) : StwAt :=
  let t := m.hart s h
  let vsatp := t.csrOf csrVSATP
  let n := satpLevels vsatp
  let allows (p : Nat) : Bool :=
    if bit (t.csrOf csrHSTATUS) 8 then !bit p 4 || bit (t.csrOf csrVSSTATUS) 18 else bit p 4
  if vsatp / 2 ^ 60 = 0 then m.gStage s h va k o
  else if n = 0 || va ≠ unsigned 64 (signed (12 + 9 * n) (bits va 0 (12 + 9 * n))) then .fault o.pageCause
  else m.vsWalk s h va k o allows n (bits vsatp 0 44 * 4096)

/-- Where an access by virtual address goes: translated, and then held to what a leaf may name; or the scause of its fault. -/
def Module.stwPlace (m : Module) (s h va len : Nat) (k : StwKind) (space : StwSpace) : Module × Nat × StwReach × Nat :=
  let (m, at_) := match space with
    | .own => m.stwTranslate s h va k
    | .guest => (m, m.guestTranslate s h va k k)
    | .guestExec => (m, m.guestTranslate s h va .fetch k)
  match at_ with
  | .fault c => (m, 0, .pageFault, c)
  | .at_ off => match m.stwReach s h off len with
    | .accessFault => (m, off, .accessFault, k.accessCause)
    | r => (m, off, r, k.pageCause)

/-- A piece cut at 64-byte boundaries. -/
def StwPiece.cut (p : StwPiece) : List StwPiece :=
  let first := min p.len (64 - p.va % 64)
  if p.len = 0 then []
  else { p with len := first } ::
    (List.range (ceilDiv (p.len - first) 64)).map (fun i =>
      { va := p.va + first + 64 * i, len := min 64 (p.len - first - 64 * i), pos := p.pos + first + 64 * i })

/-- Does an element of a piece lie misaligned across a 64-byte boundary (R114)? -/
def crosses (va len elem : Nat) : Bool :=
  elem != 0 && va % elem != 0 && (List.range (len / elem)).any (fun i => (va + i * elem) % 64 + elem > 64)

/-- Outcome of translating the pieces of an access. -/
inductive StwSpots where
  /-- Each piece by local offset, and where it lies. -/
  | spots (l : List (StwPiece × StwReach))
  | fault (scause off : Nat) (refused : Bool)
  deriving DecidableEq, Repr

/-- Translate pieces in order, up to the first fault. -/
def Module.stwSpots (m : Module) (s h : Nat) (k : StwKind) (space : StwSpace) (l : List StwPiece) : Module × StwSpots :=
  (l.flatMap StwPiece.cut).foldl (fun (acc : Module × StwSpots) p =>
    match acc.2 with
    | .fault .. => acc
    | .spots done =>
      match acc.1.stwPlace s h p.va p.len k space with
      | (m, _, .pageFault, c) => (m, .fault c 0 false)
      | (m, off, .accessFault, c) => (m, .fault c off true)
      | (m, off, r, _) => (m, .spots (done ++ [({ p with va := off }, r)]))) (m, .spots [])

/-- A fault-only-first load (`ff` fields) up to its first element that faults: the pieces before it and the vl that is left. An element
0 that faults is none of this. -/
def Module.stwFirst (m : Module) (s h : Nat) (space : StwSpace) (elem ff : Nat) (l : List StwPiece) : Option (List StwPiece × Nat) :=
  let bad (p : StwPiece) : Bool :=
    crosses p.va p.len elem || (match (m.stwSpots s h .load space [p]).2 with | .fault .. => true | .spots _ => false)
  if ff = 0 then none
  else match l.findIdx? bad with
    | none => none
    | some k =>
      let first := k / ff * ff
      let i := ((l[first]?).map (·.pos)).getD 0 / elem
      if i = 0 then none else some (l.take first, i)

/-- A fault of an access: a refusal by the carve-out check is accounted for, and the program stops. -/
def Module.stwFault (m : Module) (s h scause off : Nat) (refused : Bool) : Module :=
  (if refused then m.refuse ((m.stwPart s).getD 0xFF) off else m).trapHart s h scause

/-- Bytes of a plate. -/
def Core.bytesAt (k : Core) (off len : Nat) : List Byte :=
  (k.readPlate (off / 64) (off % 64 + len)).drop (off % 64)

/-- Write bytes of a plate; entries over the written lines go (R105). -/
def Core.storeAt (k : Core) (off : Nat) (bs : List Byte) : Core :=
  let n := (off + bs.length - 1) / 64 + 1 - off / 64
  let old := k.readPlate (off / 64) (64 * n)
  let k := k.writePlate (off / 64) (setBytes old (off % 64) bs)
  { k with tags := k.tags.filter (fun t => !(t.first < off / 64 + n && off / 64 < t.first + t.lines)) }

/-! ### Control and status registers of a hart -/

/-- Nanoseconds from the frame's start to the earliest window opening of a die's blocks (R118). -/
def Module.dieCutoffNs (m : Module) (die : Nat) : Nat :=
  let l := (List.range 8).map (fun i => m.openNs (die * 128 + i * 16))
  l.foldl min (l.headD 0)

/-- Value of a U-mode CSR: those of R120 (tlcommit reads 0), and those of the F and V extensions. -/
def Module.stwCsr (m : Module) (s h num : Nat) : Option Nat :=
  let t := m.hart s h
  match num with
  | 0x8C0 => some 0
  | 0xCC0 => some m.F
  | 0xCC1 => some m.tick.ns
  | 0xCC2 => some (m.dieCutoffNs (s / 8) - m.tick.ns)
  | 0xCC3 => some t.free
  | 0x001 => some (bits (t.csrOf 3) 0 5)
  | 0x002 => some (bits (t.csrOf 3) 5 3)
  | 0x009 => some (bits (t.csrOf 0xF) 0 1)
  | 0x00A => some (bits (t.csrOf 0xF) 1 2)
  | 0xC22 => some 64
  | n => if ([0x003, 0x008, 0x00F, 0xC20, 0xC21] : List Nat).contains n then some (t.csrOf n) else none

/-- A write of a U-mode CSR of the F and V extensions; none when the CSR cannot be written. -/
def Hart.writeCsr (t : Hart) (num v : Nat) : Option Hart :=
  match num with
  | 0x001 => some (t.setCsr 3 (bits (t.csrOf 3) 5 3 * 32 + bits v 0 5))
  | 0x002 => some (t.setCsr 3 (bits v 0 3 * 32 + bits (t.csrOf 3) 0 5))
  | 0x003 => some (t.setCsr 3 (bits v 0 8))
  | 0x008 => some (t.setCsr 8 (bits v 0 9))
  | 0x009 => some (t.setCsr 0xF (bits (t.csrOf 0xF) 1 2 * 2 + bits v 0 1))
  | 0x00A => some (t.setCsr 0xF (bits v 0 2 * 2 + bits (t.csrOf 0xF) 0 1))
  | 0x00F => some (t.setCsr 0xF (bits v 0 3))
  | _ => none

/-! ### Instructions (R111, R113, R114) -/

/-- Write bytes of a TCM: reservations on them are lost. -/
def Module.tcmStore (m : Module) (s b : Nat) (data : List Byte) : Module :=
  m.modStw s (fun k => { k with
    tcm := k.tcm.write b data,
    harts := k.harts.map (fun e => (e.1, match e.2.resv with
      | some r => if r < b + data.length && b < r + 8 then { e.2 with resv := none } else e.2
      | none => e.2)) })

/-- Write bytes where a program may: false when the program has been stopped. -/
def Module.stwStore (m : Module) (s h off : Nat) (r : StwReach) (data : List Byte) : Module × Bool :=
  match r with
  | .tcm b => (m.tcmStore s b data, true)
  | .plate c b => (m.modCore c (fun k => k.storeAt b data), true)
  | .mem => (match m.memWrite ((m.stwPart s).getD 0xFF) off data with
    | (m, .ok) => (m, true)
    | (m, .refused) => (m.trapHart s h 7, false)
    | (m, .uncorrectable l) => ((m.dataLost l 3 ((m.stwPart s).getD 0xFF) (m.hart s h).ctx).stopHart s h lostDATA_LOST false, false))
  | .pageFault => (m.trapHart s h 15, false)
  | .accessFault => (m.stwFault s h 7 off true, false)

/-- Read bytes where a program may, for an access of a kind: none when the program has been stopped. -/
def Module.stwFetch (m : Module) (s h off len : Nat) (r : StwReach) (k : StwKind) : Module × Option (List Byte) :=
  match r with
  | .tcm b => (m, some ((m.stwCore s).tcm.read b len))
  | .plate c b => (match m.plateRead c (b / 64) false with
    | (m, true) => (m, some ((m.core c).bytesAt b len))
    | (m, false) => ((m.logEvent clsCORE errDATA_LOST 3 1 c (m.stwPart s) (m.hart s h).ctx 0).stopHart s h lostDATA_LOST false, none))
  | .mem => (match m.memRead ((m.stwPart s).getD 0xFF) off len with
    | (m, .ok, bs) => (m, some bs)
    | (m, .refused, _) => (m.trapHart s h k.accessCause, none)
    | (m, .uncorrectable l, _) => ((m.dataLost l 3 ((m.stwPart s).getD 0xFF) (m.hart s h).ctx).stopHart s h lostDATA_LOST false, none))
  | .pageFault => (m.trapHart s h k.pageCause, none)
  | .accessFault => (m.stwFault s h k.accessCause off true, none)

/-- Read pieces and finish the instruction: a load, or an atomic operation and its write. -/
def Module.stwFinish (m : Module) (s h : Nat) (l : List (StwPiece × StwReach)) (rd : Nat) (sx : Bool) (amo : Option (AmoOp × Nat)) : Module :=
  let kind : StwKind := match amo with | some (op, _) => if op == .lr then .load else .store | none => .load
  let r := l.foldl (fun (acc : Module × Option (List (Nat × List Byte))) p =>
    match acc.2 with
    | none => acc
    | some got => match acc.1.stwFetch s h p.1.va p.1.len p.2 kind with
      | (m, some bs) => (m, some (got ++ [(p.1.pos, bs)]))
      | (m, none) => (m, none)) (m, some [])
  match r with
  | (m, none) => m
  | (m, some got) =>
    let done (m : Module) : Module := m.modHart s h (fun t => { t.loaded rd sx got with block := .none })
    match amo, l with
    | some (op, src), p :: _ =>
      let old := got.flatMap (·.2)
      if op == .lr then
        (done m).modHart s h (fun t => { t with resv := match p.2 with | .tcm b => some b | _ => none })
      else match m.stwStore s h p.1.va p.2 (leBytes old.length (op.apply old.length (leNat old) src)) with
        | (m, true) => done m
        | (m, false) => m
    | _, _ => done m

/-- The value that a CSR instruction writes, from the old one. -/
def CsrOp.apply (op : CsrOp) (old src : Nat) : Nat :=
  match op with
  | .read => old
  | .write => src
  | .set => old ||| src
  | .clear => old &&& (2 ^ 64 - 1 - src)

/-- A CSR instruction of a program (R120): a write of tlcommit commits entries, a read of edgewait blocks until the edge, and a CSR
that is not there in U-mode, or a write of one that only reads, is an illegal instruction. -/
def Module.stwCsrInstr (m : Module) (s h num rd : Nat) (op : CsrOp) (src : Nat) : Module :=
  if num / 0x400 = 3 && op != .read then m.trapHart s h 2
  else if num = 0xCC4 then m.modHart s h (fun t => { t.skip 4 with block := .edge rd m.F })
  else match m.stwCsr s h num with
    | none => m.trapHart s h 2
    | some v =>
      let m' := m.modHart s h (fun t => (t.setReg rd v).skip 4)
      if op == .read then m'
      else if num = 0x8C0 then m'.commitEntries s h (op.apply v src) (m'.dieCutoffNs (s / 8))
      else match (m'.hart s h).writeCsr num (op.apply v src) with
        | some t => m'.modHart s h (fun _ => t)
        | none => m.trapHart s h 2

/-- Effect of a decoded instruction on a hart whose turn it is; `check` and `served` as in STEWARD_INSTRUCTION. -/
def Module.stwEffect (m : Module) (s h : Nat) (d : RvDecoded) (check : ReadCheck) (served : Option (List (Nat × Nat))) : Module :=
  let next (m : Module) : Module := m.modHart s h (fun t => (if d.vec then t.setCsr csrVSTART 0 else t).skip d.len)
  match d.res with
  | .done t => m.modHart s h (fun _ => t)
  | .csr num rd op src => m.stwCsrInstr s h num rd op src
  | .trap scause => m.trapHart s h scause
  | .call scause => (match served with
    | some regs => m.modHart s h (fun t => (regs.foldl (fun t r => t.setReg r.1 r.2) t).skip d.len)
    | none => m.trapHart s h scause)
  | .load space parts elem rd sx ff =>
    let (m, parts) := match m.stwFirst s h space elem ff parts with
      | some (l, n) => (m.modHart s h (fun t => t.setCsr csrVL n), l)
      | none => (m, parts)
    if parts.isEmpty then next m
    else if parts.any (fun p => crosses p.va p.len elem) then m.trapHart s h 4
    else match m.stwSpots s h .load space parts with
      | (m, .fault c off refused) => m.stwFault s h c off refused
      | (m, .spots l) =>
        if l.all (fun p => match p.2 with | .tcm _ => true | _ => false) then
          (match m.tcmRead s check (m.stwPart s) with
           | (m, true) => (next m).stwFinish s h l rd sx none
           | (m, false) => (m.tcmLost s h).stopHart s h lostDATA_LOST false)
        else (next m).modHart s h (fun t => { t with block := .read (l.map (·.1)) rd sx none })
  | .store space elem parts =>
    if parts.any (fun p => crosses p.1 p.2.length elem) then m.trapHart s h 6
    else match m.stwSpots s h .store space (parts.map (fun p => { va := p.1, len := p.2.length, pos := 0 })) with
      | (m, .fault c off refused) => m.stwFault s h c off refused
      | (m, .spots l) =>
        let data := parts.flatMap (·.2)
        let r := l.foldl (fun (acc : Module × Bool × Nat) p =>
          if acc.2.1 then
            let (m, ok) := acc.1.stwStore s h p.1.va p.2 ((data.drop acc.2.2).take p.1.len)
            (m, ok, acc.2.2 + p.1.len)
          else acc) (m, true, 0)
        if r.2.1 then next r.1 else r.1
  | .amo va len rd op src =>
    if crosses va len len then m.trapHart s h (if op == .lr then 4 else 6)
    else match m.stwSpots s h (if op == .lr then .load else .store) .own (onePiece va len) with
      | (m, .fault c off refused) => m.stwFault s h c off refused
      | (m, .spots [(p, .tcm b)]) =>
        if op == .sc then
          (if (m.hart s h).resv == some b then
             (next (m.tcmStore s b (leBytes len (src % 2 ^ (8 * len))))).modHart s h (fun t => { t.setReg rd 0 with resv := none })
           else (next m).modHart s h (fun t => { t.setReg rd 1 with resv := none }))
        else (match m.tcmRead s check (m.stwPart s) with
          | (m, true) => (next m).stwFinish s h [(p, .tcm b)] rd true (some (op, src))
          | (m, false) => (m.tcmLost s h).stopHart s h lostDATA_LOST false)
      | (m, .spots l) =>
        if op == .sc then (next m).modHart s h (fun t => { t.setReg rd 1 with resv := none })
        else (next m).modHart s h (fun t => { t with block := .read (l.map (·.1)) rd true (some (op, src)) })

/-- The supervisor starts a program of a live context of the partition on an idle hart; TLB and registers are empty. -/
def Module.startHart (m : Module) (s h ctx pc satp : Nat) : Module :=
  let ok := match m.ctx? ctx with | some x => x.state == .live && !x.lost && m.stwPart s == some x.part | none => false
  if ok && h < 16 && !(m.hart s h).running then
    m.modHart s h (fun t => { t with
      ctx := some ctx, running := true, stopped := false, block := .none, pc := pc / 2 * 2 % 2 ^ 64, x := [], f := [], v := [], tlb := [], resv := none,
      csr := SMap.set (fun _ => 0) [] csrSATP (satp % 2 ^ 64) })
  else m

/-- Reads outside TCM that an instruction would have outstanding. -/
def Module.stwNeeds (m : Module) (s h : Nat) (r : RvResult) : Nat :=
  let out (k : StwKind) (space : StwSpace) (l : List StwPiece) : Nat := match (m.stwSpots s h k space l).2 with
    | .spots l => if l.all (fun p => match p.2 with | .tcm _ => true | _ => false) then 0 else piecesOut (l.map (·.1))
    | _ => 0
  match r with
  | .load space parts _ _ _ _ => out .load space parts
  | .amo va len _ op _ => if op == .sc then 0 else out (if op == .lr then .load else .store) .own (onePiece va len)
  | _ => 0

/-- Two bytes of an instruction are fetched through the program's tables: `none` when they cannot be, and the program has ended (R111,
R382). `check` is what ECC finds where they lie in TCM. -/
def Module.stwHalf (m : Module) (s h va : Nat) (check : ReadCheck) : Module × Option Nat :=
  match m.stwSpots s h .fetch .own (onePiece va 2) with
  | (m, .fault c off refused) => (m.stwFault s h c off refused, none)
  | (m, .spots l) =>
    let r := l.foldl (fun (acc : Module × Option (List Byte)) p =>
      match acc.2, p.2 with
      | none, _ => acc
      | some got, .tcm b => (match acc.1.tcmRead s check (acc.1.stwPart s) with
        | (m, true) => (m, some (got ++ (m.stwCore s).tcm.read b p.1.len))
        | (m, false) => ((m.tcmLost s h).stopHart s h lostDATA_LOST false, none))
      | some got, r => (match acc.1.stwFetch s h p.1.va p.1.len r .fetch with
        | (m, some bs) => (m, some (got ++ bs))
        | (m, none) => (m, none))) (m, some [])
    (r.1, r.2.map leNat)

/-- Fetch the instruction at a hart's pc, of two bytes or of four, and decode it. -/
def Module.stwIFetch (m : Module) (s h : Nat) (check : ReadCheck) : Module × Option RvDecoded :=
  let pc := (m.hart s h).pc
  match m.stwHalf s h pc check with
  | (m, none) => (m, none)
  | (m, some lo) =>
    if lo % 4 ≠ 3 then (m, some ((m.hart s h).decode lo 0))
    else match m.stwHalf s h ((pc + 2) % 2 ^ 64) .clean with
      | (m, none) => (m, none)
      | (m, some hi) => (m, some ((m.hart s h).decode lo hi))

/-- A hart of a serving steward core issues an instruction, in barrel order: it is fetched through the program's tables, decoded and
carried out, and waits while its reads would pass the 4 outstanding; `fetch` is what ECC finds where it is fetched from TCM. The
supervisor's own acts need no turn. -/
def effStewardInstruction (s h : Nat) (e : StwEffect) (fetch : ReadCheck) (m : Module) : Module :=
  if !m.stwServes s || m.dieClamped (s / 8) then m
  else match e with
    | .start hart ctx pc satp => m.startHart s hart ctx pc satp
    | .stop hart => m.stopHart s hart 0 false
    | .supRead off check =>
      if off < tcmPrograms then
        (match m.tcmRead s check none with | (m, true) => m | (m, false) => m.supervisorLost s)
      else m
    | .supWrite off data => if off + data.length ≤ tcmRings then m.tcmStore s off data else m
    | .supCsr hart num value => if hart < 16 then m.modHart s hart (fun t => t.setCsr num value) else m
    | .supFence hart => if hart < 16 then m.modHart s hart (fun t => { t with tlb := [] }) else m
    | .retire ns check served =>
      if m.stwTurn s != some h then m
      else
        match (m.setTick (fun t => { t with ns := max t.ns ns })).stwIFetch s h fetch with
        | (m', none) => m'.passTurn s h
        | (m', some d) =>
          if m'.stwOut s + m'.stwNeeds s h d.res > 4 then m
          else (m'.stwEffect s h d check served).passTurn s h

/-- A hart's reads outside TCM return: its instruction finishes, where the bindings still let it reach the bytes. -/
def effStewardReadDone (s h : Nat) (m : Module) : Module :=
  match (m.hart s h).block with
  | .read l rd sx amo => m.stwFinish s h (l.map (fun p => (p, m.stwReach s h p.va p.len))) rd sx amo
  | _ => m

/-- A hart writes tlcommit, `ns` into the frame, and reads 0 into `rd` (R117, R118, R120). -/
def effTlcommit (s h rd n ns : Nat) (m : Module) : Module :=
  if !m.stwServes s || m.stwTurn s != some h then m
  else
    let m := m.setTick (fun t => { t with ns := max t.ns ns })
    let m := (m.modHart s h (fun t => { t.setReg rd 0 with pc := (t.pc + 4) % 2 ^ 64 })).passTurn s h
    m.commitEntries s h n (m.dieCutoffNs (s / 8))

/-- A hart reads edgewait and blocks until the edge. -/
def effEdgewait (s h rd : Nat) (m : Module) : Module :=
  if !m.stwServes s || m.stwTurn s != some h then m
  else (m.modHart s h (fun t => { t with pc := (t.pc + 4) % 2 ^ 64, block := .edge rd m.F })).passTurn s h

/-- After the edge a blocked hart resumes with the new frame number. -/
def effEdgewaitResume (s h : Nat) (m : Module) : Module :=
  match (m.hart s h).block with
  | .edge rd f => if f = m.F then m else m.modHart s h (fun t => { t.setReg rd m.F with block := .none })
  | _ => m

/-- STW_CTRL.inj_tcm (R123). -/
def effInjTcm (s : Nat) (m : Module) : Module := if m.stwConf s then m else m.modStw s (fun k => { k with injTcm := true })

/-! ### Intake of committed entries in step 8 (R119) -/

/-- Outcome of one entry: taken or dropped, or its stream is not yet translated. -/
inductive Intake where
  | done
  | wait
  deriving DecidableEq, Repr

/-- Take an entry that a hart committed while its core served a device; `free` removes it from where it stands. -/
def Module.takeEntry (m : Module) (s h : Nat) (vd : Option Nat) (e : List Byte) (free : Module → Module) : Module × Intake :=
  let handle := fieldOf e 0 4
  let off := fieldOf e 4 6
  let ctx := bits (fieldOf e 10 3) 0 20
  let drop (m : Module) : Module × Intake := ((free m).count (STW_LIST_DROP_count s) 1, .done)
  let lose (m : Module) (cause : Nat) : Module × Intake := (free (Module.inStep8 m (m.markLost ctx cause)), .done)
  match m.ctx? ctx with
  | none => drop m
  | some x =>
    if vd != some x.vd || x.lost || fieldOf e 10 3 ≥ 2 ^ 20 || fieldOf e 13 3 ≠ 0 || off % 32 ≠ 0 then drop m
    else match m.moOf handle ctx none with
      | none => drop m
      | some (_, ob) =>
        if off + 128 > ob.size then lose m lostBAD_OBJECT
        else match m.readTile ctx ob off (.entry s h ctx) with
          | (m, .wait) => (m, .wait)
          | (m, .range) => lose m lostMEM_RANGE
          | (m, .uncorrectable l) => lose (m.dataLost l 2 (m.ctxPart ctx) (some ctx)) lostDATA_LOST
          | (m, .data b) =>
            let m := m.served (.entry s h ctx)
            let r := rawTile b
            if off + r.hdr.bytes > ob.size || !m.tileNamesOk r ctx none then lose m lostBAD_OBJECT
            else
              let m := each (entryObjs handle r.hdr.objs) m (fun m i => m.holdMo i)
              let m := each r.tls m (fun m x => m.holdTl x)
              let (m, tile) := (free m).newTile r (.steward s h) ctx x.label handle off
              (m.takeTile tile true, .done)

/-- Entries of a hart that this window may take: all that are due, none of a device that the twin runs (R312), and only the
agreed ones of a LOCKSTEP device (R321). -/
def Module.intakeCount (m : Module) (s h : Nat) : Nat :=
  let t := m.hart s h
  match stwVd m.recs s with
  | some vd => if !m.runsVd vd then 0 else if m.needsAgree vd then
      let n := subMod 32 ((m.agreedAt vd (hartKey s h)).getD t.taken) t.taken
      if n < 2 ^ 31 then min t.due n else 0
    else t.due
  | none => t.due

/-- Take up to `n` entries of a hart, in ring order. DESIGN CHOICE (log entry 94): an entry whose tile waits for a translation stays,
and the entries behind it with it, until the next window. -/
def Module.takeEntries (s h : Nat) : Nat → Module → Module
  | 0, m => m
  | n + 1, m => match m.takeEntry s h (stwVd m.recs s) (m.ringEntry s h 0) (fun m => m.freeRing s h) with
    | (m, .done) => Module.takeEntries s h n m
    | (m, .wait) => m

/-- Take the entries that stand though their core has left its device (R120), ahead of those that its harts commit for another. -/
def Module.takeStanding (m : Module) : Module :=
  each m.stwLeft { m with stwLeft := [] } (fun m e =>
    if !m.runsVd e.vd then { m with stwLeft := m.stwLeft ++ [e] }
    else match m.takeEntry e.core e.hart (some e.vd) e.bytes id with
      | (m, .done) => m
      | (m, .wait) => { m with stwLeft := m.stwLeft ++ [e] })

/-- Step 8: by steward core, then by hart, then in ring order. -/
def Module.intake (m : Module) : Module :=
  let m := m.takeStanding
  each m.stw m (fun m k => each k.2.harts m (fun m e => Module.takeEntries k.1 e.1 (m.intakeCount k.1 e.1) m))

/-- The edge: commits of the window and after it are due now (R118). -/
def Module.stewardEdge (m : Module) : Module :=
  { m with stw := m.stw.map (fun k => (k.1, { k.2 with harts := k.2.harts.map (fun e =>
      (e.1, { e.2 with due := e.2.due + e.2.late, late := 0 })) })) }

/-- A steward core leaves device `vd` at the edge (R115, R120): commits for the frame after are discarded and those for the frame that
begins stand, its programs end, its program regions and rings are zeroed. -/
def Module.stewardLeave (m : Module) (s vd : Nat) : Module :=
  let left := (m.stwCore s).harts.flatMap (fun e => (List.range e.2.due).map (fun i =>
    ({ core := s, hart := e.1, vd := vd, bytes := m.ringEntry s e.1 i } : LeftEntry)))
  let m : Module := { m with stwLeft := m.stwLeft ++ left }
  let m := each (m.stwCore s).harts m (fun m e => m.stopHart s e.1 0 false)
  m.modStw s (fun k => { k with
    harts := k.harts.map (fun e => (e.1, { e.2 with late := 0, due := 0, head := 0, kept := [], taken := 0 })),
    tcm := k.tcm.filter (fun c => c.1 < tcmPrograms) })

end Sys2Proof.Machine
end

