-- ==== Sys2Proof/Machine/MemOps.lean ====
section
/-!
DEFINITION. The memory-side dies (R129 to R149, R294 to R299): requests and the enlarger, returns with their checks,
patrol scrub, bandwidth buckets, clearing and zeroing, latency monitors, injections, and migrations.
-/
namespace Sys2Proof.Machine

/-- Global channel number of local channel index `n` of a die (R124). -/
def chanNo (die n : Nat) : Nat := if n < 128 then die * 128 + n else 512 + die * 3 + (n - 128)

/-! ### Regulation (R146) -/

/-- Fill value of R146 for `q` queued bytes. -/
def fillOf (q : Nat) : Nat := min 255 (256 * q / 16384)

/-- Every channel reports its fills: `l` lists channel, class and queued bytes, the others report 0; each bucket has filled at its
rate for the 64 ac that passed, and its regulator sets the rate anew from the class's fill at the channels that its requester
addressed in any class. The interval of R199 ends with it, and the reduction engines make the writes that now find their tokens. -/
def effFillReport (l : List (Nat × Nat × Nat)) (m : Module) : Module :=
  let fills := l.foldl (fun s e => SMap.set (fun _ => 0) s (e.1 * 8 + e.2.1 % 8) (fillOf e.2.2)) []
  let upd (k : Nat) (x : Bucket) : Bucket :=
    let (f, c) := m.floorCeil (k / 8 % 256) x.req x.path
    let now := (m.mem.now / 64 + 1) * 64
    let chans := m.mem.buckets.flatMap (fun e => if e.1 / 8 = k / 8 then e.2.chans else [])
    let fill := chans.foldl (fun a ch => max a (SMap.get (fun _ => 0) fills (ch * 8 + k % 8))) 0
    { x.fill f c (64 - x.since) with press := fill, at_ := now, since := 0, chans := [] }
  (m.setMem (fun s => { s with
    now := (s.now / 64 + 1) * 64, fills := fills, buckets := s.buckets.map (fun e => (e.1, upd e.1 e.2)) })).loadInterval.collPump

/-! ### The consumers of a read that failed (R129, R382) -/

/-- Halt of a migration at an uncorrectable line (R297). -/
def Module.migHalt (m : Module) (k line : Nat) : Module :=
  let conf := match m.mem.migs.get? k with | some g => m.lineConf g.src | none => false
  let m := m.setMem (fun s => { s with
    badHidden := if conf then insertU s.badHidden k else s.badHidden.filter (· != k),
    migs := s.migs.mod k (fun g => { g with state := 3, resume := false, sliceDone := false }) })
  (m.setFld (MEM_MIG_STATE_cause (k / 2) (k % 2)) 3).setReg64 (MEM_MIG_BAD_LO (k / 2) (k % 2)) (MEM_MIG_BAD_HI (k / 2) (k % 2)) line

/-- The body load of a tile failed: it keeps its placement and waits for the twin, or its context is lost. -/
def Module.bodyFail (m : Module) (uid line : Nat) : Module :=
  match m.lists.find? (fun t => t.uid == uid) with
  | none => m
  | some t =>
    let precious := match m.streamObj t.stream with | some o => o.precious | none => false
    if m.repairable t.vd (m.ctxPart t.ctx) line precious then
      let m := m.noteVd t.vd 2
      { m with lists := m.lists.map (fun x => if x.uid = uid then { x with waitRepair := some { line := line, seq := none, frame := m.F }, joined := false } else x) }
    else (m.dataLost line 2 (m.ctxPart t.ctx) (some t.ctx)).willLose t.ctx lostDATA_LOST

/-- Deal with the consumer of an uncorrectable line. -/
def Module.consumerFail (m : Module) (req : Requester) (line : Nat) : Module :=
  match req with
  | .tile c _ precious => m.lineEnd c line precious none
  | .body uid => m.bodyFail uid line
  | .steward s h => (m.dataLost line 3 ((m.stwPart s).getD 0xFF) (m.hart s h).ctx).stopHart s h lostDATA_LOST false
  | .gather c _ seq => m.lineEnd c line false (some seq)
  | .seqCopy seq page => each (m.seq.copies.filter (fun c => c.seq == seq && c.page == page))
      (m.dataLost line 5 (match m.seq? seq with | some q => q.part | none => 0xFF) none) (fun m c => m.abandonCopy c)
  | .migrate i => (m.dataLost line 5 0xFF none).migHalt i line
  | .host => (m.dataLost line 6 0xFF none).emit (.response 4 [])
  | .reduce port coll => (m.dataLost line 7 0xFF none).collAbort (collKey port coll) caTRAILER
  | .scrub | .control | .timeline _ => m

/-- Is the stack that holds an offset in its recalibration slice, in which its requests wait (R481)? -/
def Module.recalibrates (m : Module) (off : Nat) : Bool := chanOf off < 512 && m.mem.recal.contains (chanOf off / 32)

/-- Deal with the sender of a refused request (R129). -/
def Module.refusedBy (m : Module) (req : Requester) (write : Bool) : Module :=
  match req with
  | .tile c _ _ | .gather c _ _ => m.lostEnd c lostMEM_RANGE
  | .body uid => (match m.lists.find? (fun t => t.uid == uid) with | some t => m.willLose t.ctx lostMEM_RANGE | none => m)
  | .steward s h => m.trapHart s h (if write then 7 else 5)
  | .host => if write then m else m.emit (.response 4 [])
  | _ => m

/-! ### Latency (R148) -/

/-- Note a latency in ac. -/
def Module.noteLat (m : Module) (ch cls lat : Nat) (conf : Bool) : Module :=
  if conf then m
  else
    let l := min lat 65535
    let up (s : SMap Nat) : SMap Nat := SMap.set (fun _ => 0) s (ch * 8 + cls) (max l (SMap.get (fun _ => 0) s (ch * 8 + cls)))
    m.setMem (fun s => { s with latClear := up s.latClear, latFrame := up s.latFrame })

/-! ### Requests and the enlarger (R129, R140 to R143) -/

/-- Deliver a read's bytes. -/
def Module.deliver (m : Module) (r : MemRead) (data : List Byte) : Module :=
  let bs := (data.drop (r.offset % 256)).take r.len
  match r.req with
  | .host => m.emit (.response 0 bs)
  | q => m.emit (.memData q r.offset bs)

/-- Does a request touch line `i` of its 256-byte line? A DDR5 read takes the whole granule. -/
def MemRead.touches (r : MemRead) (i : Nat) : Bool :=
  chanOf r.offset ≥ 512 || (r.offset % 256 < 64 * i + 64 && 64 * i < r.offset % 256 + r.len)

/-- A requester gets what its channel read brought, at `now`: its bytes, or the failure of a lost line among them. -/
def Module.answer (m : Module) (base : Nat) (back : LineBack) (now : Nat) (r : MemRead) : Module :=
  match back.lost.find? (fun i => r.touches i) with
  | some i => m.consumerFail r.req (base + 64 * i)
  | none => (m.noteLat (chanOf base) r.cls (now - r.at_) (m.conf r.part)).deliver r back.data

/-- Record how many entries are open and how many requesters one of them has. -/
def Module.enlPeaks (m : Module) (die joiners : Nat) : Module :=
  let n := (m.mem.enl.filter (·.1 == die)).length
  let m := if m.fld (MEM_ENL_PEAK_joiners die) < joiners then m.setFld (MEM_ENL_PEAK_joiners die) joiners else m
  if m.fld (MEM_ENL_PEAK_entries die) < n then m.setFld (MEM_ENL_PEAK_entries die) n else m

/-- A channel read of a line for a request, ordered at the die. -/
def Module.startRead (m : Module) (die base : Nat) (r : MemRead) : Module :=
  m.setMem (fun s => { s with
    readNo := s.readNo + 1,
    reads := s.reads ++ [{ id := s.readNo, die := die, line := base, data := m.dataAt (alignDown r.offset 256) 256, lost := m.knownLost base,
                           wrote := [], badTag := s.badTag.contains base, reqs := [r] }] })

/-- The entries that a read arriving at `now` may find: those whose 64 ac are over are closed, and so is one of whose line the module
has written a record of the object tables (R141). -/
def Module.enlNow (m : Module) (now : Nat) : Module :=
  m.setMem (fun s => { s with enl := s.enl.filter (fun e => now < e.2.opened + 64 && e.2.tab == m.tablePart (m.offsetOf e.2.line)) })

/-- Does a read's data cross the seams on its own? One that joins an entry shares the multicast to its die (R141, R199). -/
def Module.sharesSeam (m : Module) (die base : Nat) (req : Requester) : Bool :=
  match m.mem.enl.find? (fun e => e.1 == die && e.2.line == base) with
  | some (_, e) => m.mem.reads.any (fun x => x.id == e.read && x.reqs.any (fun y => m.nodeOf y.req == m.nodeOf req))
  | none => false

/-- A read that passed the check: it joins the line's entry, opens one, or goes on its own. `done` is when its last byte leaves
if the line has returned already. -/
def Module.enlarge (m : Module) (r : MemRead) (done : Nat) : Module :=
  let base := m.readAt (alignDown r.offset 256)
  let die := dieOf base
  match m.mem.enl.find? (fun e => e.1 == die && e.2.line == base) with
  | some (_, e) =>
    let e' : EnlEntry := { e with joiners := e.joiners + 1 }
    let enl := if e'.joiners ≥ 128 then m.mem.enl.filter (· != (die, e))
      else m.mem.enl.map (fun x => if x = (die, e) then (die, e') else x)
    let m := m.setMem (fun s => { s with enl := enl })
    let m := (m.count (MEM_ENL_MERGED_count die) 1).enlPeaks die e'.joiners
    match e.back with
    | some b => m.answer base b done r
    | none => m.setMem (fun s => { s with reads := s.reads.map (fun x => if x.id = e.read then { x with reqs := x.reqs ++ [r] } else x) })
  | none =>
    let id := m.mem.readNo
    let m := m.startRead die base r
    if (m.mem.enl.filter (·.1 == die)).length ≥ 256 then m.count (MEM_ENL_BYPASS_count die) 1
    else (m.setMem (fun s => { s with enl := s.enl ++ [(die, { line := base, joiners := 1, opened := r.at_, read := id, back := none,
                                                                  tab := m.tablePart (alignDown r.offset 256) })] })).enlPeaks die 1

/-- Does space being cleared hold these bytes (R131)? -/
def Module.clearingAt (m : Module) (off n : Nat) : Bool :=
  let held (o : Nat) : Bool := match locate o with
    | .hbm g _ => m.mem.clearing.contains (g, 0)
    | .ddr c b => m.mem.clearing.contains (512 + c, b / gibSize)
    | _ => false
  held off && held (off + n - 1)

/-- A request of at most one 256-byte line reaches its memory-side die at `at_`; what it moves at once has left the die at
`done`. It is no request yet while its bucket lacks the tokens (R145). `errs` is what the read of a partial write meets. Clearing
writes zeros over space that no carve-out holds (R131, R144). -/
def effMemRequest (write : Bool) (part off len cls : Nat) (req : Requester) (data : List Byte) (errs : ReadErrs) (at_ done : Nat) (m : Module) :
    Module :=
  let n := if write then data.length else len
  if n = 0 || off % 256 + n > 256 then m
  else if write && m.recalibrates off then
    m.setMem (fun s => { s with held := s.held ++
      [{ part := part, off := off, cls := cls, req := req, data := data, errs := errs, at_ := at_, done := done }] })
  else if req == .control && write && m.clearingAt off n then
    (m.store off (zeros n)).noteLat (chanOf off) (m.reqClass req part cls) (done - at_) false
  else if !m.allowed part off n then (m.refuse part off).refusedBy req write
  else
    let cls := m.reqClass req part cls
    match m.takeTokens req part cls off (chargeOf write off n) at_ with
    | (m, none) => m
    | (m, some mark) =>
      let base := m.readAt (alignDown off 256)
      let m := if write then m else m.enlNow at_
      let m := if !write && m.sharesSeam (dieOf base) base req then m else m.reqLoad req part cls off write mark
      let m := m.setMem (fun s => { s with now := max s.now at_ })
      if write then
        (match m.memWriteErrs part off data errs with
         | (m, .ok) => m.noteLat (chanOf base) cls (done - at_) (m.conf part)
         | (m, .refused) => m.refusedBy req true
         | (m, .uncorrectable l) => (m.consumerFail req l).actSystem)
      else (m.enlarge { offset := off, len := n, part := part, req := req, cls := cls, at_ := at_, assured := mark } done).actSystem

/-- The edge ends the recalibration slices: the writes that waited reach their stacks in order (R481). -/
def Module.slicesEnd (m : Module) : Module :=
  let l := m.mem.held
  each l (m.setMem (fun s => { s with recal := [], held := [] }))
    (fun m w => effMemRequest true w.part w.off 0 w.cls w.req w.data w.errs w.at_ w.done m)

/-- An entry closes to joiners at t0 + 64 ac. -/
def effEnlClose (die line : Nat) (m : Module) : Module :=
  m.setMem (fun s => { s with enl := s.enl.filter (fun e => !(e.1 == die && e.2.line == alignDown line 256)) })

/-! ### Returns (R135, R139, R373) -/

/-- A channel read returns at `now`: the `k`-th oldest of those on their way for the 256-byte line. Its code and tag checks
decide what its requesters, and the later joiners of its entry, get. -/
def effMemReadReturn (line k : Nat) (errs : ReadErrs) (now : Nat) (m : Module) : Module :=
  let base := alignDown line 256
  if m.recalibrates base then m
  else
  match (m.mem.reads.filter (fun x => x.line == base))[k]? with
  | none => m
  | some x =>
    let m := m.setMem (fun s => { s with reads := s.reads.filter (fun y => y.id != x.id) })
    let i0 := match x.reqs with | r :: _ => r.offset % 256 / 64 | [] => 0
    let (m, g) := m.granuleRead base [0, 1, 2, 3] x.data x.lost x.badTag errs errMEM_UE i0
    let m := m.granuleLeaves base x.wrote g
    let data := g.as_.foldl (fun d e => if e.1 < 4 then setBytes d (64 * e.1) (e.2.take 64) else d) x.data
    let back : LineBack := { data := data, lost := g.lost }
    let m := m.setMem (fun s => { s with enl := s.enl.map (fun e => if e.2.read = x.id then (e.1, { e.2 with back := some back }) else e) })
    (each x.reqs m (fun m r => m.answer base back now r)).actSystem

/-! ### Scrub, clearing, zeroing (R131, R132, R136) -/

/-- Bytes of a channel. -/
def Module.chanSize (m : Module) (ch : Nat) : Nat :=
  if ch < 512 then hbmSize else match m.mem.ddr.get? (ch - 512) with | some d => d.gib * gibSize | none => 0

/-- Patrol scrub reads the next line of a channel; an uncorrectable one is logged and left. -/
def effScrubRead (ch : Nat) (errs : ReadErrs) (m : Module) : Module :=
  let at_ := SMap.get (fun _ => 0) m.mem.scrubAt ch
  let line := chanOffset ch at_
  let step := if ch < 512 then 64 else 256
  let size := m.chanSize ch
  let on := ch < 512 || (match m.mem.ddr.get? (ch - 512) with | some d => d.state == .online | none => false)
  if m.recalibrates line || !m.flag (MEM_CTRL_scrub_en (dieOf line)) || m.mem.retiredCh.contains ch || at_ ≥ size || !on then m
  else
    let (m, _) := m.readNow (alignDown line 256) [line % 256 / 64] errs errSCRUB_UE
    let next := if at_ + step ≥ size then 0 else at_ + step
    (m.setMem (fun s => { s with scrubAt := SMap.set (fun _ => 0) s.scrubAt ch next })).actSystem

/-- Overwrite a range with zeros. -/
def Mem.zero (b : Mem) (lo size : Nat) : Mem := b.filter (fun c => !(lo ≤ c.1 && c.1 < lo + size))

/-- Zeros with valid ECC and tags over a range of device memory: writes of whole lines. -/
def Module.zeroRange (m : Module) (lo size : Nat) : Module :=
  (m.setMem (fun s => { s with bytes := s.bytes.zero lo size })).overwritten lo size

/-- Released space has been overwritten with zeros. -/
def effClearingDone (ch gib : Nat) (m : Module) : Module :=
  if !m.mem.clearing.contains (ch, gib) then m
  else
    let m := if ch < 512 then m.zeroRange (chanOffset ch 0) hbmSize else m.zeroRange (chanOffset ch (gib * gibSize)) gibSize
    m.setMem (fun s => { s with clearing := s.clearing.filter (· != (ch, gib)) })

/-- The zeroing of a trained channel completes. -/
def effChannelZeroed (ch : Nat) (m : Module) : Module :=
  if ch < 512 then
    if m.mem.hbmTrained.contains (ch / 32) && !m.mem.hbmZeroed.contains ch then
      (m.zeroRange (chanOffset ch 0) hbmSize).setMem (fun s => { s with hbmZeroed := insertU s.hbmZeroed ch })
    else m
  else match m.mem.ddr.get? (ch - 512) with
    | some d =>
      if d.state == .init && m.nvj.ddr.isNone then
        (m.zeroRange (chanOffset ch 0) ddrStride).setMem (fun s => { s with ddr := s.ddr.put (ch - 512) { d with state := .online } })
      else m
    | none => m

/-! ### Injections and the latency monitors (R148, R149) -/

def effInjHbmCe (d : Nat) (m : Module) : Module := m.setMem (fun s => { s with injHbmCe := insertU s.injHbmCe d })
def effInjHbmUe (d : Nat) (m : Module) : Module := m.setMem (fun s => { s with injHbmUe := insertU s.injHbmUe d })
def effInjDdrCe (d : Nat) (m : Module) : Module := m.setMem (fun s => { s with injDdrCe := insertU s.injDdrCe d })
def effInjDdrUe (d : Nat) (m : Module) : Module := m.setMem (fun s => { s with injDdrUe := insertU s.injDdrUe d })
def effInjDdrMac (d : Nat) (m : Module) : Module :=
  m.setMem (fun s => { s with injDdrMac := s.injDdrMac.filter (·.1 != d) ++ [(d, 2)] })

/-- Does a channel, or any GiB of a DDR5 channel, belong to a confidential partition? -/
def Module.chanConf (m : Module) (ch : Nat) : Bool :=
  if ch < 512 then (match hbmOwner m.recs ch with | some p => m.conf p | none => false)
  else (recsOf m.recs 0x0301).any (fun e => m.conf e.1 && (coRanges e.2).any (fun x => x.1 == ch - 512))

/-- The value of MEM_LAT for a channel and class. -/
def Module.latWord (m : Module) (ch cls : Nat) : Nat :=
  if m.chanConf ch then 0
  else SMap.get (fun _ => 0) m.mem.latClear (ch * 8 + cls) + 65536 * SMap.get (fun _ => 0) m.mem.latFrame (ch * 8 + cls)

/-- A read through MEM_LAT_RC returns the value and sets max_clear to 0 in the same access. -/
def effMemLatRcRead (die n cls : Nat) (m : Module) : Module :=
  let ch := chanNo die n
  let v := m.latWord ch cls
  let m := if m.chanConf ch then m
    else m.setMem (fun s => { s with latClear := SMap.set (fun _ => 0) s.latClear (ch * 8 + cls) 0 })
  m.emit (.response 0 (leBytes 4 v))

/-! ### Migration (R294 to R299) -/

/-- A space: tier, channel, first byte and size. -/
def overlaps (a n b k : Nat) : Bool := a < b + k && b < a + n

/-- Is GiB `i` to `i + n - 1` of DDR5 channel `c` bound: a device of its partition binds the channel, and the partition
keeps no other GiB there (R131)? -/
def ddrBound (r : Recs) (p c i n : Nat) : Bool :=
  (bindsOf r).any (fun e => bindDdr e.2 c && vdPart r e.1 == some p) &&
  !(match recOf r 0x0301 p with
    | some v => (coRanges v).any (fun x => x.1 == c && (x.2.1 < i || i + n < x.2.1 + x.2.2))
    | none => false)

/-- The source of a register set, when it meets R294: owner, local offset and size. -/
def Module.migSource (m : Module) (d i : Nat) : Option (Nat × Nat × Nat) :=
  let n := m.fld (MEM_MIG_SRC_channel d i)
  let f := m.fld (MEM_MIG_SRC_first_gib d i)
  let k := m.fld (MEM_MIG_SRC_gib_count d i)
  if m.fld (MEM_MIG_CTRL_tier d i) = 0 then
    if n < 128 && !m.mem.retiredCh.contains (chanNo d n) then
      (hbmOwner m.nextRecs (chanNo d n)).map (fun p => (p, chanOffset (chanNo d n) 0, hbmSize))
    else none
  else if 128 ≤ n && n ≤ 130 && 1 ≤ k && f + k ≤ m.chanSize (chanNo d n) / gibSize && !m.mem.retiredCh.contains (chanNo d n) then
    let c := d * 3 + (n - 128)
    match ddrOwner m.nextRecs c f with
    | some p => if (List.range k).all (fun j => ddrOwner m.nextRecs c (f + j) == some p) then
        some (p, chanOffset (512 + c) (f * gibSize), k * gibSize) else none
    | none => none
  else none

/-- The destination of a register set, when it meets R294 for a source of partition `p` at `src`, `size` bytes. -/
def Module.migDest (m : Module) (d i p src size : Nat) : Option Nat :=
  let g := m.fld (MEM_MIG_DST_channel d i)
  let f := m.fld (MEM_MIG_DST_first_gib d i)
  let free (off : Nat) : Bool := !overlaps src size off size &&
    m.mem.migs.all (fun e => e.1 == d * 2 + i || e.2.state == 0 || (!overlaps off size e.2.src e.2.size && !overlaps off size e.2.dst e.2.size))
  if m.fld (MEM_MIG_CTRL_tier d i) = 0 then
    if g < 512 && hbmOwner m.nextRecs g == some p && (hbmVd m.nextRecs g).isNone && !m.mem.clearing.contains (g, 0) &&
        !m.mem.retiredCh.contains g && free (chanOffset g 0) then some (chanOffset g 0) else none
  else
    let k := size / gibSize
    if g < 12 && f + k ≤ m.chanSize (512 + g) / gibSize && !m.mem.retiredCh.contains (512 + g) &&
        (List.range k).all (fun j => ddrOwner m.nextRecs g (f + j) == some p && !m.mem.clearing.contains (512 + g, f + j)) &&
        !ddrBound m.nextRecs p g f k && free (chanOffset (512 + g) (f * gibSize)) then some (chanOffset (512 + g) (f * gibSize)) else none

/-- State of a migration; 0 when none is held. -/
def Module.migState (m : Module) (d i : Nat) : Nat := match m.mem.migs.get? (d * 2 + i) with | some g => g.state | none => 0

/-- A write of MEM_MIG_CTRL.start. -/
def effMigStart (d i : Nat) (m : Module) : Module :=
  let st := m.migState d i
  if st = 3 then m.setMem (fun s => { s with migs := s.migs.mod (d * 2 + i) (fun g => { g with resume := true }) })
  else if st ≠ 0 then m
  else match m.migSource d i with
    | none => m.setFld (MEM_MIG_STATE_cause d i) 1
    | some (p, src, size) =>
      match m.migDest d i p src size with
      | none => m.setFld (MEM_MIG_STATE_cause d i) 2
      | some dst =>
        let g : Mig :=
          { ddr := chanOf src ≥ 512, src := src, dst := dst, size := size, bound := 0, slice := m.fld (MEM_MIG_SLICE_units d i) * 65536,
            state := 1, sliceDone := false, resume := false, release := false }
        (m.setFld (MEM_MIG_STATE_cause d i) 0).setMem (fun s => { s with migs := s.migs.put (d * 2 + i) g })

/-- A write of MEM_MIG_CTRL.release. -/
def effMigRelease (d i : Nat) (m : Module) : Module :=
  if m.migState d i = 4 then m.setMem (fun s => { s with migs := s.migs.mod (d * 2 + i) (fun g => { g with release := true }) }) else m

/-- A write of MEM_MIG_CTRL.cancel. -/
def effMigCancel (d i : Nat) (m : Module) : Module :=
  if m.migState d i = 1 then m.setMem (fun s => { s with migs := s.migs.del (d * 2 + i) }) else m

/-- The reads of a slice, in the order of the lines that meet anything: known lost lines, wrong tags, and the errors that
`errs` gives for a line; the first lost line ends them. -/
def Module.sliceReads (m : Module) (lo n : Nat) (errs : List (Nat × ReadErrs)) : Module × Option Nat :=
  let lines := lo :: (m.mem.uncorr ++ m.mem.badTag ++ errs.map (·.1)).filter (fun l => lo ≤ l && l < lo + n)
  let bases := (sortBy id (lines.map (fun l => alignDown l 256))).eraseDups
  bases.foldl (fun (acc : Module × Option Nat) b =>
    match acc.2 with
    | some _ => acc
    | none =>
      let e := match errs.find? (fun x => alignDown x.1 256 == b) with | some x => x.2 | none => ReadErrs.clean
      match acc.1.readNow b [0, 1, 2, 3] e errMEM_UE with
      | (m, []) => (m, none)
      | (m, l :: _) => (m, some l)) (m, none)

/-- The slice in progress has been read and written: its bytes go to the destination, or an uncorrectable line halts it.
`errs` lists lines of the slice and what their reads meet. -/
def effMigSliceDone (d i : Nat) (errs : List (Nat × ReadErrs)) (m : Module) : Module :=
  match m.mem.migs.get? (d * 2 + i) with
  | none => m
  | some g =>
    if g.state ≠ 2 || g.sliceDone || m.recalibrates (g.src + g.bound) || m.recalibrates (g.dst + g.bound) then m
    else
      let lo := g.src + g.bound
      let n := min g.slice (g.size - g.bound)
      match m.sliceReads lo n errs with
      | (m, some l) => (m.dataLost l 5 0xFF none).migHalt (d * 2 + i) l
      | (m, none) =>
        let cells := (m.mem.bytes.filter (fun c => lo ≤ c.1 && c.1 < lo + n)).map (fun c => (c.1 - g.src + g.dst, c.2))
        let goal := g.dst + g.bound
        let m := (m.setMem (fun s => { s with
          bytes := (s.bytes.takeWhile (fun c => c.1 < goal)) ++ cells ++ (s.bytes.dropWhile (fun c => c.1 < goal + n)),
          migs := s.migs.put (d * 2 + i) { g with sliceDone := true } })).overwritten goal n
        m.markWay (m.routeMem2 (dieOf g.src) (dieOf g.dst) (lo.testBit 8)) false

/-- A released source may hold a part of the object tables: the records that its writes sent on stand at the destination. -/
def Module.copyTables (m : Module) (g : Mig) : Module :=
  if m.tablesHeld then
    each (m.tableRecs.filter (fun e => g.src ≤ e.1 && e.1 < g.src + g.size)) m (fun m e =>
      m.setMem (fun s => { s with bytes := s.bytes.write (e.1 - g.src + g.dst) e.2 }))
  else m

/-- The edge: starts, boundaries, ends and releases. -/
def Module.migsAtEdge (m : Module) : Module :=
  each m.mem.migs m (fun m e =>
    let g := e.2
    let set (g : Mig) : Module := m.setMem (fun s => { s with migs := s.migs.put e.1 g })
    if g.state = 1 then set { g with state := 2, sliceDone := false }
    else if g.state = 2 then
      (if g.sliceDone then
        (let b := min g.size (g.bound + g.slice)
         set { g with bound := b, sliceDone := false, state := if b ≥ g.size then 4 else 2 })
       else m.count (MEM_MIG_STALL_count (e.1 / 2) (e.1 % 2)) 1)
    else if g.state = 3 then
      (if g.resume then (set { g with state := 2, resume := false, sliceDone := false }).setFld (MEM_MIG_STATE_cause (e.1 / 2) (e.1 % 2)) 0 else m)
    else if g.state = 4 && g.release then (m.copyTables g).setMem (fun s => { s with migs := s.migs.del e.1 })
    else m)

end Sys2Proof.Machine
end

