-- ==== Sys2Proof/Machine/Nvj.lean ====
section
/-!
DEFINITION. The flash (R468 to R485): journal records and their two programs, replay, firn compaction, firmware slots, and
the bring-in and taking offline of DDR5 channels.
-/
namespace Sys2Proof.Machine

/-! ### Records (R469 to R471) -/

/-- Bytes that a record with a payload of `l` bytes occupies. -/
def recSize (l : Nat) : Nat := 8 * ((12 + l + 7) / 8) + 8

def JRec.size (r : JRec) : Nat := recSize r.payload.length

def halfSize : Nat := 16 * 2 ^ 20
def pageSize : Nat := 256

/-- CRC-32C (R469, R475): reflected, polynomial 0x1EDC6F41, ones before and after (the family's parameters, log entry 87). -/
def crc32c (bs : List Byte) : Nat :=
  (bs.foldl (fun c (b : Byte) =>
    (List.range 8).foldl (fun c _ => if c % 2 = 1 then (c / 2) ^^^ 0x82F63B78 else c / 2) (c ^^^ b.toNat)) 0xFFFF_FFFF) ^^^ 0xFFFF_FFFF

/-- The bytes of a record up to its crc: type, length, sequence, payload, and zeros to an 8-byte boundary (R469). -/
def recBody (ty seq : Nat) (payload : List Byte) : List Byte :=
  let b := leBytes 2 ty ++ leBytes 2 payload.length ++ leBytes 8 seq ++ payload
  b ++ zeros (8 * ceilDiv b.length 8 - b.length)

/-- A record as it lies in the flash, with its crc and its commit word. -/
def JRec.bytes (r : JRec) : List Byte :=
  let b := recBody r.ty r.seq r.payload
  b ++ leBytes 4 (crc32c b) ++ leBytes 4 (if r.ok then 0 else 0xFFFF_FFFF)

/-- Does a record's span of the flash hold a committed record: its crc matches, and its commit word reads 0 (R470)? -/
def recCommittedBytes (bs : List Byte) : Bool :=
  let n := bs.length - 8
  leBytes 4 (crc32c (bs.take n)) == (bs.drop n).take 4 && allZero (bs.drop (n + 4))

/-- A superblock naming active half `h` and generation `g` (R474). -/
def superBytes (h g : Nat) : List Byte :=
  let b : List Byte := [0x59, 0x4E, 0x56, 0x4A, 1] ++ leBytes 1 h ++ zeros 2 ++ leBytes 8 g ++ zeros 44
  b ++ leBytes 4 (crc32c b)

/-- The active half and the generation that a superblock copy gives, when its magic, version and CRC are correct (R475). -/
def superOf (bs : List Byte) : Option (Nat × Nat) :=
  if bs.take 5 == [0x59, 0x4E, 0x56, 0x4A, 1] && leBytes 4 (crc32c (bs.take 60)) == (bs.drop 60).take 4
  then some (fieldOf bs 5 1, fieldOf bs 8 8) else none

/-- What superblock copy `k` gives, when it is valid. -/
def Nvj.sb (j : Nvj) (k : Nat) : Option (Nat × Nat) := superOf (j.sbs.getD k [])

/-- Bytes are programmed into superblock copy `k`, or, with none, it is erased. -/
def Nvj.setSb (j : Nvj) (k : Nat) (bs : List Byte) : Nvj :=
  { j with sbs := if k = 0 then [bs, j.sbs.getD 1 []] else [j.sbs.getD 0 [], bs] }

/-- The active half: that of the valid superblock copy with the higher generation (R475). -/
def Nvj.super (j : Nvj) : Option (Nat × Nat) :=
  match j.sb 0, j.sb 1 with
  | some a, some b => some (if b.2 > a.2 then b else a)
  | some a, none => some a
  | none, some b => some b
  | none, none => none

def Nvj.active (j : Nvj) : Nat := match j.super with | some s => s.1 | none => 0
def Nvj.gen (j : Nvj) : Nat := match j.super with | some s => s.2 | none => 0
def Nvj.half (j : Nvj) (h : Nat) : List JRec := j.halves.getD h []
def Nvj.recs (j : Nvj) : List JRec := j.half j.active
def Nvj.setHalf (j : Nvj) (h : Nat) (l : List JRec) : Nvj := { j with halves := (j.halves ++ [[], []]).take 2 |>.set h l }

/-- End of the last record of a half. -/
def endOf (l : List JRec) : Nat := match l.getLast? with | some r => r.off + r.size | none => 0

/-- Offset at which the next record of a half is written: at the end, or after an uncommitted record at the first page
boundary that is wholly erased (R471). -/
def nextOff (l : List JRec) : Nat :=
  match l.getLast? with
  | some r => if r.ok then r.off + r.size else (r.off / pageSize + r.pages) * pageSize
  | none => 0

/-- Pages that a record at an offset lies in. -/
def pagesOf (off len : Nat) : Nat := (off + recSize len - 1) / pageSize + 1 - off / pageSize

/-- Page programs of a record at an offset: the pages of its body, and the commit word (R470). -/
def programsOf (off len : Nat) : Nat := pagesOf off len + 1

/-- Pages that the programs of a record have reached, `prog` being those left and the failed read-backs of the one under
way. -/
def pagesReached (off len : Nat) (prog : Option (Nat × Nat)) : Nat :=
  match prog with
  | none => 0
  | some (left, bad) => min (pagesOf off len) (programsOf off len - left + (if bad = 0 then 0 else 1))

/-- Sequence of the next record of a half (R469). -/
def Nvj.nextSeq (j : Nvj) (h : Nat) : Nat :=
  match (j.half h).getLast? with
  | some r => r.seq + 1
  | none => match (j.half (1 - h)).getLast? with | some r => r.seq + 1 | none => 0

/-- The RESUME record that must come before any other: one after an uncommitted record, naming the first of several. -/
def Nvj.resume (j : Nvj) : Option JPend :=
  ((j.recs.reverse.takeWhile (fun r => !r.ok)).getLast?).map (fun r => { ty := jRESUME, payload := leBytes 8 r.off })

/-- Has the active half room for a payload, and for the RESUME record that must come first? -/
def Nvj.room (j : Nvj) (len : Nat) : Bool :=
  nextOff j.recs + recSize (max len (if j.resume.isSome then 8 else 0)) ≤ halfSize

/-- The record to be written next: a RESUME record that has room, else the oldest that waits. -/
def Nvj.front (j : Nvj) : Option JPend :=
  match j.queue with
  | [] => none
  | p :: _ => match j.resume with
    | some r => some (if j.room r.payload.length then r else p)
    | none => some p

/-! ### Replay (R472) -/

/-- The key under which a record replaces an earlier one. -/
def jKey (ty : Nat) (p : List Byte) : Nat :=
  if ty = jEPOCH_RESERVE then fieldOf p 0 2
  else if ty = jPROFILE_COMMIT || ty = jPROFILE_CLEAR || ty = jPROFILE_DATA then fieldOf p 0 1
  else if ty = jSLOT_STATE || ty = jDIMM then fieldOf p 0 1
  else if ty = jLCS_STEP then fieldOf p 1 1
  else 0

/-- Profile records close each other by profile. -/
def jClass (ty : Nat) : Nat := if ty = jPROFILE_CLEAR then jPROFILE_COMMIT else ty

/-- Is a record still part of the state that replay gives, `later` being the records after it? -/
def jLive (r : JRec) (later : List JRec) : Bool :=
  let again := later.any (fun x => x.ok && jClass x.ty == jClass r.ty && jKey x.ty x.payload == jKey r.ty r.payload)
  if !r.ok || r.ty = jRESUME then false
  else if r.ty = jMORAINE_ADD then
    !later.any (fun x => x.ok && x.ty == jMORAINE_REMOVE && fieldOf x.payload 0 1 == fieldOf r.payload 0 1 && fieldOf x.payload 2 2 == fieldOf r.payload 2 2)
  else if r.ty = jMORAINE_REMOVE then false
  else if r.ty = jLCS_STEP then !again && fieldOf r.payload 3 1 != 2
  else if r.ty = jPROFILE_DATA then
    -- data of the generation that the last later commit names, or not yet closed by any
    (match (later.filter (fun x => x.ok && jClass x.ty == jPROFILE_COMMIT && fieldOf x.payload 0 1 == fieldOf r.payload 0 1)).getLast? with
     | some c => c.ty == jPROFILE_COMMIT && fieldOf c.payload 1 1 == fieldOf r.payload 1 1
     | none => true)
  else if r.ty = jPROFILE_CLEAR then false
  else !again

/-- The records whose replay gives the same state, in order. -/
def jSnapshot : List JRec → List JRec
  | [] => []
  | r :: rest => if jLive r rest then r :: jSnapshot rest else jSnapshot rest

/-- The records that a scan reaches, `bad` being the offset of an uncommitted record that it has met: it goes on only from a
committed RESUME record that names it, at one of the 17 page boundaries that follow its start (R471). -/
def jScanFrom : Option Nat → List JRec → List JRec
  | _, [] => []
  | none, r :: rest => if r.ok then r :: jScanFrom none rest else jScanFrom (some r.off) rest
  | some o, r :: rest =>
    if !r.ok then jScanFrom (some o) rest
    else if r.ty == jRESUME && fieldOf r.payload 0 8 == o && r.off / pageSize ≤ o / pageSize + 17 then r :: jScanFrom none rest
    else []

def jScan (l : List JRec) : List JRec := jScanFrom none l

/-- Did a scan pass a RESUME record? -/
def jResumed (l : List JRec) : Bool := (jScan l).any (fun r => r.ty == jRESUME)

/-! ### Writing and committing (R470, R476) -/

/-- Is the write of records held: step 4 of a compaction with fewer than 16 pages left to copy (R474)? -/
def Nvj.held (j : Nvj) : Bool :=
  j.compact == 4 && ((j.recs.drop j.copied).foldl (fun n r => n + r.size) 0) < 16 * pageSize

/-- May no program begin: an erase that a reset suspended is not yet complete (R456)? -/
def Nvj.barred (j : Nvj) : Bool := j.resuming != 0

/-- A page program of the record being written ends and is read back; `ok` says that it read back. One that did not is
programmed once more (R476). A compaction holds new records, not the one whose programs have begun. -/
def Nvj.programmed (j : Nvj) (ok : Bool) : Nvj :=
  if j.barred || (j.held && j.prog.isNone) then j
  else match j.front with
    | none => j
    | some p =>
      if !j.room p.payload.length then j
      else
        let (left, bad) := j.prog.getD (programsOf (nextOff j.recs) p.payload.length, 0)
        { j with prog := some (if ok then left - 1 else left, if ok then 0 else bad + 1) }

/-- What became of the record being written. -/
inductive JEnd where
  | committed | failed | notYet
  deriving DecidableEq, Repr

def Nvj.ending (j : Nvj) : JEnd :=
  match j.front with
  | none => .notYet
  | some p =>
    if !j.room p.payload.length then .failed
    else match j.prog with
      | some (left, bad) => if bad ≥ 2 then .failed else if left = 0 then .committed else .notYet
      | none => .notYet

/-- Put the record being written into the active half, committed or not, and take it off the queue. -/
def Nvj.put (j : Nvj) (ok : Bool) : Nvj :=
  match j.front with
  | none => j
  | some p =>
    let h := j.active
    let off := nextOff j.recs
    let r : JRec := { ty := p.ty, payload := p.payload, seq := j.nextSeq h, off := off, pages := pagesReached off p.payload.length j.prog, ok := ok }
    let j := if j.room p.payload.length && (ok || j.prog.isSome) then j.setHalf h (j.recs ++ [r]) else j
    { j with queue := if p.ty = jRESUME then j.queue else j.queue.drop 1, prog := none }

/-- A compaction begins once 12 MiB are used (R474). -/
def Nvj.compactStart (j : Nvj) : Nvj :=
  if j.compact = 0 && 12 * 2 ^ 20 ≤ endOf j.recs then { j with compact := 1, mark := j.recs.length, copied := 0 } else j

/-! ### Compaction (R474) -/

/-- Append a record to a half as a committed one. -/
def Nvj.copyTo (j : Nvj) (h : Nat) (r : JRec) : Nvj :=
  let l := j.half h
  let off := nextOff l
  j.setHalf h (l ++ [{ r with seq := j.nextSeq h, off := off, pages := pagesOf off r.payload.length, ok := true }])

/-- One program of a compaction ends: a record of the snapshot, a record copied, or a superblock copy. -/
def Nvj.copyStep (j : Nvj) : Nvj :=
  let other := 1 - j.active
  if j.barred then j
  else if j.compact = 2 then
    let snap := jSnapshot (j.recs.take j.mark)
    match snap[j.copied]? with
    | some r => { j.copyTo other r with copied := j.copied + 1 }
    | none => { j with compact := 3, copied := j.mark }
  else if j.compact = 4 then
    match j.recs[j.copied]? with
    | some r => { (if r.ok then j.copyTo other r else j) with copied := j.copied + 1 }
    | none => if j.prog.isSome then j else { j.setSb 0 (superBytes other (j.gen + 1)) with compact := 5 }
  else if j.compact = 6 then { j.setSb 1 (superBytes j.active j.gen) with compact := 0, suspended := false }
  else j

/-- What the erase of a step of a compaction erases: the other half, copy 0 or copy 1. -/
def Nvj.cleaned (j : Nvj) (step : Nat) : Nvj :=
  if step = 1 then j.setHalf (1 - j.active) [] else if step = 3 then j.setSb 0 [] else if step = 5 then j.setSb 1 [] else j

/-- An erase of a compaction ends, the one that a reset suspended first; the compaction goes on if it stands at that step. -/
def Nvj.erased (j : Nvj) : Nvj :=
  let step := if j.resuming = 0 then j.compact else j.resuming
  let j := { j.cleaned step with resuming := 0 }
  if j.compact ≠ step then j
  else if step = 1 then { j with compact := 2, copied := 0 }
  else if step = 3 then { j with compact := 4 }
  else if step = 5 then { j with compact := 6 }
  else j

/-- Registers that show the journal (R490). -/
def Module.nvjShow (m : Module) : Module :=
  let j := m.nvj
  let m := (m.setFld NVJ_STATUS_active_half j.active).setFld NVJ_STATUS_compacting (b2n (j.compact != 0))
  let m := m.setFld NVJ_STATUS_erase_suspended (b2n j.suspended)
  let m := (m.setReg NVJ_USED (ceilDiv (endOf j.recs) 1024)).setReg NVJ_GEN (j.gen % 2 ^ 32)
  match (j.recs.filter (·.ok)).getLast? with
  | some r => m.setReg64 NVJ_SEQ_LO NVJ_SEQ_HI r.seq
  | none => m

/-- Are flash operations allowed: none begins in a hold-off or a reset (R455)? -/
def Module.flashOn (m : Module) : Bool := m.rst.hold.isNone && !m.rst.inReset

/-- May an erase or a program of a slot or a superblock begin: not while an erase that a reset suspended is incomplete
(R456)? -/
def Module.flashFree (m : Module) : Bool := m.flashOn && !m.nvj.barred

/-- May a page program end: none is under way in reset, and in a hold-off only the one it waits for? -/
def Module.programOn (m : Module) : Bool := !m.rst.inReset && (match m.rst.hold with | some (_, w) => w ≥ 2 | none => true)

/-- A flash page program ends; `copy` says that it was one of a compaction. A hold-off that waits for it goes on (R455). -/
def effFlashProgramDone (copy ok : Bool) (m : Module) : Module :=
  if !m.programOn then m
  else
    let m : Module := { m with rst := { m.rst with hold := m.rst.hold.map (fun h => (h.1, if h.2 = 2 then 0 else h.2)) } }
    if copy then
      let last := m.nvj.compact = 6
      if !ok then m
      else
        let m := m.setNvj (fun j => j.copyStep)
        (if last then (m.count NVJ_COMPACT_value 1).raise NVJ_EVENT_compaction_done else m).nvjShow
    else (m.setNvj (fun j => (j.programmed ok).suspend)).nvjShow

/-- A flash erase ends. One that a reset suspended goes on in step 3 of the release order (R456). -/
def effFlashEraseDone (m : Module) : Module :=
  if m.flashOn && (!m.nvj.barred || m.rst.stepNo ≥ 3) then (m.setNvj (fun j => j.erased.suspend)).nvjShow else m

/-! ### Firmware slots (R477, R478) -/

/-- Base of a part's slot in the flash, and its size (R468). -/
def fwBase (part slot : Nat) : Nat :=
  match part with
  | 0 => 0x0010_0000 + slot * 0x0040_0000
  | 1 => 0x0090_0000 + slot * 0x0020_0000
  | 2 => 0x00D0_0000 + slot * 0x0040_0000
  | _ => 0x0150_0000 + slot * 0x0020_0000

def fwSize (part : Nat) : Nat := if part = 0 ∨ part = 2 then 0x0040_0000 else 0x0020_0000

/-- An erased byte (R468). -/
def erasedByte (_ : Nat) : Byte := 0xFF

/-- A byte of a journal half: that of the record that lies there, in the pages that its programs reached. -/
def Nvj.halfByte (j : Nvj) (h rel : Nat) : Byte :=
  match (j.half h).find? (fun r => r.off ≤ rel && rel < r.off + r.size && rel / pageSize < r.off / pageSize + r.pages) with
  | some r => r.bytes.getD (rel - r.off) 0xFF
  | none => 0xFF

/-- The byte of the flash at an offset (R468): a superblock copy, a journal half, a firmware slot, or erased. -/
def Nvj.flashByte (j : Nvj) (a : Nat) : Byte :=
  if 0x0200_0000 ≤ a then (if a < 0x0400_0000 then j.halfByte ((a - 0x0200_0000) / halfSize) (a % halfSize) else 0xFF)
  else if 0x0001_0000 ≤ a && a < 0x0001_2000 then (j.sbs.getD ((a - 0x0001_0000) / 0x1000) []).getD (a % 0x1000) 0xFF
  else SMap.get erasedByte j.slots a

/-- Bytes of a slot. -/
def Module.fwBytes (m : Module) (part slot off n : Nat) : List Byte :=
  (List.range n).map (fun i => m.nvj.flashByte (fwBase part slot + off + i))

/-- Does a slot pass its check: its header, and the signature verdict `sig` over it (R423, R477)? -/
def Module.fwOk (m : Module) (part slot : Nat) (sig : Bool) : Bool :=
  let h := m.fwBytes part slot 0 64
  sig && h.take 4 == [0x59, 0x46, 0x57, 0x49] && fieldOf h 4 1 == 1 && fieldOf h 5 1 == part && allZero (h.drop 12) &&
  64 + 8 * ceilDiv (fieldOf h 8 4) 8 + 5824 ≤ fwSize part

/-- Check a slot and show the result. -/
def Module.fwCheck (m : Module) (part slot : Nat) (sig : Bool) : Module × Bool :=
  let ok := m.fwOk part slot sig
  let ver := fieldOf (m.fwBytes part slot 6 2) 0 2
  let m := m.setFld (if slot = 0 then NVJ_FW_STATE_a_valid part else NVJ_FW_STATE_b_valid part) (b2n ok)
  (m.setFld (if slot = 0 then NVJ_FW_VER_ver_a part else NVJ_FW_VER_ver_b part) (if ok then ver else 0), ok)

def Module.fwValid (m : Module) (part slot : Nat) : Bool := m.flag (if slot = 0 then NVJ_FW_STATE_a_valid part else NVJ_FW_STATE_b_valid part)

/-- The record of a part's slot in use. -/
def slotState (part slot trial : Nat) : List Byte := leBytes 1 part ++ leBytes 1 slot ++ leBytes 1 trial ++ zeros 1

/-- A part starts from its slot in use: its version runs, and a slot on trial must report ready. -/
def Module.fwStart (m : Module) (part : Nat) : Module :=
  let slot := m.fld (NVJ_FW_STATE_in_use part)
  let ver := m.fld (if slot = 0 then NVJ_FW_VER_ver_a part else NVJ_FW_VER_ver_b part)
  let m := m.setFld (NVJ_FW_STATE_running part) ver
  if m.flag (NVJ_FW_STATE_trial part) then m.setNvj (fun j => { j with trials := insertU j.trials part }) else m

/-- A SLOT_STATE record committed: the slot is in use, and the management firmware switches at once (R480). -/
def Module.slotCommitted (m : Module) (p : List Byte) : Module :=
  let part := fieldOf p 0 1
  let m := (m.setFld (NVJ_FW_STATE_in_use part) (fieldOf p 1 1)).setFld (NVJ_FW_STATE_trial part) (fieldOf p 2 1)
  if part = 0 && fieldOf p 2 1 = 1 then m.fwStart 0 else m

/-- A part started from a trial slot reports ready. -/
def effFwReady (part : Nat) (m : Module) : Module :=
  if m.nvj.trials.contains part then
    (m.setNvj (fun j => { j with trials := j.trials.filter (· != part) })).jWrite jSLOT_STATE (slotState part (m.fld (NVJ_FW_STATE_in_use part)) 0)
  else m

/-- Program bytes into a slot: programming only turns bits from 1 to 0 (R468). -/
def Module.fwWrite (m : Module) (part slot off : Nat) (bs : List Byte) : Module :=
  m.setNvj (fun j => { j with slots := bs.zipIdx.foldl (fun s b =>
    let a := fwBase part slot + off + b.2
    SMap.set erasedByte s a (SMap.get erasedByte s a &&& b.1)) j.slots })

/-- A slot is erased before a whole image is written into it. -/
def Module.fwErase (m : Module) (part slot : Nat) : Module :=
  m.setNvj (fun j => { j with slots := j.slots.filter (fun e => !(fwBase part slot ≤ e.1 && e.1 < fwBase part slot + fwSize part)) })

/-! ### DDR5 channels (R482 to R485) -/

def Module.modDdr (m : Module) (c : Nat) (f : DdrCh → DdrCh) : Module := m.setMem (fun s => { s with ddr := s.ddr.mod c f })
def Module.ddrState (m : Module) (c : Nat) : DdrState := match m.mem.ddr.get? c with | some d => d.state | none => .absent

/-- The request under way ends: status 2 done or 3 refused, with a code. -/
def Module.ddrEnd (m : Module) (status code : Nat) : Module :=
  ((m.setFld NVJ_DDR_STATUS_status status).setFld NVJ_DDR_STATUS_code code).raise NVJ_EVENT_ddr_done

/-- DPWR_EN of a channel. -/
def Module.dpwr (m : Module) (c : Nat) (on : Bool) : Module :=
  let m := m.modDdr c (fun d => { d with powered := on })
  let m := { m with pins := { m.pins with dpwr := if on then insertU m.pins.dpwr c else m.pins.dpwr.filter (· != c) } }
  m.emit (.pin (100 + c) (b2n on))

/-- The channel and operation of a write of NVJ_DDR_CTRL (R490). -/
def Module.ddrSelect (m : Module) (c op : Nat) : Module := (m.setFld NVJ_DDR_CTRL_channel (c % 16)).setFld NVJ_DDR_CTRL_op op

/-- Request OFFLINE for a channel. -/
def effDdrOffline (c : Nat) (m : Module) : Module :=
  let m := m.ddrSelect c 0
  if m.fld NVJ_DDR_STATUS_status = 1 || c ≥ 12 then m
  else
    let st := m.ddrState c
    if st != .online && st != .retired then m.ddrEnd 3 1
    else if (recsOf m.recs 0x0301).any (fun e => (coRanges e.2).any (fun x => x.1 == c)) then m.ddrEnd 3 2
    else if m.mem.migs.any (fun e => e.2.state ≥ 1 && (chanOf e.2.src == 512 + c || chanOf e.2.dst == 512 + c)) then m.ddrEnd 3 3
    else ((m.setFld NVJ_DDR_STATUS_status 1).setFld NVJ_DDR_STATUS_code 0).setNvj (fun j => { j with offline := j.offline ++ [c] })

/-- The edge: accepted OFFLINE requests. -/
def Module.ddrEdge (m : Module) : Module :=
  let l := m.nvj.offline
  each l (m.setNvj (fun j => { j with offline := [] })) (fun m c =>
    ((m.modDdr c (fun d => { d with state := if d.state == .online then .offline else d.state })).dpwr c false).ddrEnd 2 0)

/-- Request ONLINE for a channel. -/
def effDdrOnline (c : Nat) (m : Module) : Module :=
  let m := m.ddrSelect c 1
  if m.fld NVJ_DDR_STATUS_status = 1 || c ≥ 12 then m
  else
    let d := m.mem.ddr.get? c
    let ok := match d with
      | some d => d.state == .absent || d.state == .offline || (d.state == .retired && !d.powered)
      | none => true
    if !ok || !m.keyAlive 2 then m.ddrEnd 3 1
    else
      let fresh : DdrCh := { state := .absent, speed := 0, gib := 0, dimm := 0, x8 := false, serial := none, powered := false }
      let m := m.setMem (fun s => { s with ddr := s.ddr.put c (d.getD fresh) })
      let m := m.dpwr c true
      let job : DdrJob := { ch := c, step := 0, tries := 0, serial := 0 }
      ((m.setFld NVJ_DDR_STATUS_status 1).setFld NVJ_DDR_STATUS_code 0).setNvj (fun j => { j with ddr := some job })

/-- Does the module support a DIMM (R126): its capacity, speed code, and x4 devices? -/
def dimmOk (gib speed : Nat) (x8 : Bool) : Bool := ([32, 64, 96, 128, 192, 256] : List Nat).contains gib && speed ≤ 3 && !x8

/-- The request under way is refused, and the DIMM's power dropped. -/
def Module.ddrRefuse (m : Module) (c code : Nat) : Module := ((m.dpwr c false).setNvj (fun j => { j with ddr := none })).ddrEnd 3 code

/-- Training of a channel begins, with the memory training firmware in use. -/
def Module.ddrTrain (m : Module) (c : Nat) : Module :=
  let m := (m.modDdr c (fun d => { d with state := .training })).fwStart 3
  m.setNvj (fun j => { j with ddr := j.ddr.map (fun x => { x with step := 2 }) })

/-- After 20 ms the SPD is read: DIMM capacity in GiB (0 for none), speed code, x8 devices, serial. -/
def effDimmPowerWait (gib speed : Nat) (x8 : Bool) (serial : Nat) (m : Module) : Module :=
  match m.nvj.ddr with
  | none => m
  | some j =>
    if j.step ≠ 0 then m
    else if !dimmOk gib speed x8 then
      -- a DIMM that is not supported, or none: the channel reports ABSENT (R126)
      (m.modDdr j.ch (fun d => { d with
        state := if d.state == .retired then .retired else .absent, dimm := 0, speed := 0, x8 := x8, gib := 0 })).ddrRefuse j.ch 4
    else
      let old := (m.mem.ddr.get? j.ch).bind (·.serial)
      if m.ddrState j.ch == .retired && old == some serial then m.ddrRefuse j.ch 6
      else
        let m := m.setNvj (fun x => { x with ddr := some { j with serial := serial } })
        let retired := m.ddrState j.ch == .retired
        let m := m.modDdr j.ch (fun d => { d with dimm := gib, speed := speed, x8 := x8, gib := gib * 31 / 32 })
        if retired then
          (m.setNvj (fun x => { x with ddr := x.ddr.map (fun y => { y with step := 1 }) })).jWrite jMORAINE_REMOVE
            (leBytes 1 4 ++ zeros 1 ++ leBytes 2 j.ch)
        else m.ddrTrain j.ch

/-- Training of the channel ends. -/
def effDdrTrainingDone (ok : Bool) (m : Module) : Module :=
  match m.nvj.ddr with
  | none => m
  | some j =>
    if j.step ≠ 2 then m
    else if ok then
      (m.modDdr j.ch (fun d => { d with state := .init })).setNvj (fun x => { x with ddr := some { j with step := 3 } })
    else if j.tries = 0 then m.setNvj (fun x => { x with ddr := some { j with tries := 1 } })
    else (m.modDdr j.ch (fun d => { d with state := .offline })).ddrRefuse j.ch 5

/-- Zeroing ends: the channel is ONLINE, and its DIMM record is written. -/
def effDdrInitDone (m : Module) : Module :=
  match m.nvj.ddr with
  | none => m
  | some j =>
    if j.step ≠ 3 then m
    else
      let m := (m.zeroRange (chanOffset (512 + j.ch) 0) ddrStride).modDdr j.ch (fun d => { d with state := .online })
      (m.setNvj (fun x => { x with ddr := some { j with step := 4 } })).jWrite jDIMM
        (leBytes 1 j.ch ++ zeros 7 ++ leBytes 4 j.serial ++ zeros 4)

/-- The DIMM record is committed, or could not be. -/
def Module.dimmCommitted (m : Module) (p : List Byte) : Module :=
  let c := fieldOf p 0 1
  let m := m.modDdr c (fun d => { d with serial := some (fieldOf p 8 4) })
  match m.nvj.ddr with
  | some j => if j.ch = c && j.step = 4 then (m.setNvj (fun x => { x with ddr := none })).ddrEnd 2 0 else m
  | none => m

/-- A record of the bring-in under way could not be committed: without its MORAINE_REMOVE the channel does not train and the
request is refused; without its DIMM record the channel is ONLINE and the request ends (log entry 28). -/
def Module.ddrRecordFailed (m : Module) : Module :=
  match m.nvj.ddr with
  | some j =>
    if j.step = 1 then m.ddrRefuse j.ch 1
    else if j.step = 4 then (m.setNvj (fun x => { x with ddr := none })).ddrEnd 2 0
    else m
  | none => m

/-- A MORAINE_REMOVE is committed. The one that a retrain wrote takes the channel's entry at once, before the training (R484);
one that RAS_MORAINE_CTRL wrote takes effect at the next edge (R389). -/
def Module.removeCommitted (m : Module) (p : List Byte) : Module :=
  let ut := fieldOf p 0 1
  let unit := fieldOf p 2 2
  let atEdge (m : Module) : Module := m.setRas (fun r => { r with remove := r.remove ++ [(ut, unit)] })
  match m.nvj.ddr with
  | some j =>
    if j.step = 1 && ut = 4 && unit = j.ch then
      let m := m.setRas (fun r => { r with moraine := r.moraine.filter (fun e => !(e.unitType == 4 && e.unit == unit)) })
      let m := m.setRas (fun r => { r with hist := r.hist.filter (fun h => !([6, 7, 8].contains (h.1 / 2 ^ 16) && h.1 % 2 ^ 16 == unit)) })
      let m := m.setMem (fun s => { s with retiredCh := s.retiredCh.filter (· != 512 + unit) })
      m.ddrTrain j.ch
    else atEdge m
  | none => atEdge m

end Sys2Proof.Machine
end

