-- ==== Sys2Proof/Machine/Power.lean ====
section
/-!
DEFINITION. The power controller (R397 to R418): estimates and duty, caps and the excess bucket, calibration, clamps, the
order in which work gives way, operating points, fog and temperature. Commands carry the activity of each microsecond and
what the module measures.
-/
namespace Sys2Proof.Machine

/-! ### Rails (R397, R399) -/

/-- Limit and clamp of a rail under a composition. -/
def railOf (recs : Recs) (r : Nat) : Nat × Nat :=
  match recOf recs 0x0901 r with
  | some v => (fieldOf v 8 2, fieldOf v 10 2)
  | none => railDefault r

/-- Blocks in fixed-clock mode (R403). -/
def fixedBlocks (recs : Recs) : List Nat :=
  match recOf recs 0x0903 0 with | some v => bmapList v 8 64 | none => []

/-- Fog floor and ramp percentages (R413). -/
def fogOf (recs : Recs) : Nat × Nat :=
  match recOf recs 0x0902 0 with | some v => (fieldOf v 8 1, fieldOf v 9 1) | none => (80, 5)

/-- Show the power records of the composition in force. A fixed block takes its point at the edge (R12, R401). -/
def Module.powerRecs (m : Module) : Module :=
  let m := (List.range 0x28).foldl (fun m r => let (l, c) := railOf m.recs r; m.setReg (PWR_RAIL_LIMIT r) (l + 65536 * c)) m
  let fx := fixedBlocks m.recs
  let m := (List.range 64).foldl (fun m b => m.setFld (PWR_BLOCK_fixed b) (b2n (fx.contains b))) m
  (List.range 8).foldl (fun m d => m.setFld (PWR_DIE_fixed d) (b2n (fx.any (fun b => b / 8 == d)))) m

/-! ### Ladder and alert (R412, R416, R418) -/

/-- ALERT_N is driven low or released (R495). -/
def Module.alertPin (m : Module) (on : Bool) : Module :=
  if m.pins.alert == on then m else ({ m with pins := { m.pins with alert := on } }).emit (.pin 2 (b2n (!on)))

/-- Set PWR_STATUS.ladder and alert from the dies, and ALERT_N with it. -/
def Module.ladder (m : Module) : Module :=
  let dies := List.range 8
  let v := if dies.any (fun d => m.flag (PWR_DIE_unreachable d)) then 4
    else if dies.any (fun d => m.flag (PWR_DIE_be_suspended d)) then 3
    else if dies.any (fun d => m.fld (PWR_DIE_duty d) < 64) then 2
    else if (List.range 64).any (fun b => m.fld (PWR_BLOCK_point b) < 5) then 1 else 0
  let hot := (List.range 14).any (fun d => m.fld (PWR_THERM_warn_c) ≤ m.fld (PWR_TEMP_temp d))
  ((m.setFld PWR_STATUS_ladder v).setFld PWR_STATUS_alert (b2n (v == 4 || hot))).alertPin (v == 4 || hot)

/-- Is a die at its lowest point: every block that is not fixed at point 0, and its voltage there too, or where a fixed block holds
it (R403)? -/
def Module.lowest (m : Module) (d : Nat) : Bool :=
  !m.pwr.falling.contains d && (List.range 8).all (fun i => m.flag (PWR_BLOCK_fixed (d * 8 + i)) || m.fld (PWR_BLOCK_point (d * 8 + i)) == 0)

/-- Highest point among the blocks of a die. -/
def Module.topPoint (m : Module) (d : Nat) : Nat := ((List.range 8).map (fun i => m.fld (PWR_BLOCK_point (d * 8 + i)))).foldl max 0

/-- Does a BE tile run on a die? -/
def Module.beRuns (m : Module) (d : Nat) : Bool :=
  m.cores.any (fun e => e.1 / 128 == d && (match e.2.run with | some r => r.tile.be | none => false))

/-! ### Caps and the bucket (R410, R411) -/

/-- The sustained cap of the sources in force. -/
def Module.sustainedCap (m : Module) : Nat :=
  let v := m.fld PWR_INPUT_volts
  let k := min 5 (6 - m.rst.failed.length)
  min (min m.pwr.swIn m.pwr.mgmtIn) (min (if v = 0 then 5000 else 125 * v / 100) (1000 * k))

/-- The peak cap of the sources in force. -/
def Module.peakCap (m : Module) : Nat :=
  let v := m.fld PWR_INPUT_volts
  let k := min 5 (6 - m.rst.failed.length)
  min m.pwr.peakIn (min (if v = 0 then 6500 else 1625 * v / 1000) (1300 * k))

/-- Bring the caps into force; a lower sustained cap empties the bucket, whose depth follows the caps. -/
def Module.capsInForce (m : Module) : Module :=
  let old := m.fld PWR_CAP_EFF_sustained
  let s := m.sustainedCap
  let p := m.peakCap
  let m := (m.setFld PWR_CAP_EFF_sustained s).setFld PWR_CAP_EFF_peak p
  let b := if s < old then 0 else min m.pwr.bucket ((p - s) * 1000)
  (m.setPwr (fun x => { x with bucket := b })).setFld PWR_BUCKET_mj (b / 1000)

/-- A write of PWR_CAP. -/
def effPwrCap (w : Nat) (m : Module) : Module := if 2000 ≤ w && w ≤ 5000 then m.setReg PWR_CAP w else m

/-- A write of PWR_PEAK. -/
def effPwrPeak (w : Nat) (m : Module) : Module := if m.fld PWR_CAP_watts ≤ w && w ≤ 6500 then m.setReg PWR_PEAK w else m

/-- 2 µs after a write the caps written are in force. -/
def effCapInForce (m : Module) : Module :=
  let m := m.setPwr (fun x => { x with swIn := m.fld PWR_CAP_watts, peakIn := m.fld PWR_PEAK_watts, mgmtIn := x.mgmtCap })
  m.capsInForce

/-! ### Targets (R408, R416) -/

/-- The target of a rail in units of 0.1 A: its limit less the guard, and for the CORE rail of a die that stays hot at its
lowest point less 5% of the limit for each frame. -/
def Module.railTarget (m : Module) (r : Nat) : Nat :=
  let limit := 10 * (railOf m.recs r).1
  let cool := if r < 8 then SMap.get zeroD m.pwr.derate r * limit / 20 else 0
  limit * (100 - m.fld PWR_GUARD_percent) / 100 - cool

/-- The target of the module in W: the peak cap while the bucket holds energy, the sustained cap while it is empty, less the
guard (R408, R411). -/
def Module.capTarget (m : Module) : Nat :=
  (if m.pwr.bucket = 0 then m.fld PWR_CAP_EFF_sustained else m.fld PWR_CAP_EFF_peak) * (100 - m.fld PWR_GUARD_percent) / 100

/-- Note the dies, and the module as 8, whose estimate lies above 90% of its target. -/
def Module.noteTight (m : Module) (est : List (Nat × Nat)) (watts : Nat) : Module :=
  let dies := (est.filter (fun e => e.1 < 16 && 10 * e.2 > 9 * m.railTarget e.1)).map (fun e => e.1 % 8)
  let all := if 10 * watts > 9 * m.capTarget then 8 :: dies else dies
  m.setPwr (fun x => { x with tight := all.foldl insertU x.tight })

/-! ### The estimate of each microsecond (R404 to R413) -/

/-- What the work of a microsecond asks of each rail, in units of 0.1 A: leakage and what gating does not touch, and what issue
draws at full duty (R404). -/
def Module.demands (m : Module) (x : PowerSample) : List (Nat × Nat) :=
  (List.range 40).map (fun r => match x.rails.find? (fun e => e.rail == r) with
    | some e => (m.leakOf r + m.currentOf r e.rest, m.currentOf r e.load)
    | none => (m.leakOf r, 0))

/-- Current of a rail's work under duty `k`. Only CORE and SRAM rails follow the duty, and a clamp leaves their die none. -/
def Module.workAt (m : Module) (w : List (Nat × Nat)) (r k : Nat) : Nat :=
  let e := w.getD r (0, 0)
  if r ≥ 16 then e.1 + e.2 else e.1 + e.2 * (if m.dieClamped (r % 8) then 0 else k) / 64

/-- Power in W that the rails draw. -/
def Module.railsW (m : Module) (cur : Nat → Nat) : Nat := ((List.range 40).map (fun r => cur r * m.railMv r)).sum / 10000

/-- Input power in W: the rails' power divided by the efficiency (R404). -/
def Module.inputW (m : Module) (cur : Nat → Nat) : Nat :=
  let p := m.railsW cur
  p * 1000 / max 1 (Config.efficiency p)

/-- A rail's estimate of the microsecond that ended: window value, mean and peak. -/
def Module.railEst (m : Module) (r : Nat) : Module :=
  let est := SMap.get zeroD m.pwr.next r
  let win := (SMap.get zeroD m.pwr.last r + est) / 2
  let m := m.setFld (PWR_RAIL_EST_now r) win
  m.setPwr (fun x => { x with
    calib := (let c := (x.calib.get? r).getD (0, 0); x.calib.put r (c.1 + est, c.2 + 1)),
    last := SMap.set zeroD x.last r est, sum := SMap.set zeroD x.sum r (SMap.get zeroD x.sum r + est),
    peak := SMap.set zeroD x.peak r (max win (SMap.get zeroD x.peak r)) })

/-- The most that the work asked for in the frame, rail by rail and of the module (R401). -/
def Module.noteNeed (m : Module) (w : List (Nat × Nat)) : Module :=
  let eff := max 1 (Config.efficiency (m.railsW (fun r => m.workAt w r 64)))
  let watts (f : Nat → Nat) : Nat := m.railsW f * 1000 / eff
  let dieLoad (d : Nat) : Nat := watts (fun r => if r < 16 && r % 8 == d then (w.getD r (0, 0)).2 else 0)
  let rest := watts (fun r => if r < 16 then (w.getD r (0, 0)).1 else m.workAt w r 64)
  let now := (rest, (List.range 8).map (fun d => (d, dieLoad d)))
  let total (n : Nat × List (Nat × Nat)) : Nat := n.2.foldl (fun a e => a + e.2) n.1
  m.setPwr (fun x => { x with
    need := (List.range 16).foldl (fun t r =>
      let e := w.getD r (0, 0)
      let had := (t.get? r).getD (0, 0)
      if had.1 + had.2 ≤ e.1 + e.2 then t.put r e else t) x.need,
    wattsNeed := if total x.wattsNeed ≤ total now then now else x.wattsNeed })

/-- Do the settings of R402 hold: no rail limit below its default, the cap at 5,000 W or above, the input in range and the
coolant as it asks? Neither the rail limits nor the cap gate issue then, and every block runs at point 5 or above. -/
def Module.assured (m : Module) : Bool :=
  (List.range 16).all (fun r => (railDefault r).1 ≤ (railOf m.recs r).1) && m.fld PWR_CAP_EFF_sustained ≥ 5000 && m.rst.inputOk &&
  (m.fld PWR_INPUT_volts == 0 || (4000 ≤ m.fld PWR_INPUT_volts && m.fld PWR_INPUT_volts ≤ 6000)) && m.pwr.cool

/-- The largest number up to `n` that passes a test. -/
def largestUpTo (n : Nat) (ok : Nat → Bool) : Nat := ((List.range (n + 1)).filter ok).foldl max 0

/-- The duty that rails of a die allow: their predicted window values stay at or below their targets (R408). -/
def Module.railsDuty (m : Module) (w : List (Nat × Nat)) (rails : List Nat) : Nat :=
  largestUpTo 64 (fun k => rails.all (fun r => (SMap.get zeroD m.pwr.last r + m.workAt w r k) / 2 ≤ m.railTarget r))

def Module.railDuty (m : Module) (w : List (Nat × Nat)) (d : Nat) : Nat := m.railsDuty w [d, 8 + d]

/-- The duty that the cap allows, the same on every die unless its own rails call for less. -/
def Module.capDuty (m : Module) (w : List (Nat × Nat)) : Nat :=
  largestUpTo 64 (fun k => m.inputW (fun r => m.workAt w r (min k (m.railDuty w (r % 8)))) ≤ m.capTarget)

/-- The duty that R408 calls for on a die. With the settings of R402 only a CORE target lowered by R416 gates. -/
def Module.callDuty (m : Module) (w : List (Nat × Nat)) (d : Nat) : Nat :=
  if !m.assured then min (m.railDuty w d) (m.capDuty w)
  else if SMap.get zeroD m.pwr.derate d = 0 then 64 else m.railsDuty w [d]

/-- The change of a rail's estimate that the ramp allows in one microsecond (R413). -/
def Module.rampOf (m : Module) (r : Nat) : Nat := 10 * (railOf m.recs r).1 * (fogOf m.recs).2 / 100

/-- The duty in force on a die: what R408 calls for, while no rise is faster than the ramp allows. -/
def Module.dutyOf (m : Module) (w : List (Nat × Nat)) (d : Nat) : Nat :=
  min (m.callDuty w d) (largestUpTo 64 (fun k => [d, 8 + d].all (fun r =>
    m.workAt w r k ≤ SMap.get zeroD m.pwr.last r + m.rampOf r)))

/-- Current of a rail in the microsecond, its die's duty and the fog given. -/
def Module.drawn (m : Module) (w : List (Nat × Nat)) (fog : SMap Nat) (r : Nat) : Nat :=
  m.workAt w r (m.dutyOf w (r % 8)) + SMap.get zeroD fog r

/-- The fog that a rail asks for: what holds the estimate at its floor and its fall to the ramp, clipped to what idle cores can
draw, to the target of R408 and to the ramp of a rise; none under a clamp, and none when fog is off (R409, R413). -/
def Module.fogWant (m : Module) (w : List (Nat × Nat)) (r : Nat) : Nat :=
  let prev := SMap.get zeroD m.pwr.last r
  let work := m.drawn w [] r
  if (fogOf m.recs).1 = 0 || m.dieClamped (r % 8) then 0
  else min (m.idleFog r) (min (max (m.fld (PWR_RAIL_FOG_floor r)) (prev - m.rampOf r) - work)
    (min (2 * m.railTarget r - prev - work) (prev + m.rampOf r - work)))

/-- The fog of every CORE and SRAM rail, each as far as the cap's target leaves room for it. -/
def Module.fogNow (m : Module) (w : List (Nat × Nat)) : SMap Nat :=
  (List.range 16).foldl (fun (fog : SMap Nat) r =>
    let f := largestUpTo (m.fogWant w r) (fun f => m.inputW (m.drawn w (SMap.set zeroD fog r f)) ≤ m.capTarget)
    SMap.set zeroD fog r f) []

/-- Does a limit or the cap call for a faster fall of a rail than the ramp allows (R409)? -/
def Module.rampForced (m : Module) (w : List (Nat × Nat)) (fog : SMap Nat) (r : Nat) : Bool :=
  let least := SMap.get zeroD m.pwr.last r - m.rampOf r
  m.drawn w fog r < least && ((SMap.get zeroD m.pwr.last r + least) / 2 > m.railTarget r ||
    m.inputW (fun q => if q = r then least else m.drawn w fog q) > m.capTarget)

/-- One die's duty, and the first steps of the order of R412; `call` is the duty that R408 calls for. -/
def Module.setDuty (m : Module) (d duty call : Nat) (byRail : Bool) : Module :=
  let m := m.setFld (PWR_DIE_duty d) duty
  let m := m.setPwr (fun x => { x with
    minDuty := SMap.set fullDuty x.minDuty d (min duty (SMap.get fullDuty x.minDuty d)),
    gated := if duty < 64 then insertU x.gated d else x.gated,
    calm := if duty < 32 then SMap.set zeroD x.calm d 0 else x.calm })
  if call < 16 && m.lowest d then
    let m := if m.flag (PWR_DIE_be_suspended d) then m
      else (m.setFld (PWR_DIE_be_suspended d) 1).raiseIf PWR_EVENT_be_suspended (m.flag PWR_CTRL_cap_irq_en)
    if !m.beRuns d && !m.flag (PWR_DIE_unreachable d) then
      ((m.setFld (PWR_DIE_unreachable d) 1).setFld PWR_STATUS_cause (b2n byRail)).raiseIf PWR_EVENT_cap_unreachable (m.flag PWR_CTRL_cap_irq_en)
    else m
  else m

/-- The excess bucket over one microsecond, in µJ. -/
def Module.bucketStep (m : Module) (p : Nat) : Module :=
  let s := m.fld PWR_CAP_EFF_sustained
  let depth := (m.fld PWR_CAP_EFF_peak - s) * 1000
  let b := if p > s then m.pwr.bucket - (p - s) else min depth (m.pwr.bucket + (s - p))
  (m.setPwr (fun x => { x with bucket := b })).setFld PWR_BUCKET_mj (b / 1000)

/-- The voltage of a die follows its clock down within 3 µs of the edge (R401). -/
def Module.voltageFalls (m : Module) : Module :=
  if m.pwr.samples < 3 then m
  else (each m.pwr.falling m (fun m d => m.setFld (PWR_DIE_vpoint d) (m.topPoint d))).setPwr (fun x => { x with falling := [] })

/-- Issue of a running tile was held for `n` cycles: they count in CORE_HELD_PWR and not against its budget (R22, R407). -/
def Module.heldCycles (m : Module) (c n : Nat) : Module :=
  if n = 0 then m
  else ((m.count (CORE_HELD_PWR_held c) n).modRun c (fun r => { r with held := r.held + n })).noteCore c 8

/-- The held cycles of the microsecond that ended, on every core that runs a tile: all of them under a clamp, else those outside
the duty. -/
def Module.heldUs (m : Module) : Module :=
  each (m.cores.filter (·.2.run.isSome)) m (fun m e =>
    let d := e.1 / 128
    let n := m.blockMHz e.1
    m.heldCycles e.1 (if m.dieClamped d then n else n * (64 - m.fld (PWR_DIE_duty d)) / 64))

/-- The microsecond that ended is accounted for: its estimates, its held cycles, and the bucket. -/
def Module.usEnds (m : Module) : Module :=
  let watts := m.inputW (SMap.get zeroD m.pwr.next)
  let m := m.heldUs
  let m := (List.range 40).foldl Module.railEst m
  let m := (List.range 16).foldl (fun m r => m.setFld (PWR_RAIL_FOG_fog r) (SMap.get zeroD m.pwr.fog r)) m
  let win := (m.pwr.lastW + watts) / 2
  let m := (m.setFld PWR_INPUT_W_now win).setPwr (fun p => { p with
    lastW := watts, peakW := max win p.peakW, samples := p.samples + 1, issued := [] })
  (m.voltageFalls.bucketStep watts).noteTight ((List.range 16).map (fun r => (r, SMap.get zeroD m.pwr.last r))) watts

/-- One microsecond ends and the next begins: the estimates of the one that ended, and the duty and fog of the next, whose work `x`
gives (R404, R408, R413). DESIGN CHOICE (log entry 86): the prediction of R408 is that work. -/
def effPowerEstimate (x : PowerSample) (m : Module) : Module :=
  let was := m.fld PWR_INPUT_volts
  let m := (m.setFld PWR_INPUT_volts x.volts).setFld PWR_INPUT_amps x.amps
  let m := if x.volts < 4000 && (was ≥ 4000 || was = 0) then m.raise PWR_EVENT_input_low else m
  let m := if m.sustainedCap ≠ m.fld PWR_CAP_EFF_sustained || m.peakCap ≠ m.fld PWR_CAP_EFF_peak then m.capsInForce else m
  let m := m.usEnds.setPwr (fun p => { p with cool := x.cool })
  let w := m.demands x
  let m := m.noteNeed w
  let p := m
  let fog := p.fogNow w
  let m := m.setPwr (fun y => { y with fog := fog, next := (List.range 40).foldl (fun a r => SMap.set zeroD a r (p.drawn w fog r)) [] })
  let m := each (List.range 8) m (fun m d => m.setDuty d (p.dutyOf w d) (p.callDuty w d) (p.railDuty w d < p.capDuty w))
  let m := if (List.range 16).any (p.rampForced w fog) then (m.count PWR_RAMP_FORCED_count 1).raise PWR_EVENT_ramp_forced else m
  m.ladder

/-! ### Calibration and clamps (R405, R406) -/

/-- New gain from the old one and the means of measurement and estimate: at most 5% in one step; none outside 0.8 to 1.25. -/
def newGain (g meas est : Nat) : Option Nat :=
  if est = 0 || 10 * meas < 8 * est || 100 * meas > 125 * est then none
  else some (max (g * 95 / 100) (min (g * 105 / 100) (g * meas / est)))

/-- The comparison of every 100 ms, rail by rail, of the measured mean in 0.1 A with the mean of the estimates made since the last
one. -/
def effCalibration (l : List (Nat × Nat)) (m : Module) : Module :=
  each l m (fun m e =>
    let c := (m.pwr.calib.get? e.1).getD (0, 0)
    let m := (m.setFld (PWR_RAIL_MEAS_mean e.1) e.2).setPwr (fun x => { x with calib := x.calib.del e.1 })
    match newGain (m.fld (PWR_RAIL_MEAS_gain e.1)) e.2 (c.1 / max 1 c.2) with
    | some g => m.setFld (PWR_RAIL_MEAS_gain e.1) g
    | none => m.raise PWR_EVENT_calib_drift)

/-- The compute die that a rail feeds. -/
def railDie (r : Nat) : List Nat := if r < 0x18 then [r % 8] else []

/-- A measured current crosses its clamp: all issue on the dies that the rail feeds stops, which is gating (R401). -/
def effClampTrip (r : Nat) (m : Module) : Module :=
  ((m.setPwr (fun x => { x with clamped := insertU x.clamped r, gated := (railDie r).foldl insertU x.gated })).count PWR_CLAMP_CNT_count 1).raise PWR_EVENT_clamp

/-- The current fell below the rail's limit; `held` is how many cycles of the microsecond under way the clamp took. -/
def effClampRelease (r held : Nat) (m : Module) : Module :=
  if !m.pwr.clamped.contains r then m
  else
    let m := each ((m.cores.filter (fun e => e.2.run.isSome && (railDie r).contains (e.1 / 128))).map (·.1)) m (fun m c => m.heldCycles c held)
    m.setPwr (fun x => { x with clamped := x.clamped.filter (· != r) })

/-! ### BE admission again (R412) -/

/-- At the edge, before the first microsecond of the new frame is over, BE admission resumes on every die whose duty stayed at or
above 32/64 for sixteen frames. -/
def effBeResume (m : Module) : Module :=
  if m.tick.phase != .open_ || m.pwr.samples ≠ 0 then m
  else
  let l := (List.range 8).filter (fun d => m.flag (PWR_DIE_be_suspended d) && 16 ≤ SMap.get zeroD m.pwr.calm d)
  let m := each l m (fun m d => (m.setFld (PWR_DIE_be_suspended d) 0).raise PWR_EVENT_be_resumed)
  m.ladder

/-! ### Temperature (R416) -/

/-- The sensors of every microsecond: die and hottest junction. -/
def effTempSample (l : List (Nat × Nat)) (m : Module) : Module :=
  let m := each l m (fun m e =>
    let m := m.setFld (PWR_TEMP_temp e.1) e.2
    let m := if m.fld (PWR_TEMP_max e.1) < e.2 then m.setFld (PWR_TEMP_max e.1) e.2 else m
    let n := if 115 ≤ e.2 then SMap.get zeroD m.pwr.hot e.1 + 1 else 0
    let m := m.setPwr (fun x => { x with hot := SMap.set zeroD x.hot e.1 n })
    if m.fld PWR_THERM_warn_c ≤ e.2 then m.raiseIf PWR_EVENT_thermal_warn (m.flag PWR_CTRL_therm_irq_en) else m)
  m.ladder

/-- Has a die stayed at the trip threshold for 100 µs? -/
def Module.tripped (m : Module) : Bool := (List.range 14).any (fun d => 100 ≤ SMap.get zeroD m.pwr.hot d)

/-- The edge: a compute die at or above the throttle threshold is lowered, and is not raised until it has cooled by 5 °C. -/
def Module.thermalEdge (m : Module) : Module :=
  let th := m.fld PWR_THERM_throttle_c
  (List.range 14).foldl (fun m d =>
    let t := m.fld (PWR_TEMP_temp d)
    if th ≤ t then
      let m := (m.setFld (PWR_TEMP_throttling d) 1).raiseIf PWR_EVENT_thermal_throttle (m.flag PWR_CTRL_therm_irq_en)
      if d < 8 && m.lowest d then m.setPwr (fun x => { x with derate := SMap.set zeroD x.derate d (SMap.get zeroD x.derate d + 1) }) else m
    else if t ≤ th - 5 then
      (m.setFld (PWR_TEMP_throttling d) 0).setPwr (fun x => { x with derate := SMap.set zeroD x.derate d 0 })
    else m) m

/-! ### The edge (R401, R412, R413) -/

/-- Did nothing in the frame stand against raising a die: no gating, and its estimates and the module's within 90% of their
targets (R401)? -/
def Module.mayRise (m : Module) (d : Nat) : Bool := !m.pwr.gated.contains d && !m.pwr.tight.contains d && !m.pwr.tight.contains 8

/-- Highest point among the blocks of a die that are not fixed. -/
def Module.diePoint (m : Module) (d : Nat) : Nat :=
  ((List.range 8).map (fun i => if m.flag (PWR_BLOCK_fixed (d * 8 + i)) then 0 else m.fld (PWR_BLOCK_point (d * 8 + i)))).foldl max 0

/-- A die's load scaled from its point to `q`: it follows the clock and the `k`-th power of the voltage. DEDUCED from the worked
example of R417, where power follows clock × voltage² (log entry 90). -/
def Module.scaled (m : Module) (d load k q : Nat) : Nat :=
  let p := m.diePoint d
  load * (pointMHz q * m.dieMv d q ^ k) / (pointMHz p * m.dieMv d p ^ k)

/-- Do the rails of a die fit under their targets at a point, with the most that the frame asked of them? -/
def Module.railsFit (m : Module) (d q : Nat) : Bool :=
  let fits (r k : Nat) : Bool := let e := (m.pwr.need.get? r).getD (0, 0); e.1 + m.scaled d e.2 k q ≤ m.railTarget r
  fits d 1 && fits (8 + d) 0

/-- Does the module fit under the cap target, with each die at the point that `at_` gives it? -/
def Module.wattsFit (m : Module) (at_ : Nat → Nat) : Bool :=
  m.pwr.wattsNeed.2.foldl (fun a e => a + m.scaled e.1 e.2 2 (at_ e.1)) m.pwr.wattsNeed.1 ≤ m.capTarget

/-- The highest point that the limits leave to a die: its rails and the module fit there. -/
def Module.ceiling (m : Module) (d : Nat) : Nat :=
  let top (ok : Nat → Bool) : Nat := ((List.range 9).filter ok).foldl max 0
  let q := min (top (m.railsFit d)) (top (fun q => m.wattsFit (fun i => min (m.diePoint i) q)))
  if m.assured then max 5 q else q

/-- Does everything stand for raising a die by a point (R401)? -/
def Module.riseOk (m : Module) (d : Nat) : Bool :=
  m.mayRise d && m.railsFit d (m.diePoint d + 1) && m.wattsFit (fun i => m.diePoint i + 1)

/-- The point of a block for the next frame. A frame with no estimate changes none. -/
def Module.nextPoint (m : Module) (b : Nat) : Nat :=
  let d := b / 8
  let cur := m.fld (PWR_BLOCK_point b)
  let top := if m.flag PWR_CTRL_boost_en then 8 else 5
  if m.flag (PWR_BLOCK_fixed b) then 5
  else
    let q := if m.pwr.samples = 0 then cur else min cur (m.ceiling d)
    if m.flag (PWR_TEMP_throttling d) then
      min (min (if m.fld PWR_THERM_throttle_c ≤ m.fld (PWR_TEMP_temp d) then cur - 1 else cur) q) top
    else if q = cur && m.pwr.samples != 0 && (m.riseOk d || (m.assured && cur < 5)) then min (cur + 1) top
    else min q top

/-- During the frame the voltage of a die whose clock is to rise at the edge is raised to the new point (R401). DESIGN CHOICE (log
entry 86): at the cutoff of step 7. -/
def Module.raiseVolts (m : Module) : Module :=
  (List.range 8).foldl (fun m d =>
    let q := ((List.range 8).map (fun i => m.nextPoint (d * 8 + i))).foldl max 0
    if q ≤ m.topPoint d then m
    else (m.setFld (PWR_DIE_vpoint d) (max q (m.fld (PWR_DIE_vpoint d)))).setPwr (fun x => { x with falling := x.falling.filter (· != d) })) m

/-- The controller fixes the points, floors and shown peaks at the edge ending a frame. -/
def Module.powerEdge (m : Module) : Module :=
  let m := if (List.range 8).any (fun d => m.flag (PWR_DIE_unreachable d)) then m.count PWR_UNREACH_FRAMES_count 1 else m
  let m := m.thermalEdge
  let p := m
  let m := (List.range 64).foldl (fun m b =>
    -- a clock steps up only to a voltage that was raised before; a fixed block takes its point at once (R403)
    let q := p.nextPoint b
    m.setFld (PWR_BLOCK_point b) (if p.flag (PWR_BLOCK_fixed b) then q
      else min q (max (p.fld (PWR_BLOCK_point b)) (p.fld (PWR_DIE_vpoint (b / 8)))))) m
  let m := (List.range 8).foldl (fun m d =>
    -- the voltage follows the clock down
    let m := if m.topPoint d < m.fld (PWR_DIE_vpoint d) then m.setPwr (fun x => { x with falling := insertU x.falling d })
      else (m.setFld (PWR_DIE_vpoint d) (m.topPoint d)).setPwr (fun x => { x with falling := x.falling.filter (· != d) })
    let low := SMap.get fullDuty m.pwr.minDuty d
    let m := if 16 ≤ low then m.setFld (PWR_DIE_unreachable d) 0 else m
    m.setPwr (fun x => { x with calm := SMap.set zeroD x.calm d (if 32 ≤ low then SMap.get zeroD x.calm d + 1 else 0) })) m
  let phi := (fogOf m.recs).1
  let n := m.pwr.samples
  let m := (List.range 16).foldl (fun m r =>
    m.setFld (PWR_RAIL_FOG_floor r) (if n = 0 then 0 else SMap.get zeroD m.pwr.sum r / n * phi / 100)) m
  let m := (List.range 0x28).foldl (fun m r => m.setFld (PWR_RAIL_EST_peak r) (SMap.get zeroD m.pwr.peak r)) m
  let m := m.setFld PWR_INPUT_W_peak m.pwr.peakW
  -- the duty in force as a frame begins counts in it
  let duty := (List.range 8).foldl (fun s d => SMap.set fullDuty s d (m.fld (PWR_DIE_duty d))) []
  let gated := (m.pwr.clamped.flatMap railDie).foldl insertU ((List.range 8).filter (fun d => m.fld (PWR_DIE_duty d) < 64))
  let m := m.setPwr (fun x => { x with
    sum := [], peak := [], samples := 0, peakW := 0, gated := gated, tight := [], minDuty := duty, need := [], wattsNeed := (0, []) })
  m.ladder

end Sys2Proof.Machine
end

