-- ==== Sys2Proof/Machine/Flits.lean ====
section
/-!
DEFINITION. The wire format of Mehrusk links: the 256 bytes of a flit (R211), stripe CRCs (R213), nonces and keys of runs and
proofs (R216 to R218), and Ethernet frames (R223).
-/
namespace Sys2Proof.Machine

/-! ### Checks -/

/-- One byte into a CRC-16 with polynomial 0x8BB7, most significant bit first. -/
def crc16Byte (crc : Nat) (b : Byte) : Nat :=
  (List.range 8).foldl (fun c _ => if c ≥ 2 ^ 15 then ((2 * c) % 2 ^ 16) ^^^ 0x8BB7 else 2 * c) (crc ^^^ (b.toNat * 256))

/-- The CRC of a stripe: initial value 0, no reflection, no final exclusive or (R213). -/
def crc16 (bs : List Byte) : Nat := bs.foldl crc16Byte 0

/-- The frame check sequence of Ethernet (IEEE 802.3). -/
def crc32 (bs : List Byte) : Nat :=
  (bs.foldl (fun c (b : Byte) =>
    (List.range 8).foldl (fun c _ => if c % 2 = 1 then (c / 2) ^^^ 0xEDB88320 else c / 2) (c ^^^ b.toNat)) 0xFFFF_FFFF) ^^^ 0xFFFF_FFFF

/-- The units of two bytes of stripe `s` among the first 240 bytes of a flit, in address order. -/
def stripeOf (bs : List Byte) (s : Nat) : List Byte := (List.range 15).flatMap (fun k => (bs.drop (2 * (8 * k + s))).take 2)

/-- The eight stripe CRCs of the first 240 bytes, each of two bytes little-endian. -/
def stripeCrcs (bs : List Byte) : List Byte := (List.range 8).flatMap (fun s => leBytes 2 (crc16 (stripeOf bs s)))

/-- Stripes of a received flit whose CRC fails. -/
def badStripes (raw : List Byte) : List Nat :=
  (List.range 8).filter (fun s => crc16 (stripeOf raw s) != fieldOf raw (240 + 2 * s) 2)

/-! ### The layout of a flit (R211) -/

/-- A byte string filled with zeros to `n` bytes. -/
def padTo (n : Nat) (bs : List Byte) : List Byte := (bs ++ zeros (n - bs.length)).take n

/-- The 16 bytes of a header. -/
def Flit.header (f : Flit) : List Byte :=
  leBytes 1 (f.ty % 16 + 16 * f.pos) ++ leBytes 1 (b2n f.first + 2 * b2n f.last + 4 * b2n f.sched) ++ leBytes 2 f.seqNo ++
  leBytes 2 f.ack ++ leBytes 1 (b2n f.ackValid + 2 * b2n f.nak + 16 * f.hops) ++ leBytes 1 (f.slot % 64) ++
  leBytes 2 f.dst ++ leBytes 2 f.src ++ leBytes 2 f.entry ++ leBytes 2 f.body.length

/-- A flit from its header and its decrypted body. -/
def Flit.ofBytes (h body : List Byte) : Flit :=
  let b0 := fieldOf h 0 1
  let fl := fieldOf h 1 1
  let af := fieldOf h 6 1
  { ty := b0 % 16, pos := b0 / 16, first := bit fl 0, last := bit fl 1, sched := bit fl 2, seqNo := fieldOf h 2 2, ack := fieldOf h 4 2,
    ackValid := bit af 0, nak := bit af 1, hops := af / 16, slot := fieldOf h 7 1 % 64, dst := fieldOf h 8 2, src := fieldOf h 10 2,
    entry := fieldOf h 12 2, body := body.take (min 208 (fieldOf h 14 2)) }

/-- The 256 bytes of a flit: header, sealed body, aux, and the CRCs; `bad` corrupts that of stripe 0 (R240). -/
def flitBytes (h body aux : List Byte) (bad : Bool) : List Byte :=
  let b := padTo 16 h ++ padTo 208 body ++ padTo 16 aux
  let c := stripeCrcs b
  b ++ (if bad then xorBytes (c.take 1) [0xFF] ++ c.drop 1 else c)

/-! ### Seals (R217, R218) -/

/-- The nonce: the epoch and the run counter, big-endian. -/
def nonceOf (epoch c : Nat) : List Byte := beBytes 4 epoch ++ beBytes 8 c

/-- The body at position `pos` of a run, encrypted: a body is 13 blocks of the run's plaintext. -/
def sealBody (key : List Byte) (epoch c pos : Nat) (body : List Byte) : List Byte :=
  gcmCtr key (nonceOf epoch c) (2 + 13 * pos) (padTo 208 body)

/-- The tag of a run over its headers and its encrypted bodies in order. -/
def runTag (key : List Byte) (epoch c : Nat) (run : List (List Byte × List Byte)) : List Byte :=
  gcmTag key (nonceOf epoch c) (run.flatMap (·.1)) (run.flatMap (·.2))

/-- The proof of an end: the tag of an empty plaintext over its own AUTH body and the peer's. -/
def proofTag (key : List Byte) (epoch : Nat) (own peer : List Byte) : List Byte :=
  gcmTag key (nonceOf epoch (2 ^ 64 - 1)) (own ++ peer) []

/-! ### Ethernet frames (R223) -/

/-- The MAC of port `p` of a module. -/
def macOf (mid p : Nat) : List Byte := [0x02, 0x4D] ++ beBytes 2 mid ++ [0x00] ++ leBytes 1 p

/-- A frame: addresses, the tag where the port has one, EtherType, encapsulation header, flits, and the check sequence. -/
def frameBytes (dst src : List Byte) (tci : Option Nat) (flits : List (List Byte)) : List Byte :=
  let b := dst ++ src ++ (match tci with | some t => [0x81, 0x00] ++ beBytes 2 t | none => []) ++ [0x88, 0xB5] ++
    [0x01] ++ leBytes 1 flits.length ++ [0x00, 0x00] ++ flits.flatten
  b ++ leBytes 4 (crc32 b)

/-- The source address and the flits of a received frame; none for one that is discarded. -/
def frameParse (bs : List Byte) : Option (List Byte × List (List Byte)) :=
  let n := bs.length - 4
  let b := bs.take n
  let rest := b.drop 12
  let rest := if rest.take 2 = [0x81, 0x00] then rest.drop 4 else rest
  let k := fieldOf rest 3 1
  if bs.length < 22 || leBytes 4 (crc32 b) ≠ bs.drop n || rest.take 2 ≠ [0x88, 0xB5] then none
  else if fieldOf rest 2 1 ≠ 1 || fieldOf rest 4 2 ≠ 0 || k = 0 || k > 32 || rest.length ≠ 6 + 256 * k then none
  else some ((b.drop 6).take 6, (List.range k).map (fun i => (rest.drop (6 + 256 * i)).take 256))

end Sys2Proof.Machine
end

