-- ==== Sys2Proof/Machine/Links.lean ====
section
/-!
DEFINITION. Mehrusk links and seams (R202 to R240): training and the handshake, epochs, runs with their checks, replay,
lanes, slots, routing of control messages, transit, Ethernet gathering, and seam lane groups.
-/
namespace Sys2Proof.Machine

/-! ### Ports and sessions -/

def lsDISABLED : Nat := 0
def lsTRAINING : Nat := 1
def lsAUTH : Nat := 2
def lsUP : Nat := 3
def lsLANE_DROP : Nat := 4
def lsDOWN : Nat := 5
def lsAUTH_FAIL : Nat := 6

def dcNO_LANES : Nat := 1
def dcCRYPTO : Nat := 2
def dcEPOCH_END : Nat := 3
def dcETH_WIDTH : Nat := 4
def dcPHY : Nat := 5

/-- The PORT record of a port: mode, highest rate, highest width, enable and n_max (R264). -/
def portRec (r : Recs) (p : Nat) : Nat × Nat × Nat × Bool × Nat :=
  match recOf r 0x0602 p with
  | some v => (fieldOf v 8 1, fieldOf v 9 1, fieldOf v 10 1, bmap v 11 0, fieldOf v 14 1)
  | none => (0, 2, if p = 16 then 4 else 3, true, 32)

def Module.eth (m : Module) (p : Nat) : Bool := p < 16 && (portRec m.recs p).1 == 1

/-- Sessions of a port: 0 alone in direct mode, those of the SESSION records in Ethernet mode. -/
def Module.sessions (m : Module) (p : Nat) : List Nat :=
  if m.eth p then ((recsOf m.recs 0x0603).filter (fun e => e.1 % 256 == p)).map (fun e => e.1 / 256 % 256) else [0]

def Module.portState (m : Module) (p : Nat) : Nat := m.fld (LINK_STATE_state p)

/-- Set the state of a port, or of a session of an Ethernet port. -/
def Module.setSessState (m : Module) (p s st : Nat) : Module :=
  let m := m.modSess p s (fun x => { x with state := st })
  if m.eth p then m.setFld (LINK_SESSION_state p s) st else m.setFld (LINK_STATE_state p) st

/-- Is a session of a port UP? -/
def Module.sessUp (m : Module) (p s : Nat) : Bool := m.portUp p && (!m.eth p || (m.sess p s).state == lsUP)

/-- Lanes of a port, and how many of them a width code uses. -/
def lanesOf (p : Nat) : Nat := if p = 16 then 16 else 8
def widthLanes (w : Nat) : Nat := 2 ^ w

/-- Good lanes, lowest first: those without a moraine entry (R208). -/
def Module.goodLanes (m : Module) (p : Nat) : List Nat := (List.range (lanesOf p)).filter (fun l => !bit (m.fld (LINK_LANES_retired p)) l)

/-- Largest permitted width code for `g` good lanes, up to `top`. -/
def widthFor (p g top : Nat) : Option Nat :=
  ((List.range (if p = 16 then 5 else 4)).filter (fun w => widthLanes w ≤ g && w ≤ top)).getLast?

/-- Bit mask of the lanes in use. -/
def laneMask (l : List Nat) : Nat := l.foldl (fun a x => a + 2 ^ x) 0

/-- The Ethernet rates of R224. -/
def ethWidthOk (w rate : Nat) : Bool := ([(3, 2), (2, 2), (3, 1), (1, 2), (2, 1), (3, 0)] : List (Nat × Nat)).contains (w, rate)

/-! ### A port goes DOWN (R235) -/

/-- Whole control messages among unsent flits, to be routed again, each with the port it came by. -/
def regroup (l : List CtrlOut) : List CtrlMsg :=
  let start := l.dropWhile (fun f => !f.flit.first)
  start.foldl (fun (acc : List CtrlMsg) f =>
    if f.flit.first then
      acc ++ [{ src := f.flit.src, dst := f.flit.dst, kind := f.flit.entry % 256, hops := f.flit.hops, port := f.from_, payload := f.flit.body }]
    else match acc.getLast? with
      | some c => acc.dropLast ++ [{ c with payload := c.payload ++ f.flit.body }]
      | none => acc) []

/-- Discard a port's replay buffers; unsent messages move to the remaining paths. -/
def Module.dropBuffers (m : Module) (p : Nat) : Module :=
  let again := regroup (m.port p).ctrl
  let m := { m with ctrlQ := m.ctrlQ ++ again }
  m.modPort p (fun x => { x with
    sess := x.sess.map (fun s => (s.1, { s.2 with buf := [], resend := [], asm := [], gather := [], rxq := [], nakDue := false, ackDue := false, failed := [] })),
    ctrl := [], tickDue := [], recal := false, ptp := [] })

/-- A port goes DOWN with a cause; `report` is false when LINK_CTRL did it. -/
def Module.portDown (m : Module) (p cause : Nat) (report : Bool) : Module :=
  if m.portState p = lsDOWN then m
  else
    let m := m.dropBuffers p
    let m := each (m.sessions p) m (fun m s => m.setSessState p s lsDOWN)
    let m := ((m.setFld (LINK_STATE_state p) lsDOWN).setFld (LINK_STATE_down_cause p) cause).raise (LINK_EVENT_down p)
    let m := m.setFld (LINK_LANES_active p) 0
    let m := m.collPortDown p
    if report then
      let m := m.logEvent clsPEER errPORT_DOWN 0 7 p none none 0
      m.report clsPEER errPORT_DOWN 7 (m.fld (LINK_PEER_port p)) (m.fld (LINK_PEER_module_id p))
    else m

/-- A port goes DOWN for a cause of its own: loss of signal, or one of R240. -/
def effPortDown (p cause : Nat) (m : Module) : Module := if p ≤ 16 then m.portDown p cause true else m

/-! ### Epochs and the handshake (R216, R218 to R221) -/

def epochMax : Nat := 0xFFFF_FFFF

/-- Ask the journal for the next block of 256 epochs. -/
def Module.reserveEpochs (m : Module) (p s : Nat) : Module :=
  m.jWrite jEPOCH_RESERVE (leBytes 1 p ++ leBytes 1 s ++ zeros 2 ++ leBytes 4 (min (max (m.sess p s).resEnd (m.port p).epochTop + 256) epochMax))

/-- Is a debug unlock in force (R450)? In MAKER always. -/
def Module.debugUnlocked (m : Module) : Bool := m.lcState == 0 || m.sec.debugSlot.isSome

def Module.serial (m : Module) : List Byte := (List.range 16).map (fun i => BitVec.ofNat 8 (m.fuseWord (16 + i)))

/-- The body of an AUTH flit. -/
def authBytes (id port code : Nat) (serial : List Byte) (epoch : Nat) (challenge : List Byte) : List Byte :=
  leBytes 2 id ++ leBytes 1 port ++ leBytes 2 code ++ (serial ++ zeros 16).take 16 ++ leBytes 4 epoch ++ (challenge ++ zeros 16).take 16

/-- A flit without a number. -/
def plainFlit (ty src : Nat) (body : List Byte) : Flit :=
  { ty := ty, pos := 0, first := true, last := true, sched := false, seqNo := 0, ack := 0, ackValid := false, nak := false, hops := 0,
    slot := 0, dst := 0xFFFF, src := src, entry := 0, body := body }

/-! ### The wire (R211 to R217, R225) -/

/-- The key of what a session sends, and of what it receives (R216). -/
def Module.txKey (m : Module) (p s : Nat) : List Byte := let x := m.sess p s; linkKey m.serial x.peerSerial p x.peerPort
def Module.rxKey (m : Module) (p s : Nat) : List Byte := let x := m.sess p s; linkKey x.peerSerial m.serial x.peerPort p

/-- The peer that a SESSION record names: module and port. -/
def sessPeer (r : Recs) (p s : Nat) : Nat × Nat :=
  match recOf r 0x0603 (p + 256 * s) with | some v => (fieldOf v 8 2, fieldOf v 10 1) | none => (0, 0)

/-- The 802.1Q tag of a port, when it has one: PCP and VID. -/
def portTci (r : Recs) (p : Nat) : Option Nat :=
  match recOf r 0x0602 p with | some v => if bmap v 11 1 then some (fieldOf v 12 2) else none | none => none

/-- Send the flits gathered for a session as a frame. -/
def Module.sendFrame (m : Module) (p s : Nat) : Module :=
  let g := (m.sess p s).gather
  if g.isEmpty || (m.port p).recal then m
  else
    let (mid, port) := sessPeer m.recs p s
    (m.modSess p s (fun x => { x with gather := [] })).emit
      (.ethFrame p s (g.map (·.1)) (frameBytes (macOf mid port) (macOf m.selfId p) (portTci m.recs p) (g.map (·.2))))

/-- Does the module drive the lanes of a port: not in its recalibration slice (R481), and those of port 16 only while
TWIN_PRESENT_N is low (R496)? -/
def Module.drives (m : Module) (p : Nat) : Bool := !(m.port p).recal && (p != 16 || m.pins.twinPresent)

/-- Put a finished flit on the wire, or into the frame being gathered; one that a recalibration slice catches is lost (R481). -/
def Module.putFlit (m : Module) (p s : Nat) (f : Flit) (raw : List Byte) : Module :=
  if m.eth p then
    let m := m.modSess p s (fun y => { y with gather := y.gather ++ [(f, raw)] })
    if (m.sess p s).gather.length ≥ (portRec m.recs p).2.2.2.2 then m.sendFrame p s else m
  else if m.drives p then m.emit (.flit p s f raw)
  else m

/-- Send a flit. In an UP session it takes the next place of the run, its body is sealed, and the flit at pos 15 carries the
run's tag; before that, in the handshake and in training, flits go unsealed (log entry 81). -/
def Module.wire (m : Module) (p s : Nat) (f : Flit) : Module :=
  let x := m.sess p s
  let numbered := f.ty == 1 || f.ty == 2
  let bad := (m.port p).injCrc && numbered
  let m := if bad then m.modPort p (fun y => { y with injCrc := false }) else m
  if !m.sessUp p s then m.putFlit p s f (flitBytes f.header f.body [] bad)
  else
    let f := { f with pos := x.txRun.length }
    let key := m.txKey p s
    let body := sealBody key x.epoch x.run f.pos f.body
    let run := x.txRun ++ [(f.header, body)]
    let m := m.modSess p s (fun y => { y with ackDue := false })
    if run.length < 16 then
      (m.modSess p s (fun y => { y with txRun := run })).putFlit p s f (flitBytes f.header body [] bad)
    else
      let tag := runTag key x.epoch x.run run
      let tag := if (m.port p).injTag then xorBytes (tag.take 1) [0xFF] ++ tag.drop 1 else tag
      let m := if (m.port p).injTag then m.modPort p (fun y => { y with injTag := false }) else m
      (m.modSess p s (fun y => { y with txRun := [], run := y.run + 1 })).putFlit p s f (flitBytes f.header body tag bad)

/-- May a session start or go on with a run: it is UP, and its run counter has not reached the limit (R221)? -/
def Module.maySend (m : Module) (p s : Nat) : Bool :=
  m.sessUp p s && (!(m.sess p s).txRun.isEmpty || (m.sess p s).run < 2 ^ 64 - 2)

/-- Flits that a session may send before a run would begin with its counter at the limit (R221). -/
def Module.mayFlits (m : Module) (p s : Nat) : Nat :=
  if !m.sessUp p s then 0
  else
    let x := m.sess p s
    max (2 ^ 64 - 2 - x.run) (b2n (!x.txRun.isEmpty)) * 16 - x.txRun.length

/-- Acknowledgement fields of an outgoing header. -/
def Module.stamp (m : Module) (p s slot : Nat) (f : Flit) : Flit :=
  let x := m.sess p s
  { f with ack := subMod 16 x.rx 1, ackValid := true, nak := x.nakDue, slot := slot }

/-- Up to `n` IDLE flits, which carry ack and nak as every header does (R214). -/
def Module.sendIdle (m : Module) (p s slot : Nat) : Nat → Module
  | 0 => m
  | n + 1 =>
    if !m.maySend p s then m
    else
      let f := m.stamp p s slot { plainFlit 0 m.selfId [] with first := false, last := false }
      Module.sendIdle ((m.modSess p s (fun x => { x with nakDue := false })).wire p s f) p s slot n

/-- IDLE flits complete the run being sent. -/
def Module.finishRun (m : Module) (p s slot : Nat) : Module :=
  let k := (m.sess p s).txRun.length
  if k = 0 then m else m.sendIdle p s slot (16 - k)

/-! ### The handshake (R218 to R221) -/

/-- Both AUTH bodies of this handshake are known: send the PROOF, while the fleet link key may be used (R442, R448). -/
def Module.sendProof (m : Module) (p s : Nat) : Module :=
  let x := m.sess p s
  match x.peerAuth with
  | none => m
  | some peer =>
    if x.auth.isEmpty || !m.keyAlive 1 then m
    else
      let key := linkKey m.serial (peer.drop 5 |>.take 16) p (fieldOf peer 2 1)
      m.wire p s (m.stamp p s (m.port p).slot (plainFlit 5 m.selfId (proofTag key x.epoch x.auth peer)))

/-- Send AUTH with a fresh epoch, once one is reserved (R220): above all that the port has sent, and in a block of this
session whose record is committed. -/
def Module.sendAuth (m : Module) (p s : Nat) (challenge : List Byte) : Module :=
  let x := m.sess p s
  let e := max x.nextEpoch (m.port p).epochTop
  if e ≥ epochMax then m.portDown p dcEPOCH_END true
  else if e < x.resEnd then
    let body := authBytes m.selfId p m.orderCode m.serial e challenge
    let m := m.modSess p s (fun x => { x with epoch := e, nextEpoch := e + 1, auth := body, authWait := none })
    let m := m.modPort p (fun y => { y with epochTop := e + 1 })
    let m := if m.eth p then m.setReg (LINK_SESSION_EPOCH p s) e else m.setReg (LINK_EPOCH p) e
    let m := if epochMax - (e + 1) < 65536 then m.raise (LINK_EVENT_epoch_low p) else m
    let m := m.setSessState p s lsAUTH
    (m.wire p s (m.stamp p s (m.port p).slot (plainFlit 4 m.selfId body))).sendProof p s
  else
    let m := (m.modSess p s (fun x => { x with authWait := some challenge })).setSessState p s lsAUTH
    if x.authWait.isSome then m else m.reserveEpochs p s

/-- Begin a handshake: nothing of an earlier one counts. -/
def Module.beginAuth (m : Module) (p s : Nat) (challenge : List Byte) : Module :=
  (m.modSess p s (fun x => { x with auth := [], peerAuth := none, txRun := [] })).sendAuth p s challenge

/-- The reservation of a block of epochs is committed. -/
def Module.epochCommitted (m : Module) (pl : List Byte) : Module :=
  let p := fieldOf pl 0 1
  let s := fieldOf pl 1 1
  let m := m.modSess p s (fun x => { x with resEnd := fieldOf pl 4 4 })
  match (m.sess p s).authWait with
  | some ch =>
    let m := m.modSess p s (fun x => { x with authWait := none })
    if (if m.eth p then m.portState p == lsUP && (m.sess p s).state == lsAUTH else m.portState p == lsAUTH) then m.sendAuth p s ch else m
  | none => m

/-- The one-way delay of 1,024 exchanges of TRAIN flits, each given by its four stamps in 1/16 ns: sent here, received there,
sent there, received here (R238). Half the mean round trip. -/
def delayOf (trips : List (Nat × Nat × Nat × Nat)) : Nat :=
  trips.foldl (fun a t => a + ((t.2.2.2 - t.1) - (t.2.2.1 - t.2.1))) 0 / (2 * trips.length)

/-- The TRAIN flits of a delay measurement go out. Their body is laid out nowhere: it is a free value. -/
def Module.sendTrains (m : Module) (p n : Nat) : Module :=
  each (List.range n) m (fun m _ =>
    let (m, b) := m.freeBytes 208
    let f := m.stamp p 0 (m.port p).slot (plainFlit 6 m.selfId b)
    if m.drives p then m.emit (.flit p 0 f (flitBytes f.header b [] false)) else m)

/-- PHY training and the delay measurement of 1,024 exchanges complete: the lane rate and the highest width code that both ends
support, and stamps; `chal` gives the challenges of the sessions in order. -/
def effLinkTrained (p rate width : Nat) (trips : List (Nat × Nat × Nat × Nat)) (chal : List (List Byte)) (m : Module) : Module :=
  if p > 16 || m.portState p ≠ lsTRAINING || !m.flag (LINK_CTRL_enable p) || (p = 16 && !m.pins.twinPresent) || trips.length ≠ 1024 then m
  else
    let (_, maxRate, maxWidth, _, _) := portRec m.recs p
    let good := m.goodLanes p
    match widthFor p good.length (min width maxWidth) with
    | none => m.portDown p dcNO_LANES true
    | some w =>
      let rate := min (min rate maxRate) 2
      let m := (m.setFld (LINK_STATE_rate p) rate).setFld (LINK_STATE_width p) w
      let m := (m.setFld (LINK_STATE_mode p) (b2n (m.eth p))).setFld (LINK_STATE_down_cause p) 0
      let m := m.sendTrains p trips.length
      let m := (m.setReg (LINK_DELAY p) (delayOf trips % 2 ^ 20)).setFld (LINK_LANES_active p) (laneMask (good.take (widthLanes w)))
      let m := m.modPort p (fun x => { x with trains := 0, topWidth := width })
      if m.eth p && !ethWidthOk w rate then m.portDown p dcETH_WIDTH true
      else
        let m := if m.eth p then m.setFld (LINK_STATE_state p) lsUP else m
        each (m.sessions p).zipIdx m (fun m s => m.beginAuth p s.1 (chal.getD s.2 []))

/-- PHY training fails: it is tried once more, and then the port goes DOWN (R373). -/
def effTrainFail (p : Nat) (m : Module) : Module :=
  if p > 16 || m.portState p ≠ lsTRAINING || (p = 16 && !m.pins.twinPresent) then m
  else
    let again := (m.port p).trains ≥ 1
    let m := (m.logEvent clsPORT errTRAIN_FAIL 0 7 p none none 0).errEvent 11 p none again
    let m := m.modPort p (fun x => { x with trains := x.trains + 1 })
    if again then (m.modPort p (fun x => { x with trains := 0 })).portDown p dcPHY true else m

/-- A peer's AUTH flit arrives; `chal` is the challenge of an own AUTH that must be sent afresh. -/
def effAuthReceived (p s mid port code : Nat) (serial : List Byte) (epoch : Nat) (challenge chal : List Byte) (m : Module) : Module :=
  let st := if m.eth p then (if m.portUp p then (m.sess p s).state else lsDOWN) else m.portState p
  if st ≠ lsAUTH && st ≠ lsUP && st ≠ lsAUTH_FAIL then m
  else
    let m := if st = lsAUTH then m else m.beginAuth p s chal
    let m := m.modSess p s (fun x => { x with peerMod := mid, peerPort := port, peerAuth := some (authBytes mid port code serial epoch challenge) })
    let m := (m.setReg (LINK_PEER p) (mid % 2 ^ 16 + port % 32 * 2 ^ 16)).setReg (LINK_PEER_CODE p) (code % 2 ^ 14 + 2 ^ 14)
    let m := if m.eth p then (m.setFld (LINK_SESSION_module_id p s) mid).setFld (LINK_SESSION_port p s) port else m
    m.sendProof p s

/-- A peer's PROOF arrives with its tag: the module computes the one of the peer's sending key and compares. A peer of another
order code holds another fleet link key (R219). -/
def effProofReceived (p s : Nat) (tag : List Byte) (m : Module) : Module :=
  let x := m.sess p s
  match x.peerAuth with
  | none => m
  | some b =>
    if (if m.eth p then x.state else m.portState p) ≠ lsAUTH || x.auth.isEmpty then m
    else
      let serial := (b.drop 5).take 16
      let key := linkKey serial m.serial (fieldOf b 2 1) p
      if m.keyAlive 1 && fieldOf b 3 2 == m.orderCode && tag == proofTag key (fieldOf b 21 4) b x.auth then
        (m.modSess p s (fun x => { x with run := 0, rxRun := 0, txRun := [], peerSerial := serial, peerEpoch := fieldOf b 21 4,
                                          peerAuth := none, auth := [], resend := x.buf })).setSessState p s lsUP
      else ((m.setSessState p s lsAUTH_FAIL).raise (LINK_EVENT_auth_fail p)).count (LINK_AUTH_FAIL_count p) 1

/-- Once a second an enabled port in AUTH_FAIL repeats the handshake. -/
def effAuthRetry (p s : Nat) (chal : List Byte) (m : Module) : Module :=
  let st := if m.eth p then (if m.portUp p then (m.sess p s).state else lsDOWN) else m.portState p
  if st = lsAUTH_FAIL && m.flag (LINK_CTRL_enable p) then m.beginAuth p s chal else m

/-- The run counter has reached its limit (R221). -/
def effRunCounterEnd (p s : Nat) (chal : List Byte) (m : Module) : Module :=
  if m.sessUp p s && (m.sess p s).run ≥ 2 ^ 64 - 2 then m.beginAuth p s chal else m

/-! ### Control of a port (R240) -/

/-- Start training from the PHY up, unless the port is retired (R389); the PHY firmware of the port loads (R480). -/
def Module.startTraining (m : Module) (p : Nat) : Module :=
  if m.fld (LINK_STATE_down_cause p) = dcEPOCH_END then m
  else if m.retired 7 p then (m.setFld (LINK_STATE_state p) lsDOWN).setFld (LINK_STATE_down_cause p) dcPHY
  else
    let m := each (m.sessions p) m (fun m s => m.setSessState p s lsTRAINING)
    let m := ((m.setFld (LINK_STATE_state p) lsTRAINING).setFld (LINK_STATE_down_cause p) 0).setFld (LINK_LANES_active p) 0
    m.modPort p (fun x => { x with trains := 0, tagFails := [] })

/-- A write of LINK_CTRL.enable; once the fleet link key is killed it stays 0 (R449). -/
def effLinkEnable (p : Nat) (on : Bool) (m : Module) : Module :=
  if p > 16 then m
  else if on && m.fuseWord 4 ≠ 0 then m
  else if on then
    let was := m.flag (LINK_CTRL_enable p)
    let m := m.setFld (LINK_CTRL_enable p) 1
    if was && m.portState p ≠ lsDISABLED then m else (m.fwStart 2).startTraining p
  else
    let m := (m.dropBuffers p).setFld (LINK_CTRL_enable p) 0
    let m := each (m.sessions p) m (fun m s => m.setSessState p s lsDISABLED)
    let m := (m.setFld (LINK_STATE_state p) lsDISABLED).setFld (LINK_LANES_active p) 0
    m.collPortDown p

/-- A write of LINK_CTRL.retrain. -/
def effLinkRetrain (p : Nat) (m : Module) : Module :=
  if p ≤ 16 && m.flag (LINK_CTRL_enable p) && m.portState p ≠ lsDISABLED then m.startTraining p else m

def effLinkInjCrc (p : Nat) (m : Module) : Module := m.modPort p (fun x => { x with injCrc := true })
def effLinkInjTag (p : Nat) (m : Module) : Module := m.modPort p (fun x => { x with injTag := true })

/-! ### Lanes (R208, R209) -/

/-- A lane is retired at once: the port takes the largest width that its good lanes permit by a lane drop, within what ROUTES and its
training with the peer allow (R207), or has no lanes left. -/
def Module.laneRetire (m : Module) (p l cause : Nat) : Module :=
  let unit := p * 16 + l
  if m.retired 5 unit then m
  else
    let n := match m.ras.hist.get? (9 * 2 ^ 16 + unit) with | some h => h.count | none => 0
    let active := bit (m.fld (LINK_LANES_active p)) l
    let m := m.moraineAdd 5 unit cause n
    let m := m.setFld (LINK_LANES_retired p) (m.fld (LINK_LANES_retired p) ||| 2 ^ l)
    if !active || m.portState p = lsDOWN || m.portState p = lsDISABLED then m
    else
      let good := m.goodLanes p
      match widthFor p good.length (min (m.port p).topWidth (portRec m.recs p).2.2.1) with
      | none => m.portDown p dcNO_LANES true
      | some w =>
        let m := (m.setFld (LINK_STATE_width p) w).setFld (LINK_LANES_active p) (laneMask (good.take (widthLanes w)))
        if m.eth p && !ethWidthOk w (m.fld (LINK_STATE_rate p)) then m.portDown p dcETH_WIDTH true
        else (m.setFld (LINK_STATE_state p) lsLANE_DROP).raise (LINK_EVENT_lane_drop p)

/-- The retrain of a lane drop and its new delay measurement end: session, run and numbers carry on, and unacknowledged flits are
sent again (R209). -/
def effLaneDropDone (p : Nat) (trips : List (Nat × Nat × Nat × Nat)) (m : Module) : Module :=
  if m.portState p ≠ lsLANE_DROP || trips.length ≠ 1024 then m
  else
    let m := ((m.sendTrains p trips.length).setFld (LINK_STATE_state p) lsUP).setReg (LINK_DELAY p) (delayOf trips % 2 ^ 20)
    each (m.sessions p) m (fun m s => m.modSess p s (fun x => { x with resend := x.buf }))

/-- The lane that carries a stripe of the flit at a position of its run (R213): the i-th lane in use, with i the stripe modulo
the width; at x16 the flits take the two halves of the lanes in turn. -/
def Module.stripeLane (m : Module) (p pos stripe : Nat) : Nat :=
  let w := widthLanes (m.fld (LINK_STATE_width p))
  let i := if w = 16 then 8 * (pos % 2) + stripe % 8 else stripe % w
  (((List.range (lanesOf p)).filter (fun l => bit (m.fld (LINK_LANES_active p)) l))[i]?).getD i

/-- Charge a failed stripe to its lane; `again` says that it was the resend of a flit that had failed on this lane (R377). What a
recalibration slice catches is charged to none (R481). -/
def Module.stripeFail (m : Module) (p l : Nat) (again : Bool) : Module :=
  let unit := p * 16 + l
  let m := m.notePort p
  if (m.port p).recal then m
  else
  let m := m.count (LINK_LANE_CRC_crc_errors p l) 1
  let m := (m.logEvent clsLINK errLANE_CRC 0 5 unit none none 0).charge 9 unit none
  if again then m.laneRetire p l errRETIRED_REPEAT
  else if m.overThreshold 9 unit then m.laneRetire p l errRETIRED else m

/-! ### Replay (R214) -/

/-- Number of flits of the replay buffers of a port. -/
def Port.held (x : Port) : Nat := x.sess.foldl (fun n s => n + s.2.buf.length) 0

/-- Flits up to `ack` are acknowledged. -/
def Sess.acked (x : Sess) (ack : Nat) : Sess :=
  let keep (f : Flit) : Bool := subMod 16 ack f.seqNo ≥ 2 ^ 15
  { x with buf := x.buf.filter keep, resend := x.resend.filter keep }

/-- A nak arrives with the last good ack. -/
def effNakReceived (p s ack : Nat) (m : Module) : Module :=
  m.modSess p s (fun x => let x := x.acked ack; { x with resend := x.buf })

/-- A numbered flit stayed unacknowledged for 20 µs. -/
def effAckTimeout (p s : Nat) (m : Module) : Module := m.modSess p s (fun x => { x with resend := x.buf })

/-! ### Receiving runs (R215, R217, R222, R231, R233, R234) -/

/-- The kinds of control messages, in the order in which they are sent (R231). -/
def ctrlKinds : List Nat := [ctrlCOMP, ctrlTWIN, ctrlLEASE, ctrlCOLL, ctrlFAULT, ctrlMGMT]

/-- Is a TWIN message of a listed type, with its reserved fields 0? Its 16-byte header is followed by its body; JOIN and the
trailer of a negative hold reserved bytes of their own (R309, R315). -/
def twinMsgOk (b : List Byte) : Bool :=
  let ty := fieldOf b 0 1
  let len := fieldOf b 10 2
  1 ≤ ty && ty ≤ 11 && fieldOf b 1 1 < 2 && fieldOf b 12 4 == 0 && b.length == 16 + len &&
  (ty != 2 || (len == 8 && fieldOf b 22 1 < 2 && fieldOf b 23 1 == 0)) &&
  (ty != 4 || fieldOf b 1 1 == 0 || (40 ≤ len && fieldOf b (len + 4) 1 < 2 && allZero (b.drop (len + 5))))

/-- A message that the rules of the twin discard or ignore (R328). -/
def Module.twinBad (m : Module) : Module := m.count TWIN_BAD_MSG_count 1

/-- A control message received whole: for this module, or to be passed on with one hop less. One of an unlisted kind, or of
more than 4,096 bytes, is none and is discarded. -/
def Module.gotCtrl (m : Module) (p : Nat) (fs : List Flit) : Module :=
  match fs.head? with
  | none => m
  | some f =>
    let kind := f.entry % 256
    let pl := fs.flatMap (·.body)
    if !ctrlKinds.contains kind || (kind = ctrlTWIN && p ≠ 16) then m.raise (LINK_EVENT_ctrl_kind_bad p)
    else if pl.length > 4096 then m
    else if kind = ctrlTWIN && !twinMsgOk pl then m.twinBad
    else if f.dst = m.selfId || kind = ctrlTWIN then
      { m with inbox := m.inbox ++ [{ src := f.src, dst := f.dst, kind := kind, hops := f.hops, port := p, payload := pl }] }
    else if f.hops = 0 then (m.count (LINK_DROP_ttl_expired p) fs.length).raise (LINK_EVENT_ttl_expired p)
    else { m with ctrlQ := m.ctrlQ ++ [{ src := f.src, dst := f.dst, kind := kind, hops := f.hops - 1, port := p, payload := pl }] }

/-- The transit entry of this module for an entry ID: port and session. -/
def transitOf (r : Recs) (entry : Nat) : Option (Nat × Nat) :=
  ((recsOf r 0x0701).find? (fun e => e.1 % 65536 == entry && fieldOf e.2 8 1 == 1)).map (fun e => (e.1 / 65536 % 256, fieldOf e.2 10 1))

/-- A DATA flit delivered in order. -/
def Module.gotData (m : Module) (p : Nat) (f : Flit) : Module :=
  if f.dst = m.selfId then m.dataHere p f
  else if f.hops = 0 then (m.count (LINK_DROP_ttl_expired p) 1).raise (LINK_EVENT_ttl_expired p)
  else match transitOf m.recs f.entry with
    | some (q, s) => m.modPort q (fun x => { x with data := x.data ++ [(s, { f with hops := f.hops - 1 })] })
    | none => (m.count (LINK_SCHED_MISS_count p) 1).raise (LINK_EVENT_sched_miss p)

/-- One flit of a verified run. A flit of a reserved type is discarded, header and all (R212). -/
def Module.gotFlit (m : Module) (p s : Nat) (f : Flit) : Module :=
  if f.ty ≥ 7 then m
  else
  let m := if f.ackValid then m.modSess p s (·.acked f.ack) else m
  let m := if f.nak then m.modSess p s (fun x => { x with resend := x.buf }) else m
  if f.ty ≠ 1 && f.ty ≠ 2 then m
  else
    let m := m.modSess p s (fun x => { x with ackDue := true })
    let x := m.sess p s
    if f.seqNo ≠ x.rx then
      if subMod 16 f.seqNo x.rx < 2 ^ 15 then m.modSess p s (fun x => { x with nakDue := true }) else m
    else
      let m := m.modSess p s (fun x => { x with rx := (x.rx + 1) % 2 ^ 16 })
      if f.ty = 1 then m.gotData p f
      else
        let asm := (if f.first then [] else x.asm) ++ [f]
        if f.last then (m.modSess p s (fun x => { x with asm := [] })).gotCtrl p asm
        else m.modSess p s (fun x => { x with asm := asm })

/-- Account for a run whose tag failed (R222). -/
def Module.tagFailed (m : Module) (p : Nat) : Module :=
  let m := (m.raise (LINK_EVENT_tag_fail p)).logEvent clsLINK errTAG_FAIL 0 7 p none none 0
  let perSecond := 1000000000 / periodNs m.recs
  let l := ((m.port p).tagFails.filter (fun f => subMod 48 m.F f < perSecond)) ++ [m.F]
  let m := m.modPort p (fun x => { x with tagFails := l })
  if l.length ≥ 16 then m.portDown p dcCRYPTO true else m

/-- The flits at the front of a session's accepted frames that can be of one run: positions rise. -/
def runFront : Nat → List (List Byte) → List (List Byte)
  | _, [] => []
  | k, r :: rest => let pos := fieldOf r 0 1 / 16; if k ≤ pos then r :: runFront (pos + 1) rest else []

/-- The flits of a run arrive: on a direct port those of the command, each of 256 bytes; on an Ethernet port those that the
accepted frames brought (R223). `skip` runs before it were lost whole; `resent` lists the positions that were resends (R377).
The run is delivered when every stripe CRC is right, all 16 flits are there, and the tag verifies under the key of R216. -/
def effRunReceived (p s skip : Nat) (resent : List Nat) (raws : List (List Byte)) (m : Module) : Module :=
  if p > 16 || !m.sessUp p s then m
  else
    let x := m.sess p s
    let raws := if m.eth p then runFront 0 x.rxq else raws.take 16
    if raws.isEmpty then m
    else
    let m := m.modSess p s (fun y => { y with rxq := if m.eth p then y.rxq.drop raws.length else y.rxq, rxRun := y.rxRun + skip + 1 })
    -- number, lane, and whether a resend failed on the lane on which the flit had failed before
    let bad := raws.zipIdx.flatMap (fun e => (badStripes e.1).map (fun st =>
      let k := (fieldOf e.1 2 2, m.stripeLane p e.2 st)
      (k, resent.contains e.2 && x.failed.contains k)))
    let m := each bad m (fun m e => m.stripeFail p e.1.2 e.2)
    let m := m.modSess p s (fun y => { y with failed := bad.foldl (fun l e => if l.contains e.1 then l else l ++ [e.1]) y.failed })
    let whole := raws.length == 16 && raws.zipIdx.all (fun e => e.1.length == 256 && fieldOf e.1 0 1 / 16 == e.2)
    let key := m.rxKey p s
    let c := x.rxRun + skip
    let run := raws.map (fun r => (r.take 16, (r.drop 16).take 208))
    let good := runTag key x.peerEpoch c run == ((raws.getD 15 []).drop 224).take 16
    if whole && bad.isEmpty && good then
      let m := each run.zipIdx m (fun m e => m.gotFlit p s (Flit.ofBytes e.1.1 (sealBody key x.peerEpoch c e.2 e.1.2)))
      -- what has been delivered has no failure left
      m.modSess p s (fun y => { y with failed := y.failed.filter (fun k => subMod 16 k.1 y.rx < 2 ^ 15) })
    else
      let m := (m.modSess p s (fun y => { y with nakDue := true })).count (LINK_TAG_FAIL_count p) 1
      let m := m.notePort p
      if whole && bad.isEmpty then m.tagFailed p else m

/-! ### Ethernet frames (R223, R225) -/

/-- An Ethernet frame arrives with its bytes: one with a bad check sequence, a wrong version or a reserved field set is
discarded; otherwise its flits go to the session that its source address names. Those of a handshake belong to no run: AUTH_RECEIVED and
PROOF_RECEIVED bring what they hold. -/
def effEthFrameReceived (p : Nat) (frame : List Byte) (m : Module) : Module :=
  if !m.eth p then m
  else match frameParse frame with
    | none => m
    | some (src, fs) =>
      match (m.sessions p).find? (fun s => let x := sessPeer m.recs p s; macOf x.1 x.2 == src) with
      | some s => m.modSess p s (fun x => { x with rxq := x.rxq ++ fs.filter (fun f => let ty := fieldOf f 0 1 % 16; ty != 4 && ty != 5) })
      | none => m

/-- 64 ns after the first flit. -/
def effEthFrameTimeout (p s : Nat) (m : Module) : Module := if m.eth p && m.portUp p then m.sendFrame p s else m

/-! ### Sending (R214, R228 to R231) -/

/-- Send a new numbered flit: it takes the next number and stays in the replay buffer. -/
def Module.sendNew (m : Module) (p s slot : Nat) (f : Flit) : Module :=
  let f := { m.stamp p s slot f with seqNo := (m.sess p s).tx }
  let m := m.modSess p s (fun x => { x with tx := (x.tx + 1) % 2 ^ 16, buf := x.buf ++ [f], nakDue := false })
  m.wire p s f

/-- Flits of a port in a slot of `d` ns at its width and rate: all of them, and those that scheduled data may take (R228). -/
def Module.slotCap (m : Module) (p d : Nat) : Nat × Nat :=
  let b4 := widthLanes (m.fld (LINK_STATE_width p)) * 25 * 2 ^ m.fld (LINK_STATE_rate p)
  let n := (portRec m.recs p).2.2.2.2
  let c := if m.eth p then (d - 16) * b4 * n / (4 * (256 * n + 46)) else (d - 16) * b4 / 1024
  (d * b4 / 1024, c)

/-- Bounds of a slot in ns (R227). -/
def slotLen (period k : Nat) : Nat := (k + 1) * period / 64 - k * period / 64

/-- The schedule entry that owns a slot of a port: entry ID, whether it is a transit entry, and its session. -/
def slotEntry (r : Recs) (p k : Nat) : Option (Nat × Bool × Nat) :=
  ((recsOf r 0x0701).find? (fun e => e.1 / 65536 % 256 == p && fieldOf e.2 8 1 ≤ 1 && bit (fieldOf e.2 16 8) k)).map
    (fun e => (e.1 % 65536, fieldOf e.2 8 1 == 1, fieldOf e.2 10 1))

/-- Body of a tick mark (R236); `launch` is the time from the edge to its first bit, in 1/16 ns. -/
def Module.markBody (m : Module) (tree launch : Nat) : List Byte :=
  let root := match recOf m.recs 0x0102 tree with | some v => fieldOf v 16 2 | none => m.selfId
  let atRoot := match recOf m.recs 0x0102 tree with | some v => fieldOf v 8 1 == 1 | none => true
  let hop := if atRoot then 0 else if tree = b2n m.tick.onBackup && m.tick.role != 3 then m.tick.depth else m.tick.otherHop
  leBytes 6 m.F ++ leBytes 2 root ++ leBytes 1 tree ++ leBytes 1 hop ++ leBytes 2 launch ++ leBytes 4 (periodNs m.recs)

/-- Resend up to `n` flits of a port's sessions, in order; what is left of `n` comes back. -/
def Module.resendUpTo (m : Module) (p slot : Nat) (n : Nat) : Module × Nat :=
  (m.port p).sess.foldl (fun (acc : Module × Nat) e =>
    let (m, left) := acc
    let l := e.2.resend.take (min left (m.mayFlits p e.1))
    let m := m.modSess p e.1 (fun x => { x with resend := x.resend.drop l.length })
    let m := each l m (fun m f => (m.wire p e.1 { m.stamp p e.1 slot f with seqNo := f.seqNo }).modSess p e.1 (fun x => { x with nakDue := false }))
    let m := if l.isEmpty then m else m.notePort p
    let m := (m.count (LINK_REPLAY_count p) l.length).modPort p (fun x => { x with unsched := x.unsched + l.length })
    (m, left - l.length)) (m, n)

/-- Send scheduled DATA of the slot's entry, at most `n` flits and as far as the replay buffer has room. -/
def Module.sendData (m : Module) (p slot n : Nat) : Module × Nat :=
  let n := min n (8192 - (m.port p).held)
  match slotEntry m.recs p slot with
  | none => (m, 0)
  | some (entry, transit, s) =>
    let n := min n (m.mayFlits p s)
    if n = 0 then (m, 0)
    else
      let (m, fs) : Module × List Flit :=
        if transit then
          let mine := ((m.port p).data.filter (fun f => f.2.entry == entry)).take n
          let rest := ((m.port p).data.foldl (fun (acc : List (Nat × Flit) × Nat) f =>
            if f.2.entry = entry && acc.2 > 0 then (acc.1, acc.2 - 1) else (acc.1 ++ [f], acc.2)) ([], mine.length)).1
          (m.modPort p (fun x => { x with data := rest }), mine.map (·.2))
        else m.collSlot p entry n
      let m := each fs m (fun m f => m.sendNew p s slot f)
      (m.modPort p (fun x => { x with sched := x.sched + fs.length }), fs.length)

/-- IDLE flits fill what is left of a slot. On an Ethernet port they first complete the runs begun and carry a waiting ack or nak.
DESIGN CHOICE (log entry 81): the rest goes to the lowest-numbered session that is UP. -/
def Module.slotIdle (m : Module) (p slot left : Nat) : Module :=
  if !m.eth p then m.sendIdle p 0 slot left
  else
    let (m, left) := (m.sessions p).foldl (fun (acc : Module × Nat) s =>
      let x := acc.1.sess p s
      let n := min acc.2 (if !x.txRun.isEmpty then 16 - x.txRun.length else if x.ackDue || x.nakDue then 16 else 0)
      (acc.1.sendIdle p s slot n, acc.2 - n)) (m, left)
    match (m.sessions p).find? (fun s => m.maySend p s) with
    | some s => m.sendIdle p s slot left
    | none => m

/-! ### PTP messages (R36, R226) -/

def ptpSYNC : Nat := 0
def ptpDELAY_REQ : Nat := 1
def ptpFOLLOW_UP : Nat := 8
def ptpDELAY_RESP : Nat := 9

/-- PTP time in ns at which frame `f` begins by the change point. -/
def Module.frameTime (m : Module) (f : Nat) : Int :=
  (m.tick.changeSec : Int) * 10 ^ 9 + m.tick.changeNs + ((f : Int) - m.tick.changeFrame) * periodNs m.recs

/-- A PTP timestamp: seconds and nanoseconds. -/
def ptpTime (t : Int) : List Byte := beBytes 6 (t / 10 ^ 9).toNat ++ beBytes 4 (t % 10 ^ 9).toNat

/-- The frame of a PTP message that port `p` of module `mid` sends in a domain. PRESUMED (log entry 99): the addresses and the layout
of the message are those of IEEE 1588 over Ethernet; a Sync is a two-step one. -/
def ptpFrame (mid p domain : Nat) (x : PtpMsg) : List Byte :=
  let mac := macOf mid p
  let body := match x.kind with
    | 8 => ptpTime x.stamp
    | 9 => ptpTime x.stamp ++ beBytes 10 x.ident
    | _ => zeros 10
  let control := match x.kind with | 0 => 0 | 1 => 1 | 8 => 2 | _ => 3
  let interval := match x.kind with | 0 => 0xF9 | 8 => 0xF9 | 1 => 0x7F | _ => 0xFC
  let msg := leBytes 1 x.kind ++ [0x02] ++ beBytes 2 (34 + body.length) ++ leBytes 1 domain ++ [0x00] ++
    (if x.kind = ptpSYNC then [0x02, 0x00] else zeros 2) ++ beBytes 8 (unsigned 64 (65536 * x.corr)) ++ zeros 4 ++
    (mac.take 3 ++ [0xFF, 0xFE] ++ mac.drop 3) ++ beBytes 2 (p + 1) ++ beBytes 2 x.seqNo ++ leBytes 1 control ++ leBytes 1 interval ++ body
  let b := [0x01, 0x1B, 0x19, 0x00, 0x00, 0x00] ++ mac ++ [0x88, 0xF7] ++ msg ++ zeros (46 - msg.length)
  b ++ leBytes 4 (crc32 b)

/-- The next PTP message of a port goes out; when it is a Sync, its Follow_Up carries the time of its slot. -/
def Module.ptpNext (m : Module) (p launch : Nat) : Module :=
  match (m.port p).ptp with
  | [] => m
  | x :: rest =>
    let sent := m.frameTime m.F + launch
    let rest := if x.kind = ptpSYNC then rest.map (fun y => if y.kind = ptpFOLLOW_UP ∧ y.seqNo = x.seqNo then { y with stamp := sent } else y) else rest
    (m.modPort p (fun y => { y with ptp := rest })).emit (.ptp p x.kind x.seqNo (ptpFrame m.selfId p (paramDomain m.recs) x))

/-- Up to `n` control flits of a port, in order, while their session may go on (R221); their number comes back. -/
def Module.sendCtrlFlits (m : Module) (p slot : Nat) : Nat → Module × Nat
  | 0 => (m, 0)
  | n + 1 =>
    match (m.port p).ctrl with
    | [] => (m, 0)
    | f :: rest =>
      if !m.maySend p f.sess then (m, 0)
      else
        let r := Module.sendCtrlFlits ((m.modPort p (fun x => { x with ctrl := rest, unsched := x.unsched + 1 })).sendNew p f.sess slot f.flit) p slot n
        (r.1, r.2 + 1)

/-- Time of a flit on a port, in 1/16 ns, rounded down (R207). -/
def Module.flitTime (m : Module) (p : Nat) : Nat := 16384 / (widthLanes (m.fld (LINK_STATE_width p)) * 25 * 2 ^ m.fld (LINK_STATE_rate p))

/-- A slot of the sender's frame begins (R229); a port in its recalibration slice sends nothing (R481), nor does port 16 without a
twin (R496). `launch` is the time from the edge to the first bit that leaves, in 1/16 ns; of two tick marks the second leaves a flit
time later. -/
def effSlotStart (p slot launch : Nat) (m : Module) : Module :=
  if p > 16 || slot ≥ 64 then m
  else
  let m := m.modPort p (fun x => { x with slot := slot })
  if !m.portUp p || !m.drives p then m
  else
    let (total, cap) := m.slotCap p (slotLen (periodNs m.recs) slot)
    let cap := if m.tick.slotsHeld then 0 else cap
    -- 1: tick marks
    let marks := if m.maySend p 0 then (m.port p).tickDue else []
    let m := m.modPort p (fun x => { x with tickDue := [] })
    let marks := marks.take (m.mayFlits p 0)
    let m := each marks.zipIdx m (fun m t => m.wire p 0 (m.stamp p 0 slot (plainFlit 3 m.selfId (m.markBody t.1 (launch + t.2 * m.flitTime p)))))
    let left := total - marks.length
    -- 2: resends
    let (m, left') := m.resendUpTo p slot left
    let used := marks.length + (left - left')
    -- 3: scheduled data
    let (m, nd) := m.sendData p slot (cap - used)
    let left := left' - nd
    -- 4: PTP
    let np := min left (m.port p).ptp.length
    let m := each (List.range np) m (fun m _ => m.ptpNext p launch)
    let left := left - np
    -- 5: control messages, as far as the replay buffer has room
    let room := min left (8192 - (m.port p).held)
    let (m, nc) := m.sendCtrlFlits p slot room
    -- 6: idle flits
    m.slotIdle p slot (left - nc)

/-! ### Routing (R231 to R233) -/

/-- The four paths of a destination: port and session; port 0x1F is none. -/
def routePaths (r : Recs) (dst : Nat) : List (Nat × Nat) :=
  match recOf r 0x0604 (dst / 256) with
  | none => []
  | some v => (List.range 4).map (fun i => let x := fieldOf v (8 + (dst % 256) * 8 + 2 * i) 2; (bits x 0 5, bits x 5 4))

/-- Order in which kinds are sent (R231). -/
def kindRank (k : Nat) : Nat :=
  match ctrlKinds.idxOf? k with | some i => i | none => 6

/-- The flits of a control message. -/
def ctrlFlits (c : CtrlMsg) : List Flit :=
  let ps := if c.payload.isEmpty then [[]] else chunks 208 c.payload
  ps.zipIdx.map (fun p =>
    { ty := 2, pos := 0, first := p.2 == 0, last := p.2 + 1 == ps.length, sched := false, seqNo := 0, ack := 0, ackValid := false, nak := false,
      hops := c.hops, slot := 0, dst := c.dst, src := c.src, entry := c.kind, body := p.1 })

/-- Put flits of a message behind those of its kind and of earlier kinds, never inside a message. -/
def placeCtrl (q new : List CtrlOut) : List CtrlOut :=
  let part := match q.head? with
    | some f => if f.flit.first then 0 else (q.takeWhile (fun f => !f.flit.last)).length + 1
    | none => 0
  q.take part ++ sortBy (fun f => kindRank (f.flit.entry % 256)) (q.drop part ++ new)

/-- A message waits on a port and session. -/
def Module.queueCtrl (m : Module) (p s : Nat) (c : CtrlMsg) : Module :=
  m.modPort p (fun x => { x with ctrl := placeCtrl x.ctrl ((ctrlFlits c).map (fun f => { sess := s, from_ := c.port, flit := f })) })

/-- The oldest waiting control message takes its path, or is dropped as unroutable. -/
def effMessageRoute (m : Module) : Module :=
  match m.ctrlQ with
  | [] => m
  | c :: rest =>
    let m := { m with ctrlQ := rest }
    if c.kind = ctrlTWIN then
      if m.sessUp 16 0 then m.queueCtrl 16 0 c
      else (m.count (LINK_DROP_unroutable 16) 1).raise (LINK_EVENT_unroutable 16)
    else if c.dst = m.selfId then { m with inbox := m.inbox ++ [c] }
    else
      let paths := routePaths m.recs c.dst
      let up := paths.filter (fun x => x.1 ≤ 16 && m.sessUp x.1 x.2)
      if up.isEmpty then
        let p := if c.port ≤ 16 then some c.port else (paths.head?.map (·.1)).filter (· ≤ 16)
        match p with
        | some p => (m.count (LINK_DROP_unroutable p) 1).raise (LINK_EVENT_unroutable p)
        | none => m
      else
        let (p, s) := up.getD ((c.src + c.dst + c.kind) % up.length) (0, 0)
        m.queueCtrl p s c

/-- Take the oldest delivered message of a kind out of the inbox. -/
def Module.takeInbox (m : Module) (kind : Nat) : Module :=
  { m with inbox := (takeFirst (fun (c : CtrlMsg) => c.kind == kind) m.inbox).2 }

/-- The edge: what the ports show of the frame that ended. -/
def Module.linksEdge (m : Module) : Module :=
  each m.links m (fun m e =>
    let m := (m.setFld (LINK_UTIL_sched e.1) (min e.2.sched 65535)).setFld (LINK_UTIL_unsched e.1) (min e.2.unsched 65535)
    m.modPort e.1 (fun x => { x with sched := 0, unsched := 0, recal := false, slot := 0 }))

/-! ### Twin cable (R496) -/

/-- TWIN_PRESENT_N changes. -/
def effTwinPresent (present : Bool) (m : Module) : Module :=
  ({ m with pins := { m.pins with twinPresent := present } }).setFld GLB_BOARD_twin_present (b2n present)

/-! ### Seam lane groups (R202 to R204) -/

/-- Unit identifier of a seam lane group (R390). -/
def groupUnit (d k dir g : Nat) : Nat := (d * 5 + k) * 128 + dir * 64 + g

/-- Show a seam. -/
def Module.seamShow (m : Module) (d k : Nat) : Module :=
  let (ai, si) := m.groupsNow d k 0
  let (ao, so) := m.groupsNow d k 1
  let m := (m.setFld (MEM_SEAM_STATE_act_in d k) ai).setFld (MEM_SEAM_STATE_act_out d k) ao
  let m := (m.setFld (MEM_SEAM_STATE_spare_in d k) si).setFld (MEM_SEAM_STATE_spare_out d k) so
  if m.fld (MEM_SEAM_STATE_state d k) = 2 then m
  else m.setFld (MEM_SEAM_STATE_state d k) (if ai < 32 || ao < 32 then 1 else 0)

/-- A seam with fewer than 24 active groups in a direction is retired at the next edge. -/
def Module.seamCut (m : Module) (d k dir : Nat) : Module :=
  match decide ((m.groupsNow d k dir).fst < 24) with
  | true => { m with seams := { m.seams with cut := insertU m.seams.cut (d * 5 + k) } }
  | false => m

/-- A group is retired at once. -/
def Module.groupRetire (m : Module) (d k dir g cause : Nat) : Module :=
  let unit := groupUnit d k dir g
  if m.retired 6 unit then m
  else
    let n := match m.ras.hist.get? (10 * 2 ^ 16 + unit) with | some h => h.count | none => 0
    let m := m.moraineAdd 6 unit cause n
    let m := { m with seams := { m.seams with gone := m.seams.gone ++ [unit], pend := m.seams.pend ++ [unit] } }
    let m := m.seamShow d k
    m.seamCut d k dir

/-- A flit fails its CRC on a group of a seam direction (0 in, 1 out) and is replayed; `again` says that it was a replay. -/
def effSeamCrcFail (d k dir g : Nat) (again : Bool) (m : Module) : Module :=
  if d ≥ 4 || k ≥ 5 || dir ≥ 2 || g ≥ 34 then m
  else
    let unit := groupUnit d k dir g
    let m := { m with seams := { m.seams with inj := m.seams.inj.filter (· != (d * 5 + k) * 2 + dir) } }
    let m := m.count (if dir = 0 then MEM_SEAM_REPLAY_replays_in d k else MEM_SEAM_REPLAY_replays_out d k) 1
    let m := (m.logEvent clsSEAM errSEAM_CRC 0 6 unit none none 0).charge 10 unit none
    if again then m.groupRetire d k dir g errRETIRED_REPEAT
    else if m.overThreshold 10 unit then m.groupRetire d k dir g errRETIRED else m

/-- MEM_SEAM_CTRL.inj_crc: the next flit in each direction fails once. -/
def effSeamInjCrc (d k : Nat) (m : Module) : Module :=
  { m with seams := { m.seams with inj := insertU (insertU m.seams.inj ((d * 5 + k) * 2)) ((d * 5 + k) * 2 + 1) } }

/-- Are both seams of a compute die retired, or about to be? -/
def Module.dieCut (m : Module) (c : Nat) : Bool :=
  ((List.range 20).filter (fun i => seamNode (i / 5) (i % 5) == .comp c)).all (fun i => m.seamGone i || m.seams.cut.contains i)

/-- Step 3: a compute die that has lost both seams, or loses the second at this edge, loses its cores and steward cores, with
cause DIE_CUT (R204); its own RESERVE cores are not promoted for them. -/
def Module.cutDies (m : Module) : Module :=
  if m.seams.gone.isEmpty then m
  else (List.range 8).foldl (fun m c =>
    if m.dieCut c then
      let m := m.setRas (fun r => { r with reserve := r.reserve.filter (fun x => x / 128 != c) })
      let m := (List.range 128).foldl (fun m i => m.decideRetire 1 (c * 128 + i) errDIE_CUT 0) m
      (List.range 8).foldl (fun m i => m.decideRetire 2 (c * 8 + i) errDIE_CUT 0) m
    else m) m

/-- The edge: spares replace the groups retired in the frame, and seams below 24 groups are retired. -/
def Module.seamsEdge (m : Module) : Module :=
  let p := m.seams.pend
  let cut := m.seams.cut
  let m := { m with seams := { m.seams with pend := [], cut := [] } }
  let m := each cut m (fun m i => m.setFld (MEM_SEAM_STATE_state (i / 5) (i % 5)) 2)
  (each p m (fun m u => m.seamShow (u / 128 / 5) (u / 128 % 5))).loadEdge

end Sys2Proof.Machine
end

