-- ==== Sys2Proof/Machine/Ticks.lean ====
section
/-!
DEFINITION. Tick distribution (R32 to R43, R236, R237, R499): the module's role in its trees, marks, PTP, holdover, re-lock
and the reference pulse. Offsets are the module's own edge less its upstream's, so a late own edge is positive (log entry 40).
-/
namespace Sys2Proof.Machine

/-- What a TREE record says: root or not, source, up port, depth, down ports, root's module ID. -/
structure TreeRec where
  root : Bool
  source : Nat
  up : Nat
  depth : Nat
  down : Nat
  rootId : Nat
  deriving DecidableEq, Repr

/-- The TREE record of a tree (R264). -/
def treeRec (r : Recs) (tree : Nat) : Option TreeRec :=
  (recOf r 0x0102 tree).map (fun v =>
    { root := fieldOf v 8 1 == 1, source := fieldOf v 9 1, up := fieldOf v 10 1, depth := fieldOf v 11 1, down := fieldOf v 12 4,
      rootId := fieldOf v 16 2 })

/-- The PARAM record's switches: follow TICK_REF, in a span, PTP domain. -/
def paramExtRef (r : Recs) : Bool := match recOf r 0x0101 0 with | some v => bmap v 14 0 | none => false
def paramInSpan (r : Recs) : Bool := match recOf r 0x0101 0 with | some v => bmap v 14 1 | none => false

/-- Does the module follow a tree by marks, or by PTP? -/
def TreeRec.byMarks (t : TreeRec) : Bool := !t.root && t.source == 0
def TreeRec.byPtp (t : TreeRec) : Bool := !t.root && t.source == 1

/-- Number of the tree that the module follows: 0 primary, 1 backup. -/
def Module.followed (m : Module) : Nat := b2n m.tick.onBackup

/-- The tick's role (R43) from the TREE records; a module whose records name no tree is its own tick master (R42). -/
def tickRole (r : Recs) : Nat :=
  match treeRec r 0, treeRec r 1 with
  | none, none => 1
  | some p, _ => if p.root then 1 else match treeRec r 1 with | some b => if b.root then 2 else 0 | none => 0
  | none, some b => if b.root then 1 else 0

/-- The change point that a PARAM record names: Fc and Tc (R264). -/
def namedPoint (r : Recs) : Option (Nat × Nat × Nat) := (recOf r 0x0101 0).map (fun v => (fieldOf v 20 6, fieldOf v 32 6, fieldOf v 38 4))

/-- The change point: the one that the records name, or, when the period changes at frame `f`, the point recorded then (R37). Records
that name no new one leave the point. -/
def changePoint (old new : Recs) (t : Tick) (f : Nat) : Nat × Nat × Nat :=
  if periodNs old ≠ periodNs new && t.changeFrame ≤ f && (recOf old 0x0101 0).isSome then
    let ns := t.changeNs + (f - t.changeFrame) * periodNs old
    (f, t.changeSec + ns / 10 ^ 9, ns % 10 ^ 9)
  else if namedPoint old == namedPoint new then (t.changeFrame, t.changeSec, t.changeNs)
  else (namedPoint new).getD (t.changeFrame, t.changeSec, t.changeNs)

/-- Is a tree followed by PTP? -/
def treeByPtp (r : Recs) (tree : Nat) : Bool := match treeRec r tree with | some x => x.byPtp | none => false

/-- TICK records come into force at the edge that begins frame `f` (R34, R42). -/
def Module.applyTick (m : Module) (old : Recs) (f : Nat) : Module :=
  let r := m.recs
  let role := tickRole r
  let c := changePoint old r m.tick f
  let depthOf (tree : Nat) : Nat := match treeRec r tree with | some t => t.depth | none => 0
  m.setTick (fun t => { t with
    role := role, ptpMode := treeByPtp r 0, onBackup := false, toBackup := false,
    depth := if role = 1 then 0 else depthOf 0, otherHop := depthOf 1,
    state := if role = 1 then .freeRun else t.state,
    extRef := t.extRef && role == 1 && paramExtRef r,
    slotsHeld := if role = 1 then false else t.slotsHeld,
    missed := 0, missedBackup := 0, beyond := 0, refMissed := 0,
    holdoverUs := if role = 1 then 0 else t.holdoverUs,
    changeFrame := c.1, changeSec := c.2.1, changeNs := c.2.2 })

/-! ### Bounds (R33, R37, R39) -/

/-- The skew bound: 200 ns in a span, else 20 ns per hop. -/
def Module.skewBound (m : Module) : Nat := if paramInSpan m.recs then 200 else 20 * m.tick.depth

/-- The module's share of the skew: 140 ns for a pod root that follows PTP, else 20 ns per hop. -/
def Module.skewShare (m : Module) : Nat := if m.tick.ptpMode then 140 else 20 * m.tick.depth

/-- The slowest block clock in MHz. -/
def Module.slowestMHz (m : Module) : Nat := (List.range 64).foldl (fun a b => min a (m.blockMHz (b * 16))) 1000

/-- May scheduled slots be used: skew bound and 2 ns for every millisecond of holdover within half the window (R39)? -/
def Module.slotsAllowed (m : Module) : Bool :=
  decide ((m.skewBound + 2 * (m.tick.holdoverUs / 1000)) * m.slowestMHz ≤ windowAc m.recs * 500)

/-! ### Marks (R33, R34, R237) -/

/-- Act on an offset against the upstream: `up` is the upstream's frame number at the edge before the coming one. -/
def Module.tickOffset (m : Module) (ns : Int) (up : Nat) (hop : Nat) : Module :=
  match m.tick.state with
  | .freeRun | .acquiring =>
    m.setTick (fun t => { t with state := .acquiring, offsetNs := ns, nextShift := - ns, jump := some (frameAdd up 1), depth := hop })
  | .locked => m.setTick (fun t => { t with offsetNs := ns, nextShift := - ns, depth := hop })
  | .holdover | .orphan => m.setTick (fun t => { t with offsetNs := ns, depth := hop })

/-- A verified TICK flit: its fields, and its arrival in 1/16 ns after the own edge that began the present frame. -/
def effTickMarkReceived (p frame root tree hop launch : Nat) (arrival : Int) (m : Module) : Module :=
  match treeRec m.recs tree with
  | none => m
  | some x =>
    if tree > 1 || !x.byMarks || x.up ≠ p || m.eth p || x.rootId ≠ root then m
    else
      let m := m.setTick (fun t =>
        if tree ≠ b2n t.onBackup then { t with backupSeen := true, otherHop := hop + 1 }
        -- the backup master that became the root of its tree still passes on the primary marks it receives
        else if t.role = 3 then { t with markSeen := true, otherHop := hop + 1 }
        else { t with markSeen := true })
      if tree ≠ m.followed || m.tick.role = 1 || m.tick.role = 3 then m
      else
        let edge : Int := arrival - (m.fld (LINK_DELAY_delay p) : Int) - launch
        let jumpy := m.tick.state == .freeRun || m.tick.state == .acquiring || m.tick.state == .orphan
        let own : Int := if jumpy then 0 else ((subMod 48 frame m.F : Nat) : Int) * periodNs m.recs * 16
        let own : Int := if jumpy || frameGe frame m.F then own else - (((subMod 48 m.F frame : Nat) : Int) * periodNs m.recs * 16)
        m.tickOffset ((own - edge) / 16) frame (hop + 1)

/-- Four frames without a valid primary mark: the backup master becomes the root of the backup tree; a follower that
receives backup marks moves to the backup tree at its next edge. -/
def effTickMarkTimeout (m : Module) : Module :=
  if m.tick.missed < 4 then m
  else if m.tick.role = 2 then
    (m.setTick (fun t => { t with role := 3, state := .freeRun, ptpMode := false, otherHop := t.depth, depth := 0, nextShift := 0, jump := none })).raise TICK_EVENT_tree_switch
  else if m.tick.role = 0 && !m.tick.onBackup && m.tick.missedBackup = 0 && (treeRec m.recs 1).isSome then
    m.setTick (fun t => { t with toBackup := true })
  else m

/-! ### Holdover (R38 to R41) -/

/-- Is the tick source lost? -/
def Module.tickLost (m : Module) : Bool :=
  m.tick.role = 0 && m.tick.missed ≥ 4 && (m.tick.ptpMode || m.tick.missedBackup ≥ 4)

def effHoldoverEnter (m : Module) : Module :=
  if !m.tickLost || !(m.tick.state == .locked || m.tick.state == .acquiring) then m
  else
    let m := m.setTick (fun t => { t with state := .holdover, holdoverUs := 0, nextShift := 0, jump := none, toBackup := false })
    let m := m.raiseIf TICK_EVENT_holdover_entered (m.flag TICK_CTRL_holdover_irq_en)
    let root := match treeRec m.recs m.followed with | some t => t.rootId | none => 0
    let m := m.logEvent clsPEER errTICK_LOST 0 0 0 none none 0
    m.report clsPEER errTICK_LOST 0 0 root

def effSlotsHeld (m : Module) : Module :=
  if m.tick.state == .holdover && !m.slotsAllowed then m.setTick (fun t => { t with slotsHeld := true }) else m

/-- Has a mark or Sync arrived in this frame? -/
def Module.sourceBack (m : Module) : Bool := m.tick.markSeen || m.tick.syncSeen

/-- One frame's correction after the source returned within a second: at most 100 ns, until the offset is in its bound. DESIGN
CHOICE (log entry 74): a correction that is not done when the second ends is given up, and R41 applies. -/
def effRelock (m : Module) : Module :=
  if m.tick.state != .holdover || !m.sourceBack || m.tick.holdoverUs > 1000000 then m
  else if m.tick.offsetNs.natAbs ≤ m.skewBound then
    (m.setTick (fun t => { t with state := .locked, holdoverUs := 0, nextShift := - t.offsetNs })).raise TICK_EVENT_relocked
  else m.setTick (fun t => { t with nextShift := max (-100) (min 100 (- t.offsetNs)) })

def effTickOrphan (m : Module) : Module :=
  if m.tick.state == .holdover && m.tick.holdoverUs ≥ 1000000 then
    (m.setTick (fun t => { t with state := .orphan, slotsHeld := true, nextShift := 0 })).raiseIf TICK_EVENT_orphan (m.flag TICK_CTRL_orphan_irq_en)
  else m

/-- A write of TICK_CTRL.relock; `up` is the upstream's present frame number. DESIGN CHOICE (log entry 75): it acts whether or
not a source has returned. -/
def effTickRelockRequest (up : Nat) (m : Module) : Module :=
  if m.tick.state != .orphan then m
  else if (bindsOf m.recs).any (fun e =>
      (match recOf m.recs 0x0401 e.1 with | some v => vdRemote v m.selfId | none => false) || twinMode m.recs e.1 ≠ 0) then
    m.raise TICK_EVENT_relock_refused
  else m.setTick (fun t => { t with nextShift := - t.offsetNs, jump := some (frameAdd up 1) })

/-- Sixteen frames beyond the module's share. -/
def effSkewExceeded (m : Module) : Module := if m.tick.beyond ≥ 16 then m.raise TICK_EVENT_skew_exceeded else m

/-! ### TICK_REF_P/N (R35, R499) -/

/-- Does the module follow the reference pulses: the tick master with ext_ref set? -/
def Module.usesRef (m : Module) : Bool := m.tick.role == 1 && paramExtRef m.recs

/-- A rising edge, `off` ns after the edge expected of the module's own tick. -/
def effTickRefPulse (off : Int) (m : Module) : Module :=
  if !m.usesRef || off.natAbs > 1000 then m
  else m.setTick (fun t => { t with extRef := true, refMissed := 0, offsetNs := - off, nextShift := off, syncSeen := true })

def effTickRefLost (m : Module) : Module :=
  if m.usesRef && m.tick.refMissed ≥ 4 then m.setTick (fun t => { t with extRef := false, nextShift := 0 }) else m

/-! ### PTP (R36, R37) -/

/-- Does the module take PTP on this port as a slave? -/
def Module.ptpSlave (m : Module) (p domain : Nat) : Bool :=
  m.eth p && domain == paramDomain m.recs && m.tick.ptpMode &&
  (match treeRec m.recs m.followed with | some t => t.byPtp && t.up == p | none => false)

/-- Is the module a PTP master on this port: a root in a span, on an Ethernet port? -/
def Module.ptpMaster (m : Module) (p : Nat) : Bool := m.eth p && paramInSpan m.recs && (m.tick.role == 1 || m.tick.role == 3)

/-- A Sync is complete: origin time with corrections `t1`, receive time `t2` by the module's own frame time. -/
def Module.ptpTake (m : Module) (t1 t2 : Int) : Module :=
  let m := m.setTick (fun t => { t with ptpT1 := t1, ptpT2 := t2, ptpPendSeq := none, syncSeen := true, markSeen := true, missed := 0 })
  let own := m.frameTime m.F
  let atEdge := t1 + m.tick.ptpDelay - (t2 - own)   -- master's time at the own edge
  if m.tick.state == .freeRun || m.tick.state == .acquiring || m.tick.state == .orphan then
    let k := (atEdge - m.frameTime m.tick.changeFrame) / periodNs m.recs
    let up := unsigned 48 ((m.tick.changeFrame : Int) + k)
    m.tickOffset (atEdge - m.frameTime up) up m.tick.depth
  else m.tickOffset (atEdge - own) m.F m.tick.depth

/-- A Sync arrives: origin time and correction in ns, receive time in ns after the own edge of this frame. -/
def effPtpSyncReceived (p domain seqNo : Nat) (twoStep : Bool) (origin corr rx : Int) (m : Module) : Module :=
  if !m.ptpSlave p domain then m
  else
    let t2 := m.frameTime m.F + rx
    if twoStep then m.setTick (fun t => { t with ptpPendSeq := some seqNo, ptpPendRx := t2 - corr }) else m.ptpTake (origin + corr) t2

def effPtpFollowUpReceived (p domain seqNo : Nat) (origin corr : Int) (m : Module) : Module :=
  if m.ptpSlave p domain && m.tick.ptpPendSeq == some seqNo then m.ptpTake (origin + corr) m.tick.ptpPendRx else m

/-- A Delay_Req arrives, `rx` ns after the own edge of this frame, with its correction and its sender's port identity. -/
def effPtpDelayReqReceived (p domain seqNo ident : Nat) (corr rx : Int) (m : Module) : Module :=
  if m.ptpMaster p && domain == paramDomain m.recs then
    let x : PtpMsg := { kind := ptpDELAY_RESP, seqNo := seqNo, stamp := m.frameTime m.F + rx, corr := corr, ident := ident }
    m.modPort p (fun y => { y with ptp := y.ptp ++ [x] })
  else m

/-- A Delay_Resp to the Delay_Req sent last: the master's receive time with corrections. -/
def effPtpDelayRespReceived (p domain seqNo : Nat) (t4 corr : Int) (m : Module) : Module :=
  if m.ptpSlave p domain && seqNo == subMod 16 m.tick.ptpSeq 1 then
    m.setTick (fun t => { t with ptpDelay := ((t.ptpT2 - t.ptpT1) + (t4 - corr - t.ptpT3)) / 2 })
  else m

/-- A message that answers none and carries no time yet. -/
def ptpPlain (kind seqNo : Nat) : PtpMsg := { kind := kind, seqNo := seqNo, stamp := 0, corr := 0, ident := 0 }

def effPtpSyncSend (p : Nat) (m : Module) : Module :=
  if m.ptpMaster p then
    let q := m.tick.ptpSeq
    (m.modPort p (fun x => { x with ptp := x.ptp ++ [ptpPlain ptpSYNC q, ptpPlain ptpFOLLOW_UP q] })).setTick (fun t => { t with ptpSeq := (q + 1) % 2 ^ 16 })
  else m

/-- A Delay_Req is sent, `tx` ns after the own edge of this frame. -/
def effPtpDelayReqSend (p : Nat) (tx : Int) (m : Module) : Module :=
  if m.ptpSlave p (paramDomain m.recs) then
    let q := m.tick.ptpSeq
    (m.modPort p (fun x => { x with ptp := x.ptp ++ [ptpPlain ptpDELAY_REQ q] })).setTick
      (fun t => { t with ptpSeq := (q + 1) % 2 ^ 16, ptpT3 := m.frameTime m.F + tx })
  else m

/-- No valid Sync for 62.5 ms. -/
def effPtpSyncTimeout (m : Module) : Module := if m.tick.ptpMode && !m.tick.syncSeen then m.setTick (fun t => { t with missed := 4 }) else m

/-! ### The edge -/

/-- The shutter edge of the tick: the next frame number and phase, the counts of the frame that ended after `us` microseconds,
and the marks that fall due on the ports (R237). A frame without a new measurement counts the last one; a module without an
upstream has no share (R37). DESIGN CHOICE (log entry 76): time in holdover is counted by whole frames, the first of them
included. -/
def Module.tickEdge (us : Nat) (m : Module) : Module :=
  let t := m.tick
  let relocked := t.jump.isSome && t.state == .orphan
  let tracked := (t.role = 0 || t.role = 2) && (t.state == .locked || t.state == .acquiring)
  let beyond := if tracked && t.offsetNs.natAbs > m.skewShare then t.beyond + 1 else 0
  let state := if t.jump.isSome then TickState.locked else t.state
  let hold := if state == .holdover || state == .orphan then t.holdoverUs + us else 0
  let sw := t.toBackup
  let own := if t.ptpMode then t.missed else if t.markSeen then 0 else t.missed + 1
  let other := if t.backupSeen then 0 else t.missedBackup + 1
  let m := m.setTick (fun t => { t with
    frame := match t.jump with | some f => f | none => frameAdd t.frame 1,
    ns := 0, phase := .open_, state := state, holdoverUs := hold, beyond := beyond,
    missed := if sw then other else own, missedBackup := if sw then own else other,
    refMissed := if t.syncSeen then 0 else t.refMissed + 1,
    onBackup := t.onBackup || sw, depth := if sw then t.otherHop else t.depth, otherHop := if sw then t.depth else t.otherHop,
    ptpMode := if sw then treeByPtp m.recs 1 else t.ptpMode, toBackup := false, markSeen := false, backupSeen := false, syncSeen := false, nextShift := 0, jump := none })
  let m := if sw then m.raise TICK_EVENT_tree_switch else m
  let m := if relocked then m.raise TICK_EVENT_relocked else m
  let m := m.setTick (fun t => { t with
    slotsHeld := if state == .orphan then true else if state == .holdover then t.slotsHeld else t.slotsHeld && !m.slotsAllowed })
  let due (p : Nat) : List Nat :=
    if m.eth p || m.portState p != lsUP then []
    else [0, 1].filter (fun tree => match treeRec m.recs tree with | some x => bit x.down p | none => false)
  (List.range 17).foldl (fun m p =>
    if (m.port p).tickDue.isEmpty && (due p).isEmpty then m else m.modPort p (fun y => { y with tickDue := due p })) m

end Sys2Proof.Machine
end

