-- ==== Sys2Proof/Machine/ImageCheck.lean ====
section
/-!
DEFINITION. Yuhar images (R261 to R277): the form of header, section table and records (steps 1 to 4 of R271), the records a
delta leaves (R272), and the composition rules of R273 and R503.
-/
namespace Sys2Proof.Machine

/-! ### Rejection codes (R273, R279) -/

def rcSIZE : Nat := 0x01
def rcHEADER : Nat := 0x02
def rcORDER_CODE : Nat := 0x03
def rcTARGET : Nat := 0x04
def rcUNSIGNED : Nat := 0x05
def rcSIG_ECDSA : Nat := 0x06
def rcSIG_HSS : Nat := 0x07
def rcSECTION_TABLE : Nat := 0x08
def rcRECORD : Nat := 0x09
def rcRESERVED_SET : Nat := 0x0A
def rcDUPLICATE_KEY : Nat := 0x0B
def rcMISSING_SECTION : Nat := 0x0C
def rcBASE_MISMATCH : Nat := 0x0D
def rcAPPLY_FRAME : Nat := 0x30
def rcAPPLY_CONFLICT : Nat := 0x31
def rcTOO_LATE : Nat := 0x32
def rcRETIRED : Nat := 0x38
def rcBASE_CHANGED : Nat := 0x39
def rcNOT_ARMED : Nat := 0x3A
def rcCANCELLED : Nat := 0x3B
def rcMISSED : Nat := 0x3C
def rcPROFILE_EMPTY : Nat := 0x3D

/-! ### Header (R261, R268, step 1) -/

def imgKind (b : List Byte) : Nat := fieldOf b 5 1
def imgSections (b : List Byte) : Nat := fieldOf b 6 2
def imgLength (b : List Byte) : Nat := fieldOf b 8 4
def imgSig (b : List Byte) : Nat := fieldOf b 12 4
def imgAnyBase (b : List Byte) : Bool := bmap b 20 0
def imgArmed (b : List Byte) : Bool := bmap b 20 1
def imgApply (b : List Byte) : Nat := fieldOf b 24 6
def imgArmId (b : List Byte) : Nat := fieldOf b 32 4
def imgId (b : List Byte) : Nat := fieldOf b 36 4
def imgTarget (b : List Byte) : List Byte := (b.drop 40).take 16
def imgBase (b : List Byte) : List Byte := (b.drop 56).take 48
def sigBytes : Nat := 5824

/-- The signed message M, or the whole image when unsigned (R267, R275). -/
def imgM (b : List Byte) : List Byte := if imgSig b = 0 then b else b.take (imgSig b)

/-- A section table entry: type, offset, length, records. -/
def imgEntry (b : List Byte) (i : Nat) : Nat × Nat × Nat × Nat :=
  let o := 128 + 16 * i
  (fieldOf b o 2, fieldOf b (o + 4) 4, fieldOf b (o + 8) 4, fieldOf b (o + 12) 4)

def imgEntries (b : List Byte) : List (Nat × Nat × Nat × Nat) := (List.range (min (imgSections b) 11)).map (imgEntry b)

/-- Does the image name a structural section: any but VDS and BINDINGS? -/
def imgStructural (b : List Byte) : Bool := (imgEntries b).any (fun e => e.1 != 4 && e.1 != 5)

/-- The form of a signature block: HEADER or RESERVED_SET (R268). -/
def sigForm (s : List Byte) : Nat :=
  if s.length ≠ sigBytes || fieldOf s 0 4 ≠ 0x4749_5359 || fieldOf s 104 4 ≠ 5716 then rcHEADER
  else if fieldOf s 5 3 ≠ 0 then rcRESERVED_SET else 0

/-- Step 1 of R271; 0 when it passes. -/
def checkHeader (b : List Byte) (orderCode : Nat) (serial : List Byte) : Nat :=
  let kind := imgKind b
  let len := imgLength b
  let sig := imgSig b
  let n := imgSections b
  let form := if sig = 0 then 0 else sigForm (b.drop sig)
  if b.length < 128 || len ≠ b.length || len > (if kind = 1 then 2 ^ 18 else 2 ^ 24) then rcSIZE
  else if fieldOf b 0 4 ≠ 0x3152_4859 || fieldOf b 4 1 ≠ 1 || kind > 1 || n = 0 || n > 11 ||
      (sig ≠ 0 && (sig % 8 ≠ 0 || sig < 128 + 16 * n || sig + sigBytes ≠ len)) || form = rcHEADER ||
      (kind = 0 && (imgApply b ≠ 0 || imgAnyBase b || imgArmed b)) || imgArmed b ≠ (imgArmId b != 0) ||
      bmap b 20 2 ≠ imgStructural b then rcHEADER
  else if fieldOf b 18 2 ≠ 0 || fieldOf b 20 4 ≥ 8 || fieldOf b 30 2 ≠ 0 || !allZero ((b.drop 104).take 24) ||
      ((kind = 0 || imgAnyBase b) && !allZero (imgBase b)) || form = rcRESERVED_SET then rcRESERVED_SET
  else if fieldOf b 16 2 ≠ orderCode then rcORDER_CODE
  else if !allZero (imgTarget b) && imgTarget b != serial then rcTARGET
  else 0

/-! ### Section table (R262, step 3) -/

/-- Do the entries follow one another from a type and an end: types rising, offsets in order, no overlap? -/
def tableOk (stop : Nat) : Nat → Nat → List (Nat × Nat × Nat × Nat) → Bool
  | _, _, [] => true
  | ty, pos, e :: rest =>
    decide (ty < e.1) && decide (e.1 ≤ 0x0B) && e.2.1 % 8 == 0 && e.2.2.1 % 8 == 0 && decide (pos ≤ e.2.1) &&
    decide (e.2.1 + e.2.2.1 ≤ stop) && tableOk stop e.1 (e.2.1 + e.2.2.1) rest

def checkTable (b : List Byte) : Nat :=
  let n := imgSections b
  let stop := if imgSig b = 0 then b.length else imgSig b
  if 128 + 16 * n > stop || !tableOk stop 0 (128 + 16 * n) (imgEntries b) then rcSECTION_TABLE
  else if (List.range n).any (fun i => fieldOf b (128 + 16 * i + 2) 2 ≠ 0) then rcRESERVED_SET
  else 0

/-! ### Records (R263, R264, step 4) -/

/-- The record types: fixed length, and the fields used as byte offset and mask; the key bytes are among them. -/
def recTable : List (Nat × Nat × List (Nat × Nat)) := [
  (0x0101, 48, [(8, 2 ^ 32 - 1), (12, 0xFFFF), (14, 3), (15, 0xFF), (16, 2 ^ 32 - 1), (20, 2 ^ 48 - 1), (32, 2 ^ 48 - 1), (38, 2 ^ 32 - 1)]),
  (0x0102, 24, [(0, 0xFF), (8, 2 ^ 32 - 1), (12, 2 ^ 17 - 1), (16, 0xFFFF)]),
  (0x0201, 24, [(0, 0xFF), (8, 0xFF), (12, 2 ^ 64 - 1)]),
  (0x0301, 80, [(0, 0xFF), (8, 2 ^ 520 - 1)]),
  (0x0401, 16, [(0, 0xFFFF), (8, 0xFF), (10, 0xFFFF)]),
  (0x0501, 216, [(0, 0xFFFF), (8, 2 ^ 1600 - 1), (208, 0xFFF), (212, 2 ^ 17 - 1)]),
  (0x0601, 16, [(8, 0xFFFF)]),
  (0x0602, 16, [(0, 0xFF), (8, 0xFF_FFFF), (11, 3), (12, 0xEFFF), (14, 0xFF)]),
  (0x0603, 16, [(0, 0xFFFF), (8, 0xFF_FFFF)]),
  (0x0604, 2056, [(0, 0xFF), (8, 2 ^ 16384 - 1)]),
  (0x0701, 24, [(0, 0xFF_FFFF), (8, 0xFF_FFFF), (12, 0xFFFF), (16, 2 ^ 64 - 1)]),
  (0x0801, 24, [(0, 0xFF), (8, 0xFF), (16, 2 ^ 64 - 1)]),
  (0x0802, 16, [(0, 0xFF_FFFF), (8, 0xFFFF)]),
  (0x0803, 16, [(8, 2 ^ 32 - 1)]),
  (0x0901, 16, [(0, 0xFF), (8, 2 ^ 32 - 1)]),
  (0x0902, 16, [(8, 0xFFFF)]),
  (0x0903, 16, [(8, 2 ^ 64 - 1)]),
  (0x0A01, 32, [(8, 0xFFFF), (10, 1), (16, 2 ^ 128 - 1)]),
  (0x0A02, 16, [(0, 0xFFFF), (8, 0xFF)]),
  (0x0B01, 16, [(0, 0xFF), (8, 1)])]

def recInfo (rtype : Nat) : Option (Nat × List (Nat × Nat)) := (recTable.find? (·.1 == rtype)).map (·.2)

/-- Length of the value of a SET. -/
def recLen (rtype base : Nat) (v : List Byte) : Nat :=
  if rtype = 0x0301 then 80 + 8 * fieldOf v 72 1
  else if rtype = 0x0401 then 16 + 8 * ceilDiv (fieldOf v 10 2) 2
  else base

/-- Are the reserved bits of the fixed part of a value clear? -/
def maskOk (used : List (Nat × Nat)) (fixed : List Byte) : Bool :=
  leNat fixed &&& used.foldl (fun a u => a ||| (u.2 * 2 ^ (8 * u.1))) 0 == leNat fixed

/-- Reserved bits beyond the fixed part, and inside the route entries. -/
def tailOk (rtype : Nat) (v : List Byte) : Bool :=
  if rtype = 0x0301 then
    (List.range (fieldOf v 72 1)).all (fun i => fieldOf v (81 + 8 * i) 1 == 0 && fieldOf v (86 + 8 * i) 2 == 0)
  else if rtype = 0x0401 then allZero (v.drop (16 + 4 * fieldOf v 10 2))
  else if rtype = 0x0604 then (List.range 1024).all (fun i => fieldOf v (8 + 2 * i) 2 < 512)
  else true

/-- One record at the start of `b`: the change it makes and what follows it, or a rejection code. -/
def readRecord (sec kind : Nat) (b : List Byte) : Except Nat (CompOp × List Byte) :=
  let rtype := fieldOf b 0 2
  let op := fieldOf b 2 1
  let len := fieldOf b 4 4
  match recInfo rtype with
  | none => .error rcRECORD
  | some (base, used) =>
    let v := (b.drop 8).take len
    if b.length < 8 || rtype / 256 ≠ sec || op > 1 || (op = 1 && kind = 0) then .error rcRECORD
    else if fieldOf b 3 1 ≠ 0 then .error rcRESERVED_SET
    else if len % 8 ≠ 0 || len < 8 || v.length ≠ len || len ≠ (if op = 1 then 8 else recLen rtype base v) then .error rcRECORD
    else if !maskOk used (v.take (if op = 1 then 8 else base)) || (op = 0 && !tailOk rtype v) then .error rcRESERVED_SET
    else .ok ({ rtype := rtype, key := fieldOf v 0 8, value := if op = 1 then none else some v }, b.drop (8 + len))

/-- The records of a section, which must fill it exactly. -/
def readRecords (sec kind : Nat) : Nat → List Byte → List CompOp → Except Nat (List CompOp)
  | 0, b, acc => if b.isEmpty then .ok acc else .error rcRECORD
  | n + 1, b, acc =>
    match readRecord sec kind b with
    | .error c => .error c
    | .ok (op, rest) =>
      if acc.any (fun x => x.rtype == op.rtype && x.key == op.key) then .error rcDUPLICATE_KEY
      else readRecords sec kind n rest (acc ++ [op])

/-- Step 4 of R271. -/
def readSections (b : List Byte) : Except Nat (List CompOp) :=
  let r := (imgEntries b).foldl (fun (acc : Except Nat (List CompOp)) e =>
    match acc with
    | .error c => .error c
    | .ok l =>
      -- no more records than bytes can hold
      match readRecords e.1 (imgKind b) (min e.2.2.2 (e.2.2.1 / 8 + 1)) ((b.drop e.2.1).take e.2.2.1) [] with
      | .error c => .error c
      | .ok l' => .ok (l ++ l')) (.ok [])
  match r with
  | .error c => .error c
  | .ok l =>
    let has (t : Nat) : Bool := (imgEntries b).any (·.1 == t)
    let rec' (t : Nat) : Bool := l.any (·.rtype == t)
    if imgKind b = 0 && !(has 1 && has 2 && has 3 && has 6 && has 8 && rec' 0x0101 && rec' 0x0601 && rec' 0x0803) then .error rcMISSING_SECTION
    else .ok l

/-! ### Authority (R266 to R268, R420, R423, R425) -/

/-- Does owner slot `i` hold keys that are not revoked? -/
def Module.ownerKey (m : Module) (i : Nat) : Bool := decide (i < 4) && bit (m.fuseWord 33) i && m.fuseWord (8 + i) == 0
/-- Does vendor slot `i` (4 or 5) hold keys? -/
def Module.vendorKey (m : Module) (i : Nat) : Bool := (i == 4 || i == 5) && bit (m.fuseWord 34) (i - 4)

/-- A failed signature is recorded (R424): the object, the result (1 ECDSA, 2 HSS, 3 empty or revoked slot) and the slot. -/
def Module.sigFail (m : Module) (object result slot : Nat) : Module :=
  (((m.setFld SEC_SIG_FAIL_object object).setFld SEC_SIG_FAIL_result result).setFld SEC_SIG_FAIL_slot slot).raise SEC_EVENT_sig_fail

/-- The result of the two signature checks against a slot (R423): 0 good, else as SEC_SIG_FAIL shows it. -/
def Module.sigCheck (m : Module) (slot : Nat) (ecdsa hss : Bool) : Nat :=
  if !(m.ownerKey slot || m.vendorKey slot) then 3 else if !ecdsa then 1 else if !hss then 2 else 0

/-- Step 2 of R271, given what the two signature checks found. -/
def Module.checkAuthority (m : Module) (b : List Byte) (ecdsa hss : Bool) : Nat :=
  if imgSig b = 0 then (if imgKind b = 0 || imgStructural b then rcUNSIGNED else 0)
  else if !m.ownerKey (fieldOf b (imgSig b + 4) 1) || !ecdsa then rcSIG_ECDSA
  else if !hss then rcSIG_HSS else 0

/-- Steps 1 to 4 of R271. -/
def Module.checkImage (m : Module) (b : List Byte) (ecdsa hss : Bool) : Except Nat (List CompOp) :=
  let h := checkHeader b m.orderCode m.serial
  if h ≠ 0 then .error h
  else
    let a := m.checkAuthority b ecdsa hss
    if a ≠ 0 then .error a
    else
      let t := checkTable b
      if t ≠ 0 then .error t else readSections b

/-! ### Applying records (R272) -/

/-- The records after a list of changes; none when a DELETE names an absent key. -/
def applyOps (r : Recs) (ops : List CompOp) : Option Recs :=
  ops.foldl (fun (acc : Option Recs) o =>
    match acc with
    | none => none
    | some r =>
      let k := o.rtype * 2 ^ 64 + o.key
      match o.value with
      | some v => some (r.put k v)
      | none => if (r.get? k).isSome then some (r.del k) else none) (some r)

/-! ### The composition rules (R273) -/

/-- What a composition is checked against. -/
structure CheckCtx where
  m : Module
  old : Recs             -- the projected composition; empty for a composition put in force on nothing
  fresh : Bool           -- checked against the empty composition: nothing counts as a change
  ideal : Bool           -- a profile to store: every unit present and unretired (R281)

/-- Has a device members elsewhere? -/
def anyRemote (r : Recs) : Bool := (recsOf r 0x0401).any (fun e => vdRemote e.2 (selfId r))

/-- Ethernet mode of a port in a composition. -/
def portMode (r : Recs) (p : Nat) : Nat := (portRec r p).1

def ruleTick (c : CheckCtx) (r : Recs) : Bool :=
  match recOf r 0x0101 0 with
  | none => true
  | some v =>
    let p := fieldOf v 8 4
    let w := fieldOf v 12 2
    let span := bmap v 14 1
    p < 8000 || p > 200000 || p % 1000 ≠ 0 || w < 512 || w > 4096 || p * 6 / 10 < w + 4096 || fieldOf v 38 4 ≥ 10 ^ 9 ||
    (recsOf r 0x0102).any (fun e =>
      let t := treeRec r e.1
      match t with
      | none => true
      | some t =>
        e.1 > 1 || fieldOf e.2 8 1 > 1 || t.source > 2 || t.depth > (if span then 3 else 10) ||
        (t.root && t.depth ≠ 0) || (t.source == 2 && (!t.root || t.up ≠ 0xFF)) ||
        (t.source ≠ 2 && (t.up > 16 || portMode r t.up ≠ t.source))) ||
    (!c.fresh && periodNs c.old ≠ p && (anyRemote c.old || anyRemote r))

/-- Partitions that records name, beside 0xFF where the key allows it. -/
def namedParts (r : Recs) : List Nat :=
  (recsOf r 0x0401).map (fun e => fieldOf e.2 8 1) ++
  ((recsOf r 0x0301).map (·.1)).filter (· ≠ 0xFF) ++
  ((recsOf r 0x0801).map (·.1)).filter (· ≠ 0xFF) ++
  ((recsOf r 0x0802).map (fun e => e.1 % 256)).filter (· ≠ 0xFF) ++
  (recsOf r 0x0B01).map (·.1)

def rulePartition (c : CheckCtx) (r : Recs) : Bool :=
  let parts := recsOf r 0x0201
  let vfs := parts.map (fun e => fieldOf e.2 8 1)
  let ids := parts.map (·.1)
  let gone := (partsOf c.old).filter (fun p => !ids.contains p)
  parts.any (fun e => e.1 > 63) || vfs.any (fun v => v = 0 || v > 64) || vfs.eraseDups.length ≠ vfs.length ||
  ids.any (fun p => (recOf r 0x0301 p).isNone || (recOf r 0x0801 p).isNone) ||
  (namedParts r).any (fun p => !ids.contains p) ||
  gone.any (fun p => (recsOf r 0x0701).any (fun e => fieldOf e.2 9 1 == p)) ||
  (recsOf r 0x0401).any (fun e => match vdPart c.old e.1 with | some p => p ≠ fieldOf e.2 8 1 | none => false) ||
  (recsOf r 0x0B01).any (fun e => e.1 > 63)

/-- The spaces of a carve-out: HBM channels as (g, 0), GiB of DDR5 as (512 + c, i). -/
def coSpaces (v : List Byte) : List (Nat × Nat) :=
  (bmapList v 8 512).map (fun g => (g, 0)) ++
  (coRanges v).flatMap (fun x => (List.range (min x.2.2 4096)).map (fun i => (512 + x.1, x.2.1 + i)))

/-- The owner of a space. -/
def spaceOwner (r : Recs) (s : Nat × Nat) : Option Nat := if s.1 < 512 then hbmOwner r s.1 else ddrOwner r (s.1 - 512) s.2

/-- Do two carve-outs share a channel or a GiB (R273)? -/
def coMeet (a b : List Byte) : Bool :=
  leNat ((a.drop 8).take 64) &&& leNat ((b.drop 8).take 64) != 0 ||
  (coRanges a).any (fun x => (coRanges b).any (fun y =>
    x.1 == y.1 && x.2.2 != 0 && y.2.2 != 0 && x.2.1 < y.2.1 + y.2.2 && y.2.1 < x.2.1 + x.2.2))

/-- Does an element of a list stand in a relation to a later one? -/
def anyPair {α : Type} (f : α → α → Bool) : List α → Bool
  | [] => false
  | a :: l => l.any (f a) || anyPair f l

/-- All assigned spaces with their owners. -/
def allSpaces (r : Recs) : List ((Nat × Nat) × Nat) := (recsOf r 0x0301).flatMap (fun e => (coSpaces e.2).map (fun s => (s, e.1)))

def ruleOverlap (r : Recs) : Bool :=
  anyPair coMeet ((recsOf r 0x0301).map (·.2)) ||
  (match recOf r 0x0301 0xFF with | some v => (bmapList v 8 512).isEmpty | none => true)

/-- Is a space in use by a migration that is not released (R299)? -/
def Module.migUses (m : Module) (s : Nat × Nat) : Bool :=
  m.mem.migs.any (fun e => e.2.state ≠ 0 && (linesIn e.2 s))
where
  linesIn (g : Mig) (s : Nat × Nat) : Bool :=
    let lo := chanOffset s.1 (if s.1 < 512 then 0 else s.2 * gibSize)
    let n := if s.1 < 512 then hbmSize else gibSize
    overlaps lo n g.src g.size || overlaps lo n g.dst g.size

/-- Is a channel not yet overwritten with zeros since its training, so that no carve-out may take it (R132)? DEDUCED (log entry 96):
the rejection is that of space still CLEARING. -/
def Module.unzeroed (m : Module) (ch : Nat) : Bool :=
  if ch < 512 then m.mem.hbmTrained.contains (ch / 32) && !m.mem.hbmZeroed.contains ch
  else match m.mem.ddr.get? (ch - 512) with | some d => d.state == .init || d.state == .training | none => false

/-- Do devices of a partition bind a channel? -/
def partBinds (r : Recs) (p ch : Nat) : Bool :=
  (bindsOf r).any (fun e => vdPart r e.1 == some p && (if ch < 512 then bindHbm e.2 ch else bindDdr e.2 (ch - 512)))

/-- CARVEOUT_BOUND: the delta releases space that is bound (R131), before it or after it: unbinding takes a delta of its own, which
applies before (R304). -/
def ruleBound (c : CheckCtx) (r : Recs) : Bool :=
  (allSpaces c.old).any (fun x =>
    if spaceOwner r x.1 == some x.2 then false
    else if c.m.migUses x.1 then true
    else if x.1.1 < 512 then (hbmVd r x.1.1).isSome || (hbmVd c.old x.1.1).isSome
    else (partBinds r x.2 x.1.1 || partBinds c.old x.2 x.1.1) && !((coRangesOf r x.2).any (fun y => y.1 == x.1.1 - 512)))
where
  coRangesOf (r : Recs) (p : Nat) : List (Nat × Nat × Nat) := match recOf r 0x0301 p with | some v => coRanges v | none => []

def ruleClearing (c : CheckCtx) (r : Recs) : Bool :=
  !c.ideal && (allSpaces r).any (fun x =>
    match spaceOwner c.old x.1 with
    | some p => p ≠ x.2
    | none => c.m.mem.clearing.contains x.1 || c.m.unzeroed x.1.1)

def ruleRange (c : CheckCtx) (r : Recs) : Bool :=
  (recsOf r 0x0301).any (fun e =>
    (e.1 > 63 && e.1 ≠ 0xFF) || fieldOf e.2 72 1 > 16 ||
    (coRanges e.2).any (fun x =>
      x.1 > 11 || x.2.2 = 0 ||
      (if c.ideal then x.2.1 + x.2.2 > 248
       else match c.m.mem.ddr.get? x.1 with
         | some d => x.2.1 + x.2.2 > d.gib || d.state == .absent || d.state == .retired || c.m.retired 4 x.1
         | none => true)) ||
    (!c.ideal && (bmapList e.2 8 512).any (fun g => c.m.retired 3 g || c.m.mem.retiredCh.contains g))) ||
  -- a carve-out grows over space that is still assigned when validation runs
  (!c.ideal && (allSpaces r).any (fun x => spaceOwner c.old x.1 != some x.2 && (spaceOwner c.m.nextRecs x.1).isSome))

def ruleVd (r : Recs) : Bool :=
  (recsOf r 0x0401).any (fun e => let n := fieldOf e.2 10 2; n = 0 || n > 256 || (vdRanges e.2).any (fun x => x.1 > x.2)) ||
  (bindsOf r).any (fun e => match recOf r 0x0401 e.1 with
    | some v => !(vdRanges v).any (fun x => x.1 ≤ selfId r && selfId r ≤ x.2)
    | none => true) ||
  (recsOf r 0x0A02).any (fun e => (recOf r 0x0401 e.1).isNone)

/-- Is some unit named by two values? The bitmaps of BIND are added: a carry-free sum equals their union. -/
def ruleConflict (r : Recs) : Bool :=
  let l := (bindsOf r).map (fun e => leNat (e.2.drop 8))
  l.foldl (· + ·) 0 != l.foldl (· ||| ·) 0

/-- BINDING_UNIT. A profile is checked with every unit present and unretired, and a RESERVE core stays one (R281). -/
def ruleUnit (c : CheckCtx) (r : Recs) : Bool :=
  (bindsOf r).any (fun e => (bmapList e.2 8 1024).any (fun k => c.m.ras.reserve.contains k)) ||
  !c.ideal && (bindsOf r).any (fun e =>
    (bmapList e.2 8 1024).any (fun k => c.m.retired 1 k) ||
    (bmapList e.2 200 64).any (fun s => c.m.retired 2 s) ||
    (bmapList e.2 136 512).any (fun g => c.m.retired 3 g || c.m.mem.retiredCh.contains g) ||
    (bmapList e.2 208 12).any (fun d => c.m.retired 4 d || c.m.ddrState d == .retired) ||
    (bmapList e.2 212 17).any (fun p => c.m.retired 7 p))

def ruleSpace (c : CheckCtx) (r : Recs) : Bool :=
  (bindsOf r).any (fun e =>
    let co := match vdPart r e.1 with | some p => recOf r 0x0301 p | none => none
    match co with
    | none => true
    | some v =>
      (bmapList e.2 136 512).any (fun g => !coHbm v g) ||
      (bmapList e.2 208 12).any (fun d => !(coRanges v).any (fun x => x.1 == d))) ||
  -- R299: no device binds a migration's destination before DONE
  (!c.ideal && c.m.mem.migs.any (fun g => g.2.state ≠ 0 && g.2.state ≠ 4 &&
    (match locate g.2.dst with
     | .hbm ch _ => (hbmVd r ch).isSome
     | .ddr d byte => (match ddrOwner r d (byte / gibSize) with
       | some p => partBinds r p (512 + d) && !partBinds c.old p (512 + d)
       | none => false)
     | _ => false)))

def ruleRoute (r : Recs) : Bool :=
  (match recOf r 0x0601 0 with | some v => fieldOf v 8 2 == 0xFFFF | none => true) ||
  (recsOf r 0x0602).any (fun e =>
    let (mode, rate, width, _, n) := portRec r e.1
    e.1 > 16 || mode > 1 || rate > 2 || width > 4 || n = 0 || n > 32 || (e.1 == 16 && (mode ≠ 0 || n ≠ 1)) ||
    (e.1 < 16 && width == 4) || (mode == 1 && !ethWidthOk width rate)) ||
  (recsOf r 0x0603).any (fun e => e.1 % 256 > 15 || e.1 / 256 % 256 > 15) ||
  (recsOf r 0x0604).any (fun e => (List.range 1024).any (fun i =>
    let x := fieldOf e.2 (8 + 2 * i) 2
    let p := bits x 0 5
    let s := bits x 5 4
    if p = 0x1F then s ≠ 0
    else if p > 16 then true
    else if p < 16 && portMode r p == 1 then (recOf r 0x0603 (p + 256 * s)).isNone
    else s ≠ 0))

/-- Slots that SEND and TRANSIT entries of a port take, one list per entry. -/
def portSlots (r : Recs) (p : Nat) : List Nat :=
  ((recsOf r 0x0701).filter (fun e => e.1 / 65536 % 256 == p && fieldOf e.2 8 1 < 2)).map (fun e => fieldOf e.2 16 8)

def ruleSlots (r : Recs) : Bool :=
  (recsOf r 0x0701).any (fun e =>
    let p := e.1 / 65536 % 256
    let role := fieldOf e.2 8 1
    p > 16 || role > 2 || (role == 2 && fieldOf e.2 16 8 ≠ 0) || (role ≠ 0 && fieldOf e.2 12 2 ≠ 0) || (recOf r 0x0201 (fieldOf e.2 9 1)).isNone ||
    (fieldOf e.2 10 1 ≠ 0 && (p == 16 || portMode r p ≠ 1)) || fieldOf e.2 10 1 > 15) ||
  (List.range 17).any (fun p => (portSlots r p).foldl (· + ·) 0 != (portSlots r p).foldl (· ||| ·) 0)

def ruleFree (r : Recs) : Bool :=
  (List.range 17).any (fun p =>
    let u := (portSlots r p).foldl (· ||| ·) 0
    ((List.range 64).filter (fun k => bit u k)).length > 62)

def ruleQos (r : Recs) : Bool :=
  (recsOf r 0x0801).any (fun e => (e.1 > 63 && e.1 ≠ 0xFF) || fieldOf e.2 8 1 > 1 ||
    (List.range 8).any (fun i => fieldOf e.2 (16 + i) 1 = 0 || fieldOf e.2 (16 + i) 1 > 15)) ||
  (recsOf r 0x0802).any (fun e => (e.1 % 256 > 63 && e.1 % 256 ≠ 0xFF) || e.1 / 256 % 256 > 4 || e.1 / 65536 > 2 ||
    fieldOf e.2 8 1 > fieldOf e.2 9 1 || fieldOf e.2 9 1 > 128) ||
  (match recOf r 0x0803 0 with
   | some v => fieldOf v 8 1 > 7 || fieldOf v 9 1 > fieldOf v 10 1 || fieldOf v 10 1 > 128 || fieldOf v 11 1 = 0 || fieldOf v 11 1 > 15
   | none => false)

/-- Cores, steward cores, HBM and DDR5 channels that the devices of a partition bind here. -/
def partUnits (r : Recs) (p : Nat) : Nat × Nat × Nat × List Nat :=
  let v := ((bindsOf r).filter (fun e => vdPart r e.1 == some p)).foldl (fun a e => a ||| leNat (e.2.drop 8)) 0
  let count (lo n : Nat) : Nat := ((List.range n).filter (fun i => v.testBit (lo + i))).length
  (count 0 1024, count 1536 64, count 1024 512, (List.range 12).filter (fun i => v.testBit (1600 + i)))

/-- The floors of a partition on a path, summed over its requesters (R147). The transfer engines of the system carve-out's owner are
those of every bound core, on any of which its tiles may run (R264; log entry 35). -/
def floorSum (r : Recs) (p path cores stw : Nat) : Nat :=
  let f (req : Nat) : Nat := (floorOf r p req path).1
  2 * cores * max (f 0) (f 1) + stw * f 2 + f 3 + f 4

/-- Cores that a device binds. -/
def boundCores (r : Recs) : Nat := ((partsOf r).map (fun p => (partUnits r p).1)).sum

/-- Assurable rates (R126). -/
def hbmRate (m : Module) : Nat := if m.mem.bin8 then 57 else 46
def ddrRate (m : Module) (c : Nat) : Nat :=
  match m.mem.ddr.get? c with
  | some d => if d.dimm = 0 then 0 else ([30, 35, 40, 56] : List Nat).getD d.speed 0
  | none => 0

def ruleHbmSum (c : CheckCtx) (r : Recs) : Bool :=
  let sys := match recOf r 0x0301 0xFF with | some v => (bmapList v 8 512).length | none => 0
  (partsOf r).any (fun p => let (k, s, h, _) := partUnits r p; floorSum r p 0 k s > hbmRate c.m * h) ||
  floorSum r 0xFF 0 (boundCores r) 0 > hbmRate c.m * sys ||
  (match recOf r 0x0803 0 with | some v => fieldOf v 9 1 > hbmRate c.m * sys | none => false)

def ruleDdrSum (c : CheckCtx) (r : Recs) : Bool :=
  let us := (partsOf r).map (fun p => let (k, s, _, d) := partUnits r p; (floorSum r p 1 k s, d))
  (List.range 12).any (fun ch =>
    -- quotients over the least common multiple of 1 to 12
    us.foldl (fun a u => if u.2.contains ch then a + u.1 * (27720 / u.2.length) else a) 0 > (if c.ideal then 56 else ddrRate c.m ch) * 27720)

def rulePower (r : Recs) : Bool :=
  (recsOf r 0x0901).any (fun e =>
    let l := fieldOf e.2 8 2
    let k := fieldOf e.2 10 2
    if e.1 < 8 then l < 100 || l > 600 || k > 680 || l > k
    else if e.1 < 16 then l < 40 || l > 140 || k > 160 || l > k
    else true) ||
  (recsOf r 0x0902).any (fun e => fieldOf e.2 8 1 > 95 || fieldOf e.2 9 1 = 0 || fieldOf e.2 9 1 > 50) ||
  (fixedBlocks r).length > 16

def ruleTwin (c : CheckCtx) (r : Recs) : Bool :=
  let modes (x : Recs) : Bool := (recsOf x 0x0A02).any (fun e => fieldOf e.2 8 1 ≠ 0)
  (match recOf r 0x0A01 0 with
   | some v => fieldOf v 8 2 == selfId r || (v.drop 16).take 16 == c.m.serial
   | none => false) ||
  (recsOf r 0x0A02).any (fun e => fieldOf e.2 8 1 > 2) ||
  (modes r && !(match pairRec r with | some (_, on, _) => on | none => false)) ||
  (!c.fresh && recOf r 0x0A01 0 != recOf c.old 0x0A01 0 && (modes r || modes c.old))

/-- Do devices of a partition bind a core, steward core or channel? -/
def partBusy (r : Recs) (p : Nat) : Bool :=
  (bindsOf r).any (fun e => vdPart r e.1 == some p && leNat ((e.2.drop 8).take 202) != 0)

def ruleConf (c : CheckCtx) (r : Recs) : Bool :=
  let ps := ((recsOf r 0x0B01).map (·.1) ++ (recsOf c.old 0x0B01).map (·.1)).eraseDups
  ps.any (fun p =>
    (isConf r p ≠ isConf c.old p && !c.fresh && (partBusy r p || partBusy c.old p)) ||
    (isConf r p && !isConf c.old p && c.m.debugUnlocked))

/-- Step 6 of R271: the lowest code whose rule is broken, 0 for none. -/
def checkRules (c : CheckCtx) (r : Recs) : Nat :=
  if ruleTick c r then 0x10 else if rulePartition c r then 0x11 else if ruleOverlap r then 0x12
  else if ruleBound c r then 0x13 else if ruleClearing c r then 0x14 else if ruleRange c r then 0x15
  else if ruleVd r then 0x16 else if ruleConflict r then 0x17 else if ruleUnit c r then 0x18
  else if ruleSpace c r then 0x19 else if ruleRoute r then 0x1A else if ruleSlots r then 0x1B
  else if ruleFree r then 0x1C else if ruleQos r then 0x1D else if ruleHbmSum c r then 0x1E
  else if ruleDdrSum c r then 0x1F else if rulePower r then 0x20 else if ruleTwin c r then 0x21
  else if ruleConf c r then 0x22 else 0

end Sys2Proof.Machine
end

