-- ==== Sys2Proof/Machine/Compose.lean ====
section
/-!
DEFINITION. Composition changes (R269 to R293, R300 to R305, R385 to R389): submission slots, validation, application in step 6,
what units do at the edge, arming, and retirements coming into force.
-/
namespace Sys2Proof.Machine

/-! ### Slots -/

def SlotState.code : SlotState → Nat
  | .free => 0
  | .validating => 1
  | .validated => 2
  | .applied => 3
  | .rejected => 4
  | .storing => 5

def slotInit : Slot :=
  { state := .free, op := 0, code := 0, profile := 0, imageId := 0, applyFrame := 0, armId := 0, armed := false, signalled := false,
    submitFrame := 0, image := [], verdict := none, ops := [], full := false, baseChain := [], chain := [], builtOn := [], cancel := false,
    cancelFrame := 0, settings := 0, gen := 0 }

def Module.setComp (m : Module) (f : Compose → Compose) : Module := { m with comp := f m.comp }
def Module.slot (m : Module) (s : Nat) : Slot := (m.comp.slots.get? s).getD slotInit
def Module.modSlot (m : Module) (s : Nat) (f : Slot → Slot) : Module := m.setComp (fun c => { c with slots := c.slots.put s (f (m.slot s)) })

/-- Is a slot VALIDATED, or sure to be at the edge? -/
def Slot.live (x : Slot) : Bool := x.state == .validated || x.verdict == some .pass

/-- Does a slot hold a DELTA image? -/
def Slot.isDelta (x : Slot) : Bool := x.op == 0 && imgKind x.image == 1

/-- Slots in the order of their apply frames. -/
def Module.byFrame (m : Module) (l : List (Nat × Slot)) : List (Nat × Slot) :=
  sortBy (fun e => subMod 48 (frameAdd e.2.applyFrame (2 ^ 47)) m.F) l

/-- The VALIDATED slots, those of earlier apply frames first. -/
def Module.validated (m : Module) : List (Nat × Slot) := m.byFrame (m.comp.slots.filter (fun e => e.2.state == .validated))

/-- The composition that counts as in force: empty while there is none (R284). -/
def Module.baseRecs (m : Module) : Recs := if m.comp.present then m.comp.recs else []


/-- STATUS of a slot of an armed delta (R302). -/
def Module.armStatus (m : Module) (s : Nat) : Module :=
  let x := m.slot s
  if x.armed && m.flag COMP_ARM_COLLECT_enable then
    m.sendCtrl (m.fld COMP_ARM_COLLECT_module_id) ctrlCOMP
      (leBytes 1 2 ++ leBytes 1 x.state.code ++ leBytes 1 x.code ++ zeros 1 ++ leBytes 4 x.armId ++ leBytes 6 x.applyFrame ++ zeros 2)
  else m

/-- Deltas projected on a slot can no longer come true; they go to REJECTED at the edge (R277). -/
def Module.breakOn (m : Module) (s : Nat) : Module :=
  let l := (m.comp.slots.filter (fun e => e.2.live && e.2.builtOn.contains s)).map (·.1)
  m.setComp (fun c => { c with broken := l.foldl insertU c.broken })

/-- A slot's delta has applied or will not: no slot is built on it from now on, whatever the slot holds next. -/
def Module.unbuild (m : Module) (s : Nat) : Module :=
  m.setComp (fun c => { c with slots := c.slots.map (fun e => (e.1, { e.2 with builtOn := e.2.builtOn.filter (· != s) })) })

/-- Every VALIDATED slot was projected on a chain that is gone. -/
def Module.breakAll (m : Module) : Module :=
  let l := (m.comp.slots.filter (·.2.live)).map (·.1)
  m.setComp (fun c => { c with broken := l.foldl insertU c.broken })

/-- A slot goes to REJECTED. -/
def Module.rejectSlot (m : Module) (s code : Nat) : Module :=
  let was := (m.slot s).state == .validated
  let img := (m.slot s).image
  let m := m.modSlot s (fun x => { x with state := .rejected, code := code, image := [], verdict := none })
  let m := (m.raise COMP_EVENT_rejected).armStatus s
  let m := if code = rcSIG_ECDSA || code = rcSIG_HSS then
      let k := fieldOf img (imgSig img + 4) 1
      m.sigFail 1 (if code = rcSIG_HSS then 2 else if k < 4 && !m.ownerKey k then 3 else 1) (k % 8)
    else m
  if was then (m.breakOn s).unbuild s else m

/-- A slot goes to APPLIED. -/
def Module.slotApplied (m : Module) (s : Nat) : Module :=
  (((m.modSlot s (fun x => { x with state := .applied, code := 0, image := [], verdict := none })).raise COMP_EVENT_applied).armStatus s).unbuild s

/-! ### Submission (R269, R278, R281, R282) -/

/-- The fields of COMP_CTRL that the write sets. -/
def Module.compCtrl (m : Module) (s op k : Nat) : Module := m.setReg COMP_CTRL (s % 8 + op % 4 * 8 + k % 4 * 32)

/-- Frame in which a go written now is submitted (R270). -/
def Module.submitFrame (m : Module) : Nat := if m.tick.phase == .open_ then m.F else frameAdd m.F 1

/-- Take the image at COMP_SRC into a free slot; a go that names another is ignored, register fields included. -/
def Module.takeImage (m : Module) (s op k : Nat) : Module :=
  if (m.slot (s % 8)).state != .free then m.raise COMP_EVENT_busy
  else
    let m := m.compCtrl s op k
    let s := s % 8
    let off := m.reg64 COMP_SRC_LO COMP_SRC_HI
    let len := m.fld COMP_LEN_bytes
    let ok := m.imageAt off len
    let m := m.modSlot s (fun _ => { slotInit with
      state := .validating, op := op, profile := k % 4, submitFrame := m.submitFrame, settings := m.reg COMP_SETTINGS,
      applyFrame := m.reg64 COMP_APPLY_LO COMP_APPLY_HI, armId := m.reg COMP_ARM_ID })
    if !ok then (m.modSlot s (fun x => { x with applyFrame := 0, armId := 0 })).rejectSlot s rcSIZE
    else match m.readSpans (spansOf off len) ReadErrs.clean with
    -- an image that cannot be read is rejected (log entry 101); a line of the system carve-out acts under R384
    | (m, .uncorrectable _) => (m.modSlot s (fun x => { x with applyFrame := 0, armId := 0 })).rejectSlot s rcSIZE
    | (m, _) =>
      let b := m.dataAt off len
      m.modSlot s (fun x => { x with
        image := b, armed := if op = 0 && imgKind b = 1 then imgArmed b else op == 0 && m.comp.present && x.armId != 0,
        imageId := if op = 0 then imgId b else 0,
        applyFrame := if op = 0 && imgKind b = 1 then imgApply b else if op = 0 && m.comp.present then x.applyFrame else 0,
        armId := if op = 0 && imgKind b = 1 then imgArmId b else if op = 0 && m.comp.present then x.armId else 0 })

def effSubmitImage (s k : Nat) (m : Module) : Module := m.takeImage s 0 k
def effStoreProfile (s k : Nat) (m : Module) : Module := m.takeImage s 1 k

def effApplyProfile (s k : Nat) (m : Module) : Module :=
  if (m.slot (s % 8)).state != .free then m.raise COMP_EVENT_busy
  else (m.compCtrl s 2 k).modSlot (s % 8) (fun _ => { slotInit with
    state := .validating, op := 2, profile := k % 4, submitFrame := m.submitFrame,
    applyFrame := m.reg64 COMP_APPLY_LO COMP_APPLY_HI, armId := m.reg COMP_ARM_ID, armed := m.reg COMP_ARM_ID != 0 })

/-- CANCEL waits for step 6; one in the window of the slot's apply frame is ignored. -/
def effCancel (s k : Nat) (m : Module) : Module :=
  let m := m.compCtrl s 3 k
  let x := m.slot (s % 8)
  if x.state != .validated || (m.tick.phase != .open_ && x.applyFrame == m.F) then m
  else m.modSlot (s % 8) (fun x => { x with cancel := true, cancelFrame := m.F })

/-- A write of COMP_SLOT.release. -/
def effSlotRelease (s : Nat) (m : Module) : Module :=
  let x := m.slot s
  if x.state == .applied || x.state == .rejected then m.modSlot s (fun _ => slotInit) else m

/-! ### Validation (R270 to R276) -/

/-- What validation projects: records, chain, whether a composition exists, and the slots it includes. -/
structure Projection where
  recs : Recs
  chain : List Byte
  present : Bool
  built : List Nat

/-- The chain after a delta: SHA-384 of the chain and of SHA-384(M) (R275). -/
def chainNext (chain m : List Byte) : List Byte := sha384 (chain ++ sha384 m)

/-- The projected composition for an apply frame (R272). -/
def Module.project (m : Module) (s applyFrame : Nat) : Projection :=
  (m.byFrame (m.comp.slots.filter (fun e => e.1 != s && e.2.state == .validated && frameLt e.2.applyFrame applyFrame))).foldl
    (fun p e => { recs := (applyOps (if e.2.full then [] else p.recs) e.2.ops).getD p.recs, chain := e.2.chain, present := true,
                  built := p.built ++ [e.1] })
    { recs := m.baseRecs, chain := m.comp.chain, present := m.comp.present, built := [] }

/-- Step 7 of R271. -/
def Module.checkTiming (m : Module) (s : Nat) (late : Bool) : Nat :=
  let x := m.slot s
  let d := subMod 48 x.applyFrame x.submitFrame
  if d < 2 || d > 65536 then rcAPPLY_FRAME
  else if m.comp.slots.any (fun e => e.1 != s && e.2.state == .validated && e.2.applyFrame == x.applyFrame) then rcAPPLY_CONFLICT
  else if late && !(frameLt (frameAdd m.F 1) x.applyFrame || (frameAdd m.F 1 == x.applyFrame && m.tick.phase == .open_)) then rcTOO_LATE
  else 0

/-- The checks end with a rejection, in force at the edge. -/
def Module.slotFails (m : Module) (s code : Nat) : Module := m.modSlot s (fun x => { x with verdict := some (.reject code) })

/-- A delta has passed its checks. -/
def Module.slotPasses (m : Module) (s : Nat) (ops : List CompOp) (full : Bool) (chain : List Byte) (p : Projection) (armed : Bool) : Module :=
  m.modSlot s (fun x => { x with
    verdict := some .pass, ops := ops, full := full, baseChain := p.chain, chain := chain, builtOn := p.built, armed := armed })

/-- Check and take a computed delta that replaces the whole composition (R282, R283). -/
def Module.validateFull (m : Module) (s : Nat) (ops : List CompOp) (chain : List Byte) : Module :=
  let x := m.slot s
  let p := m.project s x.applyFrame
  match applyOps [] ops with
  | none => m.slotFails s rcRECORD
  | some r =>
    let c := checkRules { m := m, old := p.recs, fresh := !p.present, ideal := false } r
    let t := m.checkTiming s true
    if c ≠ 0 then m.slotFails s c
    else if t ≠ 0 then m.slotFails s t
    else m.slotPasses s ops true chain p (x.armId != 0)

/-! ### Units at the edge (R115, R286 to R288, R334, R341, R433) -/

/-- Zero a core as R287 does; its fault injections and last context stay the core's own. -/
def Core.zeroed (k : Core) : Core := { k with plate := [], tags := [], run := none, acc := none }

/-- Cores whose binding changed. -/
def Module.coresEdge (m : Module) (old : Recs) : Module :=
  (List.range 1024).foldl (fun m c =>
    let a := coreVd old c
    let b := coreVd m.recs c
    if a == b then m
    else match a with
      | none => m
      | some vd =>
        match b with
        | some vd' =>
          if vdPart old vd == vdPart m.recs vd' then
            m.modCore c (fun k => { k with tags := k.tags.map (fun t => { t with vd := vd' }) })
          else m.modCore c (fun k => { k.zeroed with clearing := true })
        | none => m.modCore c (fun k => { k.zeroed with clearing := true })) m

/-- Steward cores that leave a device. -/
def Module.stewardsEdge (m : Module) (old : Recs) : Module :=
  (List.range 64).foldl (fun m s =>
    match stwVd old s with
    | some vd => if stwVd m.recs s == some vd then m else m.stewardLeave s vd
    | none => m) m

/-- Ports that leave a device: the collectives that its contexts defined are destroyed. -/
def Module.portsEdge (m : Module) (old : Recs) : Module :=
  (List.range 17).foldl (fun m p =>
    match portVd old p with
    | none => m
    | some vd =>
      if portVd m.recs p == some vd then m
      else each (m.coll.filter (fun e => e.1 / 2 ^ 32 == p && (match m.ctx? e.2.ctx with | some x => x.vd == vd | none => false))) m
        (fun m e => m.collDestroy e.1)) m

/-- Released space is CLEARING (R131). -/
def Module.spaceEdge (m : Module) (old : Recs) : Module :=
  let gone := ((allSpaces old).map (·.1)).filter (fun s => (spaceOwner m.recs s).isNone)
  m.setMem (fun x => { x with clearing := gone.foldl insertU x.clearing })

/-- All that a composition says of one partition. -/
def partView (r : Recs) (p : Nat) : List (List Byte) :=
  let o (x : Option (List Byte)) : List Byte := x.getD []
  [o (recOf r 0x0201 p), o (recOf r 0x0301 p), o (recOf r 0x0801 p), o (recOf r 0x0B01 p)] ++
  ((recsOf r 0x0802).filter (fun e => e.1 % 256 == p)).map (·.2) ++
  (((recsOf r 0x0401).filter (fun e => fieldOf e.2 8 1 == p)).map (fun e => e.2 ++ o (recOf r 0x0501 e.1)))

/-- Partitions that changed: their functions are told, contexts follow a changed function, and translations under the old one go. -/
def Module.partsEdge (m : Module) (old : Recs) : Module :=
  (List.range 64).foldl (fun m p =>
    let a := partVf old p
    let b := partVf m.recs p
    let m := match a, b with
      | some f, some g =>
        if f = g then m
        else
          let m := m.setObj (fun o => { o with ctxs := o.ctxs.map (fun e => if e.2.part = p then (e.1, { e.2 with fn := g }) else e) })
          let mine (fn pasid : Nat) : Bool := fn == f && m.obj.ctxs.any (fun e => e.2.part == p && e.2.pasid == pasid)
          let m := m.setXlat (fun x => { x with
            ats := x.ats.map (fun r => if !r.sent && mine r.fn r.pasid then { r with fn := g } else r),
            pages := x.pages.map (fun r => if !r.sent && mine r.fn r.pasid then { r with fn := g } else r) })
          m.addInval { fn := f, pasid := none, base := 0, size := 0, tag := 0, flush := true }
      | _, _ => m
    let m := match b with
      | some g => if (recOf old 0x0201 p).isSome && partView old p != partView m.recs p then (m.setFld (VF_EVENT_composition g) 1).signal g 0 else m
      | none => m
    if isConf m.recs p && !isConf old p then
      each (m.obj.ctxs.filter (fun e => e.2.part == 0xFF && e.2.state != .free && vdPart m.recs e.2.vd == some p)) m
        (fun m e => m.markLost e.1 lostDRIVER)
    else m) m

/-- What units do at the edge at which `m.recs` takes the place of `old`. -/
def Module.bindingEdge (m : Module) (old : Recs) : Module :=
  ((((m.coresEdge old).stewardsEdge old).portsEdge old).spaceEdge old).partsEdge old

/-- A composition is in force at once, on nothing before it (R270, R284). -/
def Module.compInstall (m : Module) (r : Recs) (chain : List Byte) : Module :=
  let old := m.baseRecs
  let prev := m.comp.recs
  let m := m.breakAll.setComp (fun c => { c with present := true, recs := r, chain := chain, inforce := 0 })
  (m.bindingEdge old).powerRecs.applyTick prev m.F

/-- Profile records to store in the journal (R473): data, then the commit. -/
def profileRecords (k gen settings : Nat) (img : List Byte) : List JPend :=
  ((chunks 4056 img).zipIdx.map (fun e =>
    { ty := jPROFILE_DATA, payload := leBytes 1 k ++ leBytes 1 gen ++ zeros 2 ++ leBytes 4 (4056 * e.2) ++ e.1 })) ++
  [{ ty := jPROFILE_COMMIT, payload := leBytes 1 k ++ leBytes 1 gen ++ zeros 2 ++ leBytes 4 settings ++ leBytes 4 img.length ++ zeros 4 ++ sha384 img }]

/-- Is a record, of a type and a payload, one that stores profile `k` (R473)? -/
def storesProfile (k ty : Nat) (p : List Byte) : Bool := (ty == jPROFILE_DATA || ty == jPROFILE_COMMIT) && fieldOf p 0 1 == k

/-- The next generation of a profile: one above that of the latest record of it, written or waiting to be. -/
def Module.profileGen (m : Module) (k : Nat) : Nat :=
  let l := (m.nvj.recs.filter (fun r => storesProfile k r.ty r.payload)).map (·.payload) ++
    (m.nvj.queue.filter (fun p => storesProfile k p.ty p.payload)).map (·.payload)
  match l.getLast? with
  | some p => (fieldOf p 1 1 + 1) % 256
  | none => 1

/-- Bytes of the images of the profiles but `k`: of each the stored image or a larger one that a slot is storing. -/
def Module.profileBytes (m : Module) (k : Nat) : Nat :=
  let stored (j : Nat) : Nat := match m.comp.profiles.get? j with | some p => p.image.length | none => 0
  let coming (j : Nat) : List Nat := (m.comp.slots.filter (fun e =>
    (e.2.state == .storing || e.2.verdict == some .store) && e.2.profile == j)).map (fun e => e.2.image.length)
  (((List.range 4).filter (· != k)).map (fun j => (coming j).foldl max (stored j))).sum

/-- May the checks of a slot end in this frame? Those of a DELTA run in the frame after its submission, and no check ends
before its image is submitted (R270). -/
def Module.checksEnd (m : Module) (x : Slot) : Bool :=
  if x.isDelta then m.F == frameAdd x.submitFrame 1 else frameGe m.F x.submitFrame

/-- The checks of a slot end, with what the signature checks found; the outcome is in force at the edge (R270). -/
def effValidationDone (s : Nat) (ecdsa hss : Bool) (m : Module) : Module :=
  let x := m.slot s
  if x.state != .validating || x.verdict.isSome || !m.checksEnd x then m
  else if x.op = 2 then
    match m.comp.profiles.get? x.profile with
    | some p =>
      if !p.valid then m.slotFails s rcPROFILE_EMPTY
      else match readSections p.image with
        | .error _ => m.slotFails s rcPROFILE_EMPTY
        | .ok ops => m.validateFull s ops (sha384 (imgM p.image))
    | none => m.slotFails s rcPROFILE_EMPTY
  else match m.checkImage x.image ecdsa hss with
    | .error c => m.slotFails s c
    | .ok ops =>
      let b := x.image
      if x.op = 1 then
        if imgKind b ≠ 0 then m.slotFails s rcHEADER
        else match applyOps [] ops with
          | none => m.slotFails s rcRECORD
          | some r =>
            let c := checkRules { m := m, old := [], fresh := true, ideal := true } r
            if c ≠ 0 then m.slotFails s c
            else if m.profileBytes x.profile + b.length > 2 ^ 23 then m.slotFails s rcSIZE
            else m.modSlot s (fun y => { y with verdict := some .store })
      else if imgKind b = 0 then
        if m.comp.present then m.validateFull s ops (sha384 (imgM b))
        else match applyOps [] ops with
          | none => m.slotFails s rcRECORD
          | some r =>
            let c := checkRules { m := m, old := [], fresh := true, ideal := false } r
            if c ≠ 0 then m.slotFails s c
            else m.modSlot s (fun y => { y with verdict := some .install, ops := ops, chain := sha384 (imgM b) })
      else
        let p := m.project s x.applyFrame
        match applyOps p.recs ops with
        | none => m.slotFails s rcRECORD
        | some r =>
          if !imgAnyBase b && imgBase b != p.chain then m.slotFails s rcBASE_MISMATCH
          else
            let c := checkRules { m := m, old := p.recs, fresh := false, ideal := false } r
            let t := m.checkTiming s false
            if c ≠ 0 then m.slotFails s c
            else if t ≠ 0 then m.slotFails s t
            else m.slotPasses s ops false (chainNext p.chain (imgM b)) p (imgArmed b)

/-- Would records set a partition's CONF bit while the module is debug-unlocked, so that an unlock and a confidential partition
would hold together (R433, R450)? -/
def Module.confUnlocked (m : Module) (r : Recs) : Bool :=
  m.debugUnlocked && (recsOf r 0x0B01).any (fun e => isConf r e.1 && !isConf m.baseRecs e.1)

/-- The edge: the outcome of a slot's checks is in force (R270). Where another composition came into force since an image
was checked against none, the image is rejected. -/
def Module.settleSlot (m : Module) (s : Nat) : Module :=
  let x := m.slot s
  match x.verdict with
  | none => m
  | some (.reject c) => m.rejectSlot s c
  | some .pass =>
    ((m.modSlot s (fun x => { x with state := .validated, image := [], verdict := none })).raise COMP_EVENT_validated).armStatus s
  | some .store =>
    let gen := m.profileGen x.profile
    let m := m.modSlot s (fun x => { x with state := .storing, verdict := none, gen := gen })
    m.setNvj (fun j => { j with queue := j.queue ++ profileRecords x.profile gen x.settings x.image })
  | some .install =>
    (match m.comp.present, applyOps [] x.ops with
     | false, some r => if m.confUnlocked r then m.rejectSlot s 0x22 else (m.compInstall r x.chain).slotApplied s
     | _, _ => m.rejectSlot s rcBASE_CHANGED)

/-- The edge ending the frame in which a DELTA is validated: its outcome is there, no signature having been found right if
no VALIDATION_DONE has said so (R270; log entry 17). -/
def Module.deltaChecked (m : Module) (s : Nat) : Module := if (m.slot s).isDelta then effValidationDone s false false m else m

/-- The edge: slots whose projection can no longer come true go to REJECTED, with all that was projected on them (R277). -/
def Module.dropBroken : Nat → Module → Module
  | 0, m => m
  | n + 1, m =>
    let b := m.comp.broken
    let m := m.setComp (fun c => { c with broken := [] })
    Module.dropBroken n (each b m (fun m s =>
      if (m.slot s).state == .validated then m.rejectSlot s rcBASE_CHANGED
      else if (m.slot s).live then ((m.slotFails s rcBASE_CHANGED).breakOn s).unbuild s
      else m))

/-- PROFILE_COMMIT of a slot's generation has committed: the slot leaves STORING, and the profile changes unless a later
record has replaced or emptied it already (R473). -/
def effProfileCommitted (s : Nat) (m : Module) : Module :=
  let x := m.slot s
  let k := x.profile
  let own (ty : Nat) (p : List Byte) : Bool := ty == jPROFILE_COMMIT && fieldOf p 0 1 == k && fieldOf p 1 1 == x.gen
  let done := m.nvj.recs.any (fun r => r.ok && own r.ty r.payload && fieldOf r.payload 8 4 == x.image.length &&
    (r.payload.drop 16).take 48 == sha384 x.image) && !m.nvj.queue.any (fun p => own p.ty p.payload)
  if x.state != .storing || !done then m
  else
    let p : Profile := { image := x.image, settings := x.settings, valid := true }
    let last := (m.nvj.recs.filter (fun r => r.ok && jClass r.ty == jPROFILE_COMMIT && fieldOf r.payload 0 1 == k)).getLast?
    let stands := match last with | some r => own r.ty r.payload | none => true
    (if stands then m.setComp (fun c => { c with profiles := c.profiles.put k p }) else m).slotApplied s

/-- A record of a STORE_PROFILE failed to commit (R473): the slot that stores that generation is rejected, and the rest of its
records are not written. -/
def Module.profileFailed (m : Module) (k gen : Nat) : Module :=
  let m := m.setNvj (fun j => { j with queue := j.queue.filter (fun p => !(storesProfile k p.ty p.payload && fieldOf p.payload 1 1 == gen)) })
  each (m.comp.slots.filter (fun e => e.2.state == .storing && e.2.profile == k && e.2.gen == gen)) m (fun m e => m.rejectSlot e.1 rcSIZE)

/-! ### Step 6 (R27, R28, R277, R278) -/

/-- Is a unit that the delta binds retired? -/
def Module.bindsRetired (m : Module) (ops : List CompOp) : Bool :=
  ops.any (fun o => o.rtype == 0x0501 && (match o.value with
    | some v => m.ras.moraine.any (fun e => bindNames v e.unitType e.unit)
    | none => false))

/-- The delta of a slot applies, or is rejected. -/
def Module.applySlot (m : Module) (s : Nat) : Module :=
  let x := m.slot s
  if m.bindsRetired x.ops then m.rejectSlot s rcRETIRED
  else if m.comp.chain != x.baseChain then m.rejectSlot s rcBASE_CHANGED
  else if x.armed && !x.signalled then m.rejectSlot s rcNOT_ARMED
  else match applyOps (if x.full then [] else m.baseRecs) x.ops with
    | none => m.rejectSlot s rcBASE_CHANGED
    | some r =>
      if m.confUnlocked r then m.rejectSlot s 0x22
      else
      let m := m.keepOld
      let m := m.setComp (fun c => { c with present := true, recs := r, chain := x.chain,
                                            inforce := if x.full then 0 else min (c.inforce + 1) (2 ^ 32 - 1) })
      let m := m.slotApplied s
      -- R283: a FULL image applied live ends every delta that waits
      if x.full && x.op = 0 then m.breakAll else m

/-- Step 6 of the window. -/
def Module.applyDeltas (m : Module) : Module :=
  let m := each (m.comp.slots.filter (fun e => e.2.cancel)) m (fun m e =>
    if (m.slot e.1).state == .validated then m.rejectSlot e.1 rcCANCELLED else m)
  let m := m.setComp (fun c => { c with slots := c.slots.map (fun e => (e.1, { e.2 with cancel := false })) })
  let m := each m.validated m (fun m e => if frameLt e.2.applyFrame m.F then m.rejectSlot e.1 rcMISSED else m)
  each (m.validated.filter (fun e => e.2.applyFrame == m.F)) m (fun m e => if (m.slot e.1).state == .validated then m.applySlot e.1 else m)

/-! ### Retirements and removals in force (R385 to R389) -/

/-- A unit is retired from now on. -/
def Module.retireUnit (m : Module) (ut unit : Nat) : Module :=
  match ut with
  | 1 => m.modCore unit (fun k => { k with tags := [] })
  | 2 => m.stewardLeave unit ((stwVd (m.comp.oldRecs.getD m.recs) unit).getD 0)
  | 3 => m.setMem (fun s => { s with retiredCh := insertU s.retiredCh unit })
  | 4 => (m.setMem (fun s => { s with retiredCh := insertU s.retiredCh (512 + unit) })).modDdr unit (fun d => { d with state := .retired })
  | 7 => m.portDown unit dcPHY true
  | _ => m

/-- The edge: retirements decided in step 3; a promoted core leaves the reserve now (R386). -/
def Module.retireEdge (m : Module) : Module :=
  let l := m.ras.retire
  let m := m.setRas (fun r => { r with retire := [] })
  each l m (fun m r =>
    let m := m.retireUnit r.unitType r.unit
    let m := if r.unitType = 1 then m.setRas (fun s => { s with reserve := s.reserve.filter (fun c => c != r.unit && r.promoted != some c) }) else m
    if r.bound then
      let e := match m.ras.moraine.find? (fun e => e.unitType == r.unitType && e.unit == r.unit) with | some e => e.bytes | none => []
      m.breakAll.setComp (fun c => { c with chain := sha384 (c.chain ++ sha384 e), inforce := min (c.inforce + 1) (2 ^ 32 - 1) })
    else m)

/-- A write of RAS_MORAINE_CTRL.remove: journaled, and in force at the edge after the record is committed (R470). -/
def effMoraineRemove (m : Module) : Module :=
  match m.ras.moraine[m.fld RAS_MORAINE_SEL_index]? with
  | none => m
  | some e => m.jWrite jMORAINE_REMOVE (leBytes 1 e.unitType ++ zeros 1 ++ leBytes 2 e.unit)

/-- A unit returns to service. -/
def Module.returnUnit (m : Module) (ut unit : Nat) : Module :=
  match ut with
  | 1 => m.setRas (fun r => { r with reserve := insertU r.reserve unit })
  | 3 => m.setMem (fun s => { s with retiredCh := s.retiredCh.filter (· != unit) })
  | 4 =>
    let m := m.setMem (fun s => { s with retiredCh := s.retiredCh.filter (· != 512 + unit) })
    -- an OFFLINE channel has no power (R497)
    if m.ddrState unit == .retired then (m.modDdr unit (fun d => { d with state := .offline })).dpwr unit false else m
  | 5 => let f := LINK_LANES_retired (unit / 16)
         if bit (m.fld f) (unit % 16) then m.setFld f (m.fld f - 2 ^ (unit % 16)) else m
  | 6 => let m := { m with seams := { m.seams with gone := m.seams.gone.filter (· != unit) } }
         m.seamShow (unit / 128 / 5) (unit / 128 % 5)
  | 7 => if m.flag (LINK_CTRL_enable unit) then m.startTraining unit else m
  | _ => m

/-- The edge: moraine entries removed. A lane returns at the next lane drop or retrain of its port. -/
def Module.removeEdge (m : Module) : Module :=
  let l := m.ras.remove
  let m := m.setRas (fun r => { r with remove := [] })
  each l m (fun m e =>
    let has := m.retired e.1 e.2
    let m := m.setRas (fun r => { r with
      moraine := r.moraine.filter (fun x => !(x.unitType == e.1 && x.unit == e.2)),
      hist := r.hist.filter (fun h => !(rowUnitType (h.1 / 2 ^ 16) == e.1 && h.1 % 2 ^ 16 == e.2)) })
    if has then m.returnUnit e.1 e.2 else m)

/-- The edge of the composition: retirements, the delta of step 6, and slots that can no longer come true. -/
def Module.compEdge (m : Module) : Module :=
  let m : Module := { m with cores := m.cores.map (fun e => (e.1, { e.2 with clearing := false })) }
  let old := m.comp.oldRecs
  let m := m.retireEdge
  let m : Module := match old with
    | none => m
    | some r =>
      let m := (m.setComp (fun c => { c with oldRecs := none })).bindingEdge r
      let tickNew := (m.recs.filter (fun e => e.1 / 2 ^ 72 == 1)) != (r.filter (fun e => e.1 / 2 ^ 72 == 1))
      let named := m.comp.slots.any (fun e => e.2.state == .applied && e.2.applyFrame == m.F && e.2.ops.any (fun o => o.rtype / 256 == 1))
      let m := if tickNew || named then m.applyTick r (frameAdd m.F 1) else m
      m.powerRecs
  let m := Module.dropBroken 8 m.removeEdge
  Module.dropBroken 8 (each (List.range 8) (each (List.range 8) m Module.deltaChecked) Module.settleSlot)

/-! ### Arming (R300 to R305) -/

/-- An arming event reaches the module. -/
def Module.armEvent (m : Module) (id : Nat) : Module :=
  let hit := m.comp.slots.filter (fun e => e.2.state == .validated && e.2.armed && e.2.armId == id)
  if hit.isEmpty then m.raise COMP_ARM_EVENT_stray
  else each hit m (fun m e =>
    if frameLt m.F e.2.applyFrame || (m.F == e.2.applyFrame && m.tick.phase == .open_) then
      (m.modSlot e.1 (fun x => { x with signalled := true })).raise COMP_ARM_EVENT_armed
    else m.raise COMP_ARM_EVENT_late)

/-- An ARM message. -/
def armBytes (id : Nat) : List Byte := leBytes 1 1 ++ zeros 3 ++ leBytes 4 id ++ zeros 8

/-- A write of COMP_ARM_CTRL with fire set, and the relay and range count it writes. -/
def effArmFire (relay : Bool) (nDest : Nat) (m : Module) : Module :=
  let m := m.setReg COMP_ARM_CTRL (b2n relay * 2 + nDest % 32 * 4)
  let id := m.reg COMP_ARM_FIRE_ID
  let m := m.armEvent id
  if !relay then m
  else (List.range (min (nDest % 32) 16)).foldl (fun m j =>
    let lo := m.fld (COMP_ARM_DEST_first j)
    let hi := m.fld (COMP_ARM_DEST_last j)
    (List.range (hi + 1 - lo)).foldl (fun m i => if lo + i = m.selfId then m else m.sendCtrl (lo + i) ctrlCOMP (armBytes id)) m) m

/-- An ARM message from another module. -/
def effArmReceived (id : Nat) (m : Module) : Module := (m.takeInbox ctrlCOMP).armEvent id

/-- A STATUS message: slot state, rejection code, arming event. -/
def effStatusReceived (state code id : Nat) (m : Module) : Module :=
  let m := m.takeInbox ctrlCOMP
  if id ≠ m.reg COMP_ARM_TALLY_ID then m
  else
    let f : Option Fld := if state = 2 then some COMP_ARM_TALLY_VAL_count else if state = 3 then some COMP_ARM_TALLY_APP_count
      else if state = 4 then some (if code = rcNOT_ARMED then COMP_ARM_TALLY_DROP_count else COMP_ARM_TALLY_REJ_count) else none
    match f with
    | some f => (m.count f 1).raise COMP_ARM_EVENT_tally
    | none => m

def effTallyReset (id : Nat) (m : Module) : Module :=
  ((((m.setReg COMP_ARM_TALLY_ID id).setReg COMP_ARM_TALLY_VAL 0).setReg COMP_ARM_TALLY_REJ 0).setReg COMP_ARM_TALLY_APP 0).setReg COMP_ARM_TALLY_DROP 0

end Sys2Proof.Machine
end

