-- ==== Sys2Proof/Machine/Twin.lean ====
section
/-!
DEFINITION. Twin pairing (R306 to R328): HELLO and JOIN, the messages of a pair, negatives and the mirror ring, takeover and
swap, contact prints and verdicts, and what a change of the TWIN section does at the edge.
-/
namespace Sys2Proof.Machine

def twinVdInit (mode : Nat) (wasBound : Bool) : TwinVd :=
  { mode := mode, state := tvUNPROTECTED, shadow := mode == 1 && !wasBound, bothFlagged := false, digestOk := false, negs := [],
    committed := none, lastNeg := 0, lag := 0, mwSent := 0, mwBytes := 0, firstNeg := true, wasBound := wasBound, seeded := false, seedBad := [],
    running := 0, flags := 0, tilesEnded := 0, own := [], peer := [], lastPrint := 0, lastPeer := 0, unequal := none, heldFlags := 0,
    clearAt := none, swapAt := none, swapOut := false, sent := [], restore := [], syncOwn := [], syncPeer := [], agreed := [] }

/-- Is an enabled PAIR record in force? -/
def Module.pairOn (m : Module) : Bool := m.compOn && (match pairRec m.recs with | some (_, on, _) => on | none => false)
def Module.twinId (m : Module) : Nat := match pairRec m.recs with | some (id, _, _) => id | none => 0
def Module.twinSerial (m : Module) : Nat := match pairRec m.recs with | some (_, _, s) => s | none => 0

/-- Is the module on the common frame: LOCKED, or itself the root that others follow (R42, R306)? -/
def Module.onFrame (m : Module) : Bool := m.tick.state == .locked || m.tick.role == 1 || m.tick.role == 3

/-- What pairing needs of this module at every point of it: an enabled PAIR record, port 16 UP and the common frame. -/
def Module.mayPair (m : Module) : Bool := m.pairOn && m.portUp 16 && m.onFrame

/-- A TWIN message was received: it leaves the inbox and counts as a sign of life. -/
def Module.twinHeard (m : Module) : Module := (m.takeInbox ctrlTWIN).setTwin (fun t => { t with heard := true })


/-- Contexts of a device. -/
def Module.vdCtxs (m : Module) (vd : Nat) : List (Nat × Ctx) := m.obj.ctxs.filter (fun e => e.2.state != .free && e.2.vd == vd)

/-- A PAIRED module protects a device: MIRROR is seeded first, LOCKSTEP starts with a print of 0 and no flags (R311, R317, R320, R322). -/
def TwinVd.protect (t : TwinVd) : TwinVd :=
  if t.mode = 1 then { t with state := tvSEEDING, seeded := false, seedBad := [], mwSent := 0, mwBytes := 0 }
  else { t with state := tvPROTECTED, running := 0, flags := 0, tilesEnded := 0, own := [], peer := [], unequal := none, heldFlags := 0 }

/-- Protect a device of the module with what `f` sets beside; the event tells that a LOCKSTEP device became PROTECTED (R328). -/
def Module.protectVd (m : Module) (vd : Nat) (f : TwinVd → TwinVd) : Module :=
  let m := if m.isLockstep vd then m.raise TWIN_EVENT_seed_done else m
  m.modTwinVd vd (fun t => f t.protect)

/-- A device of a module that is not PAIRED, or whose digests differ (R310, R311). -/
def TwinVd.unprotect (t : TwinVd) : TwinVd :=
  if t.state == tvSEEDING || t.state == tvPROTECTED || t.state == tvDIVERGENT then { t with state := tvUNPROTECTED, seeded := false } else t

/-- A swap that cannot be finished is abandoned: both modules keep their roles (R319). The next negative tells everything again. -/
def Module.swapFails (m : Module) (vd : Nat) : Module :=
  (m.modTwinVd vd (fun t => { t with
    swapAt := none, swapOut := false, sent := [], shadow := t.shadow && !t.swapOut, wasBound := t.wasBound || t.swapOut })).raise TWIN_EVENT_swap_failed

/-- Abandon the swaps under way of a module that leaves PAIRED. -/
def Module.dropSwaps (m : Module) : Module := each (m.twin.vds.filter (fun e => e.2.swapAt.isSome)) m (fun m e => m.swapFails e.1)

def Module.unprotectAll (m : Module) : Module := m.dropSwaps.setTwin (fun t => { t with vds := t.vds.map (fun e => (e.1, e.2.unprotect)) })

/-- The counts of a LOCKSTEP device that the twins agree on begin anew: at the edge at which both are PAIRED (R321). -/
def Module.startAgree (m : Module) (vd : Nat) : Module :=
  let m := m.modTwinVd vd (fun t => { t with syncOwn := [], syncPeer := [], agreed := [] })
  { m with stw := m.stw.map (fun k =>
      (k.1, if stwVd m.recs k.1 == some vd then { k.2 with harts := k.2.harts.map (fun e => (e.1, { e.2 with taken := 0 })) } else k.2)) }

/-! ### Digests (R310) -/

/-- A device digest arrives. -/
def Module.twinDigest (m : Module) (vd : Nat) (dig : List Byte) : Module :=
  match m.twinVd? vd with
  | none => m
  | some t =>
    if dig == deviceDigest m.recs vd then
      if !t.digestOk && t.state == tvUNPROTECTED && m.twin.state == tsPAIRED then m.protectVd vd (fun t => { t with digestOk := true })
      else m.modTwinVd vd (fun t => { t with digestOk := true })
    else (m.raise TWIN_EVENT_config_split).modTwinVd vd (fun t => { t with digestOk := false, state := tvUNPROTECTED, seeded := false })

/-! ### Pairing (R306, R307) -/

/-- The body of a HELLO. -/
def Module.helloBytes (m : Module) : List Byte :=
  leBytes 2 m.selfId ++ leBytes 2 m.twinId ++ m.serial ++ leBytes 16 m.twinSerial ++ leBytes 4 (periodNs m.recs) ++ modeDigest m.recs

/-- A HELLO: frame, the peer's ID and serial, the twin ID and serial it claims, period and mode digest. -/
def effHello (frame mid claimed : Nat) (serial claimedSerial : List Byte) (period : Nat) (digest : List Byte) (m : Module) : Module :=
  let m := (m.twinHeard).setFld TWIN_PEER_module_id mid
  let ok := m.pairOn && m.portUp 16 && mid == m.twinId && leNat serial == m.twinSerial && claimed == m.selfId &&
    claimedSerial == m.serial && m.onFrame && frame == m.F && period == periodNs m.recs && digest == modeDigest m.recs
  if m.twin.state == tsPAIRED then m.setTwin (fun t => { t with toWait := true })
  else m.setTwin (fun t => { t with helloOk := ok })

/-- A JOIN with frame J, or the echo of one. -/
def effJoin (j : Nat) (echo : Bool) (m : Module) : Module :=
  let m := m.twinHeard
  if echo then
    if m.twin.state == tsJOINING && m.twin.join == some j && (frameLt m.F j || (m.F == j && m.tick.phase == .open_)) then
      m.setTwin (fun t => { t with echoed := true })
    else m
  else if m.mayPair && m.twin.helloOk && m.twin.helloSent && m.twinId < m.selfId && m.twin.state != tsPAIRED &&
      frameGe j (frameAdd m.F 2) then
    (m.sendTwin tmJOIN 0 0 (leBytes 6 j ++ leBytes 1 1 ++ zeros 1)).setTwin
      (fun t => { t with state := tsJOINING, join := some j, echoed := true })
  else m

def effBeat (m : Module) : Module := m.twinHeard
def effFailed (m : Module) : Module := m.twinHeard.setTwin (fun t => { t with failed := true })
def effDetach (m : Module) : Module := m.twinHeard.setTwin (fun t => { t with detached := true })

/-! ### Negatives (R315, R316) -/

/-- A record of a negative: type, length, fields. The order of the fields within a record is the model's. -/
def NegRec.bytes (r : NegRec) : List Byte :=
  let (ty, b) : Nat × List Byte :=
    match r with
    | .list ctx be label stream offset core overruns errors hold =>
      (1, leBytes 4 stream ++ leBytes 6 offset ++ leBytes 3 ctx ++ zeros 3 ++ leBytes 1 (b2n be + 2 * label) ++ leBytes 2 core ++
          leBytes 1 (overruns + 16 * errors) ++ leBytes 1 hold)
    | .queue q i => (2, leBytes 4 q ++ leBytes 4 i)
    | .cmd q i n => (3, leBytes 4 q ++ leBytes 4 i ++ leBytes 4 n)
    | .timeline t v => (4, leBytes 4 t ++ leBytes 8 v)
    | .context c s k => (5, leBytes 4 c ++ leBytes 1 s ++ leBytes 1 k)
    | .seq id rec => (6, leBytes 4 id ++ rec)
    | .ref ty id n => (7, leBytes 1 ty ++ leBytes 4 id ++ leBytes 4 n)
  leBytes 1 ty ++ leBytes 3 b.length ++ b

def negTrailerBytes (t : NegTrailer) : List Byte :=
  leBytes 4 t.mwrites ++ leBytes 8 t.bytes ++ (t.digest ++ zeros 16).take 16 ++ leBytes 1 (b2n t.wasBound) ++ zeros 11

/-- The records of a device that describe state: its queues, timelines, contexts, sequences and device counts. -/
def Module.vdState (m : Module) (vd : Nat) : List NegRec :=
  let cs := m.vdCtxs vd
  let mine (c : Nat) : Bool := cs.any (fun e => e.1 == c)
  let qs := m.obj.queues.filter (fun e => e.2.state != .free && mine e.2.ctx)
  let ts := m.obj.tls.filter (fun e => e.2.state != .free && mine e.2.ctx)
  let os := m.obj.mos.filter (fun e => e.2.state != .free && mine e.2.ctx)
  qs.map (fun e => .queue e.1 e.2.picked) ++ ts.map (fun e => .timeline e.1 e.2.value) ++
  cs.map (fun e => .context e.1 (e.2.state.code + 4 * b2n e.2.lost) e.2.cause) ++
  (m.seq.recs.filter (fun e => mine e.2.ctx)).map (fun e => .seq e.1 e.2.bytes) ++
  cs.map (fun e => .ref 0 e.1 e.2.devCount) ++ qs.map (fun e => .ref 1 e.1 e.2.devCount) ++
  os.map (fun e => .ref 2 e.1 e.2.devCount) ++ ts.map (fun e => .ref 3 e.1 e.2.devCount)

/-- The device of a queue. -/
def Module.vdOfQueue (m : Module) (q : Nat) : Option Nat :=
  (m.obj.queues.get? q).bind (fun k => (m.ctx? k.ctx).map (·.vd))

/-- The object handle in the list entry of a fill tile, whose body no object holds (log entry 111). -/
def noStream : Nat := 0xFFFF_FFFF

/-- The lists of the coming frame and the commands in progress, sent whole. -/
def Module.vdWork (m : Module) (vd : Nat) : List NegRec :=
  (m.nextLists.filter (fun t => t.vd == vd)).map (fun t => .list t.ctx t.be t.label (if t.isFill then noStream else t.stream) (if t.isFill then 0 else t.offset) t.core t.overruns t.errEnds t.hold) ++
  (m.obj.cmds.filter (fun c => m.vdOfQueue c.queue == some vd && m.wordState c.queue c.index == cswPICKED)).map (fun c => .cmd c.queue c.index (if c.kind = 1 then c.nTiles - c.ended else 0))

/-- The record that tells of an object which is no longer there (R315). -/
def NegRec.closed (now : List NegRec) (r : NegRec) : Option NegRec :=
  match r with
  | .context c _ _ => if now.any (fun x => match x with | .context d _ _ => d == c | _ => false) then none else some (.context c 0 0)
  | .seq i _ => if now.any (fun x => match x with | .seq j _ => j == i | _ => false) then none else some (.seq i (zeros 64))
  | .ref ty i n => if n = 0 || now.any (fun x => match x with | .ref t j _ => t == ty && j == i | _ => false) then none else some (.ref ty i 0)
  | _ => none

/-- Cut records into parts of at most 4,080 bytes; the last keeps 40 for the trailer. -/
def negParts (l : List (List Byte)) : List (List Byte) :=
  let acc := l.foldl (fun (acc : List (List Byte) × List Byte) r =>
    if acc.2.length + r.length > 4040 then (acc.1 ++ [acc.2], r) else (acc.1, acc.2 ++ r)) ([], [])
  acc.1 ++ [acc.2]

/-- Form and send the negative of the frame, once the lists of the next one stand; `after` is the module at the edge to come, whose
objects and sequences the negative describes. -/
def Module.sendNeg (m : Module) (after : Module) (vd : Nat) : Module :=
  match m.twinVd? vd with
  | none => m
  | some t =>
    if t.mode ≠ 1 || m.twin.state != tsPAIRED || (t.shadow && !t.firstNeg) then m
    else
      let state := after.vdState vd
      let recs := after.vdWork vd ++ state.filter (fun r => !t.sent.contains r) ++ t.sent.filterMap (NegRec.closed state)
      let tr : NegTrailer := { mwrites := t.mwSent, bytes := t.mwBytes, digest := deviceDigest m.recs vd, wasBound := t.firstNeg && t.wasBound }
      let parts := negParts (recs.map NegRec.bytes)
      let m := each parts.zipIdx m (fun m p =>
        let last := p.2 + 1 == parts.length
        m.sendTwin tmNEG vd (b2n last) (if last then p.1 ++ negTrailerBytes tr else p.1))
      m.modTwinVd vd (fun t => { t with sent := state, mwSent := 0, mwBytes := 0, firstNeg := false })

/-- A sequence record from its bytes, taken over with lease OTHER (R152, R319). -/
def seqRecOf (part : Nat) (b : List Byte) : SeqRec :=
  let w := fieldOf b 0 1
  { lost := bits w 0 3 == 2, lease := 2, direct := bit w 6, released := bit w 7, ctx := fieldOf b 1 3, part := part,
    pageCount := fieldOf b 4 4, listBase := fieldOf b 8 6, owner := fieldOf b 14 2, segId := fieldOf b 16 8, commitSeq := fieldOf b 24 8,
    epoch := fieldOf b 32 4, maxEpoch := fieldOf b 36 4, expiry := fieldOf b 40 6, hold := fieldOf b 46 1, lostCause := fieldOf b 47 1,
    lostFrame := fieldOf b 48 6, moveTo := false, offer := none }

/-- Commands of the queues of a device that a negative shows complete leave the shadow's queues. -/
def Module.shadowQueue (m : Module) (q upTo : Nat) (open_ : List (Nat × Nat)) : Module :=
  match m.obj.queues.get? q with
  | none => m
  | some k =>
    let n := subMod 32 upTo k.picked
    let m := if n ≤ 65536 then (List.range n).foldl (fun m i =>
        let j := (k.picked + i) % 2 ^ 32
        if open_.contains (q, j) then m.setWord q j cswPICKED 0 0 else (m.setWord q j cswDONE stOK 0)) m else m
    m.modQueue q (fun k => { k with picked := upTo })

/-- Apply a committed negative's records to the shadow copies. -/
def Module.applyNeg (m : Module) (vd : Nat) (recs : List NegRec) : Module :=
  let open_ := recs.filterMap (fun (r : NegRec) => match r with | NegRec.cmd q i _ => some (q, i) | _ => none)
  let was := match m.twinVd? vd with
    | some t => (match t.committed with | some n => n.recs.filterMap (fun (r : NegRec) => match r with | NegRec.cmd q i _ => some (q, i) | _ => none) | none => [])
    | none => []
  let m := each (was.filter (fun x => !open_.contains x)) m (fun m x => m.setWord x.1 x.2 cswDONE stOK 0)
  each recs m (fun m r => match r with
    | .list .. => m
    | .queue q i => m.shadowQueue q i open_
    | .cmd q i n => m.setWord q i cswPICKED 0 n
    | .timeline t v => m.modTl t (fun x => { x with value := v })
    | .context c s k =>
      if s % 4 = 0 then m.freeObj 0 c
      else m.modCtx c (fun x => { x with state := if s % 4 = 1 then .live else .releasing, lost := s ≥ 4, cause := if s ≥ 4 then k else x.cause })
    | .seq id b =>
      if fieldOf b 0 1 % 8 = 0 then { m with seq := { m.seq with recs := m.seq.recs.del id } }
      else { m with seq := { m.seq with recs := m.seq.recs.put id (seqRecOf (m.ctxPart (fieldOf b 1 3)) b) } }
    | .ref 0 i n => m.modCtx i (fun x => { x with devCount := n })
    | .ref 1 i n => m.modQueue i (fun x => { x with devCount := n })
    | .ref 2 i n => m.modMo i (fun x => { x with devCount := n })
    | .ref _ i n => m.modTl i (fun x => { x with devCount := n }))

/-- Is the ring place [at_, at_ + len) free of messages? -/
def Module.ringClear (m : Module) (at_ len : Nat) : Bool :=
  let size := m.mirrorSize
  m.twin.ring.all (fun x => !((List.range ((len + 63) / 64)).any (fun i => x.holds size ((at_ + 64 * i) % size))))

/-- Store a message in the ring at TWIN_RING_BASE (R316); none when it finds the ring full. DESIGN CHOICE (log entry 100): the data lie
there in arrival order without a header, wrapping at the end, and a ring outside the system carve-out holds nothing. -/
def Module.ringStore (m : Module) (vd f off : Nat) (data : List Byte) : Option Module :=
  let size := m.mirrorSize
  let used := m.twin.ring.foldl (fun n x => n + x.len) 0
  let at_ := m.twin.ringNext % max 1 size
  if used + data.length > size || !m.allowed 0xFF m.mirrorBase size || !m.ringClear at_ data.length then none
  else
    let n := min data.length (size - at_)
    let m := (m.store (m.mirrorBase + at_) (data.take n)).store m.mirrorBase (data.drop n)
    some (m.setTwin (fun x => { x with ringNext := (at_ + data.length) % size, ring := x.ring ++
      [{ vd := vd, frame := f, off := off, at_ := at_, len := data.length }] }))

/-- Apply a message of the ring: its data are read and written to their offset. A line that cannot be read takes the message with it
(R384). -/
def Module.ringApply (m : Module) (x : MirrorMsg) : Module :=
  let n := min x.len (m.mirrorSize - x.at_)
  match m.memRead 0xFF (m.mirrorBase + x.at_) n with
  | (m, .ok, a) =>
    (match if x.len = n then (m, .ok, []) else m.memRead 0xFF m.mirrorBase (x.len - n) with
     | (m, .ok, b) => m.store x.off (a ++ b)
     | (m, _, _) => m.actSystem)
  | (m, _, _) => m.actSystem

/-- Are the counts of MWRITEs that the trailer of a negative states met (R316)? -/
def Module.negMet (m : Module) (vd : Nat) (n : Neg) : Bool :=
  let mine := m.twin.ring.filter (fun x => x.vd == vd && x.frame == n.frame)
  match n.trailer with
  | some tr => tr.mwrites == mine.length && tr.bytes == mine.foldl (fun s x => s + x.len) 0
  | none => false

/-- Commit the oldest complete negative whose MWRITE counts are met; what was received for earlier frames can no longer be committed,
and its ring space is released (log entry 111). The lag counts the frame edges between the frame's end
and the commit: with a lag of 0 the negative of F is committed before a failure in F+1 (R317, R318). -/
def Module.tryCommit (m : Module) (vd : Nat) : Module :=
  match m.twinVd? vd with
  | none => m
  | some t =>
    match (sortBy (·.frame) t.negs).find? (m.negMet vd) with
    | none => m
    | some n =>
      if !t.shadow then m
      else
        let m := each (m.twin.ring.filter (fun x => x.vd == vd && x.frame == n.frame)) m (fun m x => m.ringApply x)
        let m := m.setTwin (fun x => { x with ring := x.ring.filter (fun y => !(y.vd == vd && frameGe n.frame y.frame)) })
        let m := m.applyNeg vd n.recs
        let lag := subMod 48 m.F n.frame
        let m := if lag > 0 then
            (m.raise TWIN_EVENT_mirror_lag).setFld TWIN_LAG_peak (min 255 (max lag (m.fld TWIN_LAG_peak))) else m
        m.modTwinVd vd (fun t => { t with committed := some n, lastNeg := n.frame, lag := lag, negs := t.negs.filter (fun x => frameLt n.frame x.frame) })

/-- A part of a negative of frame `f`; the last one carries the trailer. -/
def effNeg (vd f : Nat) (recs : List NegRec) (trailer : Option NegTrailer) (m : Module) : Module :=
  let m := m.twinHeard
  match m.twinVd? vd with
  | none => m
  | some t =>
    if t.mode ≠ 1 then m
    else
      let old := (t.negs.find? (fun n => n.frame == f)).getD { frame := f, recs := [], trailer := none }
      let now : Neg := { old with recs := old.recs ++ recs, trailer := match trailer with | some x => some x | none => old.trailer }
      let first := t.committed.isNone && t.negs.all (fun n => n.trailer.isNone)
      let m := m.modTwinVd vd (fun t => { t with negs := t.negs.filter (fun n => n.frame != f) ++ [now] })
      match trailer with
      | none => m
      | some tr =>
        let m := m.twinDigest vd tr.digest
        -- R311: the first negative settles the roles, which a later pairing keeps
        let m := if first && t.state != tvTAKEN_OVER then
            let active := if t.wasBound != tr.wasBound then t.wasBound else decide (m.selfId < m.twinId)
            m.modTwinVd vd (fun t => { t with shadow := !active, wasBound := active })
          else m
        m.tryCommit vd

/-- A precious write of the twin: local offset and whole lines. -/
def effMwrite (vd f off : Nat) (data : List Byte) (m : Module) : Module :=
  let m := m.twinHeard
  match m.twinVd? vd with
  | none => m
  | some t =>
    if t.mode ≠ 1 then m
    else
      match m.ringStore vd f off data with
      | none => m.modTwinVd vd (fun t => { t with state := tvUNPROTECTED, seeded := false })
      | some m => m.tryCommit vd

/-- The ranges of the precious objects of a device, cut at pages: function, PASID, address and length. -/
def Module.seedPages (m : Module) (vd : Nat) : List (Nat × Nat × Nat × Nat) :=
  m.obj.mos.flatMap (fun e =>
    match m.ctx? e.2.ctx with
    | some x =>
      if e.2.state == .free || !e.2.precious || x.vd ≠ vd then []
      else (List.range ((e.2.va % 4096 + e.2.size + 4095) / 4096)).map (fun i =>
        let lo := max e.2.va (e.2.va / 4096 * 4096 + 4096 * i)
        (x.fn, x.pasid, lo, min (e.2.va + e.2.size) (e.2.va / 4096 * 4096 + 4096 * (i + 1)) - lo))
    | none => [])

/-- Translate the precious ranges: the pieces that lie in this module's memory, or nothing while a translation is awaited. -/
def Module.seedPieces (m : Module) (vd : Nat) : Module × Option (List (Nat × Nat)) :=
  let bad := match m.twinVd? vd with | some t => t.seedBad | none => []
  (m.seedPages vd).foldl (fun acc p =>
    if bad.contains (p.2.2.1 / 4096 * 4096) then acc
    else match acc.1.translate p.1 p.2.1 p.2.2.1 false (.seed vd), acc.2 with
      | (m, .hit pa), some l => (match m.place pa with
        | .loc off => (m, some (l ++ [(off, p.2.2.2)]))
        | _ => (m, some l))
      | (m, _), _ => (m, none)) (m, some [])

/-- The seeding copy of a device ends: every precious object has been sent in MWRITE messages, offsets rising. While a
translation is awaited the copy has not ended. -/
def effSeedCopyDone (vd : Nat) (m : Module) : Module :=
  match m.twinVd? vd with
  | some t =>
    if t.state != tvSEEDING || t.seeded then m
    else if t.shadow then m.modTwinVd vd (fun t => { t with seeded := true })
    else match m.seedPieces vd with
      | (m, some l) =>
        let m := (m.served (.seed vd)).modTwinVd vd (fun t => { t with seeded := true })
        each (sortBy (·.1) l) m (fun m p => m.mirrorWrite vd p.1 (m.dataAt p.1 p.2))
      | (m, none) => m
  | none => m

/-! ### Takeover and swap (R318, R319) -/

/-- Forget the work of a device that this module has listed: its tiles, and its commands in progress. -/
def Module.dropWork (m : Module) (vd : Nat) : Module :=
  (m.removeTiles (fun t => t.vd == vd)).setObj (fun o => { o with
    cmds := o.cmds.filter (fun c => !(m.vdOfQueue c.queue == some vd && m.wordState c.queue c.index == cswPICKED)) })

/-- The new ACTIVE module resumes from the last committed negative; one that gave the device away forgets what it still lists. -/
def Module.resumeVd (m : Module) (vd st : Nat) : Module :=
  match m.twinVd? vd with
  | none => m
  | some t =>
    let recs := match t.committed with | some n => n.recs | none => []
    let cmds := recs.filter (fun r => match r with | .cmd .. => true | _ => false)
    let lists := recs.filter (fun r => match r with | .list .. => true | _ => false)
    let m := (m.dropWork vd).setTwin (fun x => { x with ring := x.ring.filter (fun y => y.vd != vd) })
    m.modTwinVd vd (fun t => { t with
      state := st, shadow := false, wasBound := true, restore := cmds ++ lists, negs := [], swapAt := none, swapOut := false, sent := [] })

/-- Where a tile of a LIST record came from: it is the tile at that offset of a command in progress, none of whose tiles stands for it
yet, or else a steward entry of the device (log entry 111). -/
def Module.listSrc (m : Module) (vd ctx stream offset : Nat) : TileSrc :=
  let ofCmd (c : Cmd) : Option TileSrc :=
    if c.kind ≠ 1 || c.ctx ≠ ctx || fieldOf c.body 24 4 ≠ stream then none
    else match m.moOf stream ctx (some (c.queue, c.index)) with
      | none => none
      | some (_, o) => match (m.readTiles ctx o (fieldOf c.body 28 6) c.nTiles (.stream c.queue)).2 with
        | .tiles ts => (ts.zipIdx.find? (fun t => t.1.1 == offset && !m.nextLists.any (fun x => x.src == .host c.queue c.index t.2))).map
            (fun t => .host c.queue c.index t.2)
        | _ => none
  match m.obj.cmds.findSome? ofCmd with
  | some x => x
  | none => .steward (((List.range 64).find? (fun s => stwVd m.recs s == some vd)).getD 0) 0

/-- Act on one record of a takeover: `false` says that its translations are still missing. -/
def Module.restoreOne (m : Module) (r : NegRec) : Module × Bool :=
  match r with
  | .cmd q i left =>
    (match m.obj.queues.get? q with
     | none => (m, true)
     | some k =>
       match m.fetchCmd q { k with picked := i, tailSeen := k.tail } with
       | (m, .wait) => (m, false)
       | (m, .lost cause _) => (m.markLost k.ctx cause, true)
       | (m, .cmd c) =>
         let c := { c with ended := c.nTiles - left, atEdge := c.kind != 1 }
         let ob := if c.kind = 1 then m.moOf (fieldOf c.body 24 4) c.ctx (some (q, i)) else none
         match ob with
         | none => ({ m with obj := { m.obj with cmds := m.obj.cmds ++ [{ c with tls := if c.sig then [c.sigTl] else [] }] } }, true)
         | some (oi, o) =>
           match m.readTiles c.ctx o (fieldOf c.body 28 6) c.nTiles (.stream q) with
           | (m, .wait) => (m, false)
           | (m, .lost cause) => (m.markLost c.ctx cause, true)
           | (m, .reject) => (m, true)
           | (m, .tiles ts) =>
             let m := m.served (.stream q)
             let objs := ts.foldl (fun l t => t.2.hdr.objs.foldl (fun l h => insertU l (bits h 0 24)) l) [oi]
             let tls := ts.foldl (fun l t => t.2.tls.foldl insertU l) (if c.sig then [c.sigTl] else [])
             ({ m with obj := { m.obj with cmds := m.obj.cmds ++ [{ c with objs := objs, tls := tls }] } }, true))
  | .list ctx be label stream offset _ overruns errors hold =>
    (if stream = noStream then (m, true)
     else
       let src := m.listSrc (match m.ctx? ctx with | some x => x.vd | none => 0) ctx stream offset
       match m.streamObj stream with
       | none => (m.markLost ctx lostBAD_OBJECT, true)
       | some ob =>
         match m.readTile ctx ob offset (match src with | .steward s h => .entry s h ctx | .host q _ _ => .stream q | .fill _ => .stream 0) with
         | (m, .wait) => (m, false)
         | (m, .range) => (m.markLost ctx lostMEM_RANGE, true)
         | (m, .uncorrectable l) => ((m.dataLost l 2 (m.ctxPart ctx) (some ctx)).markLost ctx lostDATA_LOST, true)
         | (m, .data b) =>
           let m := match src with | .steward s h => m.served (.entry s h ctx) | .host q _ _ => m.served (.stream q) | .fill _ => m
           let (m, t) := m.newTile (rawTile b) src ctx label stream offset
           (m.takeTile { t with be := be, overruns := overruns, errEnds := errors, hold := hold } true, true))
  | _ => (m, true)

/-- Step 8: the lists of a device taken over, as far as its tiles can be read. -/
def Module.restoreTiles (m : Module) : Module :=
  each (m.twin.vds.filter (fun e => !e.2.restore.isEmpty)) m (fun m e => go e.1 e.2.restore m)
where
  go (vd : Nat) : List NegRec → Module → Module
    | [], m => m.modTwinVd vd (fun t => { t with restore := [] })
    | r :: rest, m =>
      match m.restoreOne r with
      | (m', true) => go vd rest (Module.inStep8 m m')
      | (m', false) => (Module.inStep8 m m').modTwinVd vd (fun t => { t with restore := r :: rest })

/-- A write of TWIN_VD_CTRL.swap. -/
def effTwinVdSwap (vd : Nat) (m : Module) : Module :=
  match m.twinVd? vd with
  | some t =>
    if t.mode = 1 && t.state == tvPROTECTED && !t.shadow && t.swapAt.isNone then
      let s := frameAdd m.F 2
      (m.sendTwin tmSWAP vd 0 (leBytes 6 s)).modTwinVd vd (fun t => { t with swapAt := some s, swapOut := true })
    else m
  | none => m

/-- A SWAP message names frame S. -/
def effSwap (vd s : Nat) (m : Module) : Module :=
  let m := m.twinHeard
  match m.twinVd? vd with
  | some t => if t.mode = 1 && t.shadow then m.modTwinVd vd (fun t => { t with swapAt := some s, swapOut := false }) else m
  | none => m

/-- Step 4: swaps whose frame S is over. In the window of S+1 the module that receives the device resumes it or abandons the swap. The
module that gave it has no word of that; what it has is that the twin lacks the negative of S, which it sees in the window of S+1, or
that the twin has sent no negative of S+1, which it sees in the window of S+2, and it then takes the device back with what it still
lists. DEDUCED (log entry 111). -/
def Module.swapStep (m : Module) : Module :=
  each m.twin.vds m (fun m e =>
    match e.2.swapAt with
    | none => m
    | some s =>
      if e.2.swapOut then
        if m.F = frameAdd s 1 then (if m.negWaits e.1 s then m.swapFails e.1 else m)
        else if m.F = frameAdd s 2 then
          (if e.2.negs.any (fun n => frameGe n.frame (frameAdd s 1)) || frameGe e.2.lastNeg (frameAdd s 1) then
             (m.dropWork e.1).modTwinVd e.1 (fun t => { t with swapAt := none, swapOut := false })
           else m.swapFails e.1)
        else m
      else if m.F ≠ frameAdd s 1 then m
      else if e.2.lastNeg = s && e.2.committed.isSome then m.resumeVd e.1 tvPROTECTED
      else m.swapFails e.1)

/-- A PAIRED module leaves for ALONE (R308, R317, R318, R325). -/
def Module.leavePaired (m : Module) : Module :=
  let m := (m.setTwin (fun t => { t with state := tsALONE, helloOk := false, helloSent := false, failed := false, join := none })).raise TWIN_EVENT_twin_lost
  let m := (m.logEvent clsPEER errTWIN_LOST 0 0 0 none none 0).report clsPEER errTWIN_LOST 0 0 m.twinId
  let auto := m.flag TWIN_CTRL_auto_takeover
  let noSwap (m : Module) : Module := m.setTwin (fun x => { x with vds := x.vds.map (fun e => (e.1, { e.2 with swapAt := none, swapOut := false })) })
  -- a device on its way to the twin is this module's again, unless it is the SHADOW already
  let m := each (m.twin.vds.filter (fun e => e.2.swapAt.isSome && !(e.2.swapOut && e.2.shadow))) m (fun m e => m.swapFails e.1)
  noSwap <| each m.twin.vds m (fun m e =>
    let t := e.2
    if t.mode = 2 then
      (if t.state == tvPROTECTED || t.state == tvDIVERGENT then m.modTwinVd e.1 (fun t => { t with state := tvTAKEN_OVER }) else m)
    else if !t.shadow then
      (if t.state == tvSEEDING || t.state == tvPROTECTED then m.modTwinVd e.1 (fun t => { t with state := tvUNPROTECTED, seeded := false }) else m)
    else if !auto then
      (if t.state == tvSEEDING || t.state == tvPROTECTED then m.modTwinVd e.1 (fun t => { t with state := tvUNPROTECTED, seeded := false }) else m)
    else if t.state == tvPROTECTED && t.digestOk then (m.resumeVd e.1 tvTAKEN_OVER).raise TWIN_EVENT_takeover
    else
      let m := (m.raise TWIN_EVENT_takeover_failed).modTwinVd e.1 (fun t => { t with state := tvUNPROTECTED, seeded := false })
      each (m.vdCtxs e.1) m (fun m c => m.markLost c.1 lostTWIN))

/-! ### LOCKSTEP (R321 to R326) -/

/-- Counts of a device's queues and steward harts after step 7 (R321). -/
def Module.syncCounts (m : Module) (vd : Nat) : List (Nat × Nat) :=
  (m.obj.queues.filter (fun e => m.vdOfQueue e.1 == some vd && e.2.state != .free)).map (fun e => (e.1, e.2.picked)) ++
  (m.stw.filter (fun k => stwVd m.recs k.1 == some vd)).flatMap (fun k =>
    k.2.harts.map (fun h => (hartKey k.1 h.1, (h.2.taken + h.2.due + h.2.late) % 2 ^ 32)))

/-- At the end of step 7 the counts go to the twin. -/
def Module.sendSync (m : Module) : Module :=
  if m.twin.state != tsPAIRED then m
  else each (m.twin.vds.filter (fun e => e.2.mode == 2)) m (fun m e =>
    let l := m.syncCounts e.1
    (m.sendTwin tmSYNC e.1 0 (deviceDigest m.recs e.1 ++ l.flatMap (fun x => leBytes 8 x.1 ++ leBytes 4 x.2))).modTwinVd e.1
      (fun t => { t with syncOwn := l }))

/-- The twin's counts and device digest. -/
def effSync (vd : Nat) (digest : List Byte) (counts : List (Nat × Nat)) (m : Module) : Module :=
  (m.twinHeard.twinDigest vd digest).modTwinVd vd (fun t => if t.mode = 2 then { t with syncPeer := counts } else t)

/-- The window opens: the lower of the two counts of the last window, per queue and hart. -/
def Module.agree (m : Module) : Module :=
  m.setTwin (fun x => { x with vds := x.vds.map (fun e =>
    let l := e.2.syncOwn.filterMap (fun o => (e.2.syncPeer.find? (fun p => p.1 == o.1)).map (fun p =>
      (o.1, if subMod 32 p.2 o.2 < 2 ^ 31 then o.2 else p.2)))
    (e.1, if e.2.mode = 2 then { e.2 with agreed := sortBy (·.1) l } else e.2)) })

/-- The twin's contact print of frame `f`. -/
def effPrint (vd f print flags tiles : Nat) (m : Module) : Module :=
  m.twinHeard.modTwinVd vd (fun t =>
    if t.mode = 2 then { t with peer := t.peer ++ [{ frame := f, print := print % 2 ^ 256, flags := flags, tiles := tiles }], lastPeer := print % 2 ^ 256 }
    else t)

/-- The verdict on flags residue, ecc and link of both sides (R323 steps 4 and 5). -/
def Module.verdict (m : Module) (vd flags : Nat) : Module :=
  let own := flags % 8 ≠ 0
  let peer := flags / 16 % 8 ≠ 0
  let m := m.count TWIN_MISMATCH_count 1
  let m := m.modTwinVd vd (fun t => { t with unequal := none, heldFlags := 0 })
  if own && !peer then
    let m := ((m.setTwin (fun t => { t with faulty := true })).modTwinVd vd (fun t => { t with state := tvFENCED })).raise TWIN_EVENT_fenced
    m.removeTiles (fun t => t.vd == vd)
  else if peer && !own then
    let m := ((m.setTwin (fun t => { t with faulty := false })).modTwinVd vd (fun t => { t with state := tvTAKEN_OVER })).raise TWIN_EVENT_peer_faulty
    if m.flag TWIN_CTRL_reset_faulty then m.sendTwin tmRESET_REQ 0 0 [] else m
  else
    ((m.setTwin (fun t => { t with faulty := false })).modTwinVd vd (fun t => { t with state := tvDIVERGENT, bothFlagged := own && peer })).raise TWIN_EVENT_divergent

/-- Compare the contact prints of the last frame (R323). -/
def Module.comparePrints (m : Module) : Module :=
  each m.twin.vds m (fun m e =>
    let t := e.2
    let f := subMod 48 m.F 1
    if t.mode ≠ 2 || t.state != tvPROTECTED || !t.digestOk then m
    else match t.own.find? (fun p => p.frame == f), t.peer.find? (fun p => p.frame == f) with
      | some a, some b =>
        let m := m.modTwinVd e.1 (fun t => { t with own := t.own.filter (fun p => p.frame != f), peer := t.peer.filter (fun p => p.frame != f) })
        let here := a.flags % 16 + 16 * (b.flags % 16)
        if a.print = b.print then
          if t.unequal.isSome then
            (m.count TWIN_SKEWS_count 1).modTwinVd e.1 (fun t => { t with unequal := none, heldFlags := 0 })
          else m
        else
          let all := t.heldFlags ||| here
          let sched := a.flags % 16 ||| b.flags % 16
          let first := t.unequal.getD f
          let late := subMod 48 f first ≥ m.fld TWIN_SKEW_LIMIT_frames
          if !late && (sched = 8 || (t.unequal.isSome && sched = 0)) then
            m.modTwinVd e.1 (fun t => { t with unequal := some first, heldFlags := all })
          else m.verdict e.1 all
      | _, _ => m)

/-- The contact print of the frame, at the end of step 1. What the lists still hold is carried over (R29, R322). -/
def Module.takePrints (m : Module) : Module :=
  let m := each m.lists m (fun m t => m.noteVd t.vd 8)
  m.setTwin (fun x => { x with vds := x.vds.map (fun e =>
    (e.1, if e.2.mode = 2 then { e.2 with lastPrint := e.2.running } else e.2)) })

/-- Send the contact prints of the frame. -/
def Module.sendPrints (m : Module) : Module :=
  each (m.twin.vds.filter (fun e => e.2.mode == 2 && e.2.state != tvFENCED)) m (fun m e =>
    match m.twinVd? e.1 with
    | none => m
    | some t =>
      let p := (t.lastPrint + b2n m.twin.injPrint) % 2 ^ 256
      let m := (m.setTwin (fun x => { x with injPrint := false })).modTwinVd e.1 (fun t => { t with lastPrint := p })
      let m := m.sendTwin tmPRINT e.1 0 (leBytes 32 p ++ leBytes 4 t.flags ++ leBytes 4 t.tilesEnded)
      let mine : TwinPrint := { frame := m.F, print := p, flags := t.flags, tiles := t.tilesEnded }
      m.modTwinVd e.1 (fun t => { t with own := (t.own ++ [mine]).drop (t.own.length - 15), peer := t.peer.drop (t.peer.length - 16),
                                         flags := 0, tilesEnded := 0 }))

/-- A write of TWIN_VD_CTRL.clear with frame C. -/
def effTwinVdClear (vd c : Nat) (m : Module) : Module :=
  match m.twinVd? vd with
  | some t => if t.state == tvDIVERGENT then m.modTwinVd vd (fun t => { t with clearAt := some c }) else m
  | none => m

def effTwinInjPrint (m : Module) : Module := m.setTwin (fun t => { t with injPrint := true })
/-- No TWIN message in the next frame. -/
def effTwinInjBeatStop (m : Module) : Module := m.setTwin (fun t => { t with muteFrom := some (frameAdd m.F 1) })

/-! ### The window and the edge -/

/-- Does the module owe negatives in this frame? -/
def Module.owesNeg (m : Module) : Bool :=
  m.twin.state == tsPAIRED && m.twin.vds.any (fun e => e.2.mode == 1 && (!e.2.shadow || e.2.firstNeg))

/-- Are all cores of a twinned device retired (R309)? -/
def Module.vdDead (m : Module) (vd : Nat) : Bool :=
  let cs := vdCores m.recs vd
  !cs.isEmpty && (vdCores m.nextRecs vd).isEmpty && cs.all (fun c => m.retired 1 c)

/-- Step 4 of the window. -/
def Module.twinStep (m : Module) : Module :=
  if !m.pairOn then m
  else
    let m := if m.twin.vds.any (fun e => m.vdDead e.1) then m.sendTwin tmFAILED 0 0 (leBytes 1 1) else m
    let gone := m.twin.state == tsPAIRED && (!m.portUp 16 || m.twin.failed || !m.twin.heard)
    let m := m.setTwin (fun t => { t with heard := false })
    let m := if gone then m.leavePaired else m
    if m.twin.state == tsPAIRED then
      let m := (m.swapStep.comparePrints).sendPrints
      if m.owesNeg then m else m.sendTwin tmBEAT 0 0 []
    else
      let m := m.setTwin (fun t => { t with vds := t.vds.map (fun e => (e.1, { e.2 with flags := 0, tilesEnded := 0 })) })
      let m := if !m.portUp 16 then m.setTwin (fun t => { t with helloOk := false, helloSent := false })
        else if m.twin.muteFrom == some m.F then m
        else (m.sendTwin tmHELLO 0 0 m.helloBytes).setTwin (fun t => { t with helloSent := true })
      if (m.twin.state == tsWAIT || m.twin.state == tsALONE) && m.mayPair && m.twin.helloOk && m.twin.helloSent && m.selfId < m.twinId then
        let j := frameAdd m.F 4
        (m.sendTwin tmJOIN 0 0 (leBytes 6 j ++ zeros 2)).setTwin (fun t => { t with state := tsJOINING, join := some j, echoed := false })
      else m

/-- Step 7 has stopped: SYNC, and the negatives with the BEAT behind them. DEDUCED (log entry 37): R315 puts the negative in step 4 and
has it describe what steps 7 and 8 and the edge make, so it is formed when step 7 has stopped, with `edge` telling what the edge will
put in force. -/
def Module.twinCutoff (m : Module) (edge : Module → Module) : Module :=
  let m := m.sendSync
  if !m.owesNeg then m
  else
    let after := edge m
    (each m.twin.vds m (fun m e => m.sendNeg after e.1)).sendTwin tmBEAT 0 0 []

/-- Has a device no tile in any list (R320)? -/
def Module.noTiles (m : Module) (vd : Nat) : Bool :=
  !((m.lists ++ m.nextLists ++ m.retries ++ m.agreeQ).any (fun t => t.vd == vd))

/-- The MODE records in force of devices that are twinned: device and mode. -/
def Module.modesWanted (m : Module) : List (Nat × Nat) :=
  ((recsOf m.recs 0x0A02).map (fun e => (e.1, fieldOf e.2 8 1))).filter (·.2 ≠ 0)

/-- Devices enter twinning at the edge (R311, R317), one in LOCKSTEP at the first edge at which it has no tile (R320). `old` is the
composition before the edge. -/
def Module.twinEnter (m : Module) (old : Recs) : Module :=
  each m.modesWanted m (fun m w =>
    if (m.twinVd? w.1).isSome || (w.2 = 2 && !m.noTiles w.1) then m
    else
      let m := (m.setTwin (fun x => { x with vds := x.vds.put w.1 (twinVdInit w.2 (!(vdCores old w.1).isEmpty)) })).startAgree w.1
      if m.twin.state == tsPAIRED then m.protectVd w.1 id else m)

/-- Devices that leave a mode, and those that enter one (R327). -/
def Module.twinModes (m : Module) (old : Recs) : Module :=
  (m.setTwin (fun t => { t with vds := t.vds.filter (fun e => m.modesWanted.contains (e.1, e.2.mode)) })).twinEnter old

/-- The TWIN section of a composition comes into force. -/
def Module.twinCompose (m : Module) (old : Recs) : Module :=
  let m := m.twinModes old
  -- a HELLO that met the PAIR and MODE records before says nothing of those now
  let m := if pairRec old == pairRec m.recs && modeDigest old == modeDigest m.recs then m else m.setTwin (fun t => { t with helloOk := false, helloSent := false })
  if m.pairOn then
    if m.twin.state == tsOFF then m.setTwin (fun t => { t with state := tsWAIT }) else m
  else if m.twin.state == tsOFF then m
  else ((m.sendTwin tmDETACH 0 0 []).unprotectAll).setTwin (fun t => { t with state := tsOFF, helloOk := false, helloSent := false, join := none, echoed := false })

/-- The edge ends a frame whose negative a SHADOW has not committed: the lag grows (R317). -/
def Module.lagEdge (m : Module) (vd : Nat) (t : TwinVd) : Module :=
  let lag := subMod 48 m.F t.lastNeg
  if m.twin.state != tsPAIRED || t.mode ≠ 1 || !t.shadow || t.committed.isNone || lag = 0 then m
  else ((m.raise TWIN_EVENT_mirror_lag).setFld TWIN_LAG_peak (min 255 (max lag (m.fld TWIN_LAG_peak)))).modTwinVd vd (fun t => { t with lag := lag })

/-- The shutter edge ending frame F. -/
def Module.twinEdge (m : Module) : Module :=
  let t := m.twin
  let m :=
    if t.state == tsJOINING && (match t.join with | some j => frameGe m.F j | none => true) then
      if t.echoed && t.join == some m.F && m.mayPair && t.helloOk then
        let m := m.setTwin (fun t => { t with state := tsPAIRED, helloOk := false, helloSent := false, toWait := false, failed := false,
                                              echoed := false, join := none })
        let m := (m.setReg64 TWIN_JOIN_LO TWIN_JOIN_HI m.F).raise TWIN_EVENT_paired
        each m.twin.vds m (fun m e =>
          if e.2.state == tvUNPROTECTED || (e.2.mode == 1 && e.2.state == tvTAKEN_OVER) then
            let m := m.setTwin (fun x => { x with ring := x.ring.filter (fun y => y.vd != e.1) })
            (m.protectVd e.1 (fun t => { t with firstNeg := true, digestOk := false, sent := [], committed := none, negs := [] })).startAgree e.1
          else m)
      else m.setTwin (fun t => { t with state := tsWAIT, join := none, echoed := false })
    else if t.state == tsPAIRED && t.toWait then
      (m.setTwin (fun t => { t with state := tsWAIT, toWait := false, helloOk := false, helloSent := false })).unprotectAll
    else if t.detached && t.state != tsOFF then
      m.unprotectAll.setTwin (fun t => { t with state := tsALONE, helloOk := false, helloSent := false })
    else m
  let m := m.setTwin (fun t => { t with detached := false, muteFrom := if t.muteFrom == some m.F then none else t.muteFrom })
  let m := if m.compOn then m.twinEnter m.recs else m
  each m.twin.vds m (fun m e =>
    let v := e.2
    let m := m.lagEdge e.1 v
    let m := if v.state == tvSEEDING && v.seeded then
        (m.modTwinVd e.1 (fun t => { t with state := tvPROTECTED })).raise TWIN_EVENT_seed_done else m
    let m := if v.clearAt == some m.F && v.state == tvDIVERGENT then
        (m.modTwinVd e.1 (fun t => { t with running := 0, state := tvPROTECTED, clearAt := none, own := [], peer := [], bothFlagged := false })).raise
          TWIN_EVENT_seed_done else m
    -- the negative of S, which this module sent, is the last one committed for the new SHADOW
    let own : Neg := { frame := m.F, recs := m.vdWork e.1, trailer := none }
    if v.swapAt == some m.F && v.swapOut then m.modTwinVd e.1 (fun t => { t with shadow := true, wasBound := false, committed := some own, lastNeg := m.F }) else m)

end Sys2Proof.Machine
end

