-- ==== Sys2Proof/Machine/Pcie.lean ====
section
/-!
DEFINITION. The PCIe side (R329 to R347): the link, VF Enable, function resets as far as the window and the edge act on
them (R458, R459), mailboxes, memory windows, MSI-X unmasking, and IDE streams.
-/
namespace Sys2Proof.Machine

def Module.setPcie (m : Module) (f : Pcie → Pcie) : Module := { m with pcie := f m.pcie }

/-! ### What the functions present (R329, R330, R333, R336) -/

/-- The limits of the PCIe port. -/
structure PcieCaps where
  maxPayload : Nat
  maxReadRequest : Nat
  outstandingReads : Nat
  deriving DecidableEq, Repr

def pcieCaps : PcieCaps := { maxPayload := 512, maxReadRequest := 4096, outstandingReads := 4096 }

/-- The link runs in Flit Mode at generations 6.0 and 7.0 (R329). -/
def Module.flitMode (m : Module) : Bool := m.fld GLB_PCIE_gen ≥ 3

/-- Width of a tag. -/
def Module.tagBits (m : Module) : Nat := if m.flitMode then 14 else 10

/-- The Vendor ID of every function: the one assigned to Ruilavas by PCI-SIG, which R333 does not print. -/
opaque vendorId : BitVec 16

/-- The identity of a function. `totalVfs` is InitialVFs too; `ide` says that the capability is present. -/
structure FnIdentity where
  vendor : BitVec 16
  device : Nat
  classCode : Nat
  subsystem : Nat
  flr : Bool
  ari : Bool
  totalVfs : Nat
  firstVfOffset : Nat
  vfStride : Nat
  pageKiB : Nat
  doeMailboxes : Nat
  ide : Bool
  vectors : Nat
  deriving DecidableEq, Repr

def fnIdentity (fn : Nat) : FnIdentity :=
  let pf := fn = 0
  { vendor := vendorId, device := if pf then 0x9400 else 0x9401, classCode := 0x12_0000, subsystem := if pf then 0x9400 else 0x9401, flr := true, ari := pf,
    totalVfs := if pf then 64 else 0, firstVfOffset := if pf then 1 else 0, vfStride := if pf then 1 else 0,
    pageKiB := if pf then 4 else 0, doeMailboxes := if pf then 1 else 0, ide := pf, vectors := 2048 }

/-- A base address register of a function. -/
structure Bar where
  size : Nat
  bits64 : Bool
  prefetchable : Bool
  deriving DecidableEq, Repr

/-- BAR `b` of a function; VF BAR2 has the size that VF Resizable BAR set. -/
def Module.bar? (m : Module) (fn b : Nat) : Option Bar :=
  match b with
  | 0 => some { size := if fn = 0 then 2 ^ 26 else 2 ^ 20, bits64 := true, prefetchable := false }
  | 2 => some (if fn = 0 then { size := 2 ^ 20, bits64 := true, prefetchable := false }
      else { size := m.pcie.vfBar * 2 ^ 36, bits64 := true, prefetchable := true })
  | 4 => if fn = 0 then some { size := 2 ^ 42, bits64 := true, prefetchable := true } else none
  | _ => none

/-! ### The link (R329, R332) -/

/-- Width code of a lane count; none for a width that leaves the link down. -/
def widthCode (lanes : Nat) : Option Nat := if lanes = 4 then some 0 else if lanes = 8 then some 1 else if lanes = 16 then some 2 else none

/-- May the link train: bring-up passed step 6, and PERST# is not asserted (R457, R460)? -/
def Module.pcieArmed (m : Module) : Bool := !m.rst.inReset && m.rst.stepNo > 6 && !m.pins.perst

/-- The link changes to a generation (0 down, 1 to 4) and a number of lanes. -/
def effPcieLink (gen lanes : Nat) (m : Module) : Module :=
  let up : Option Nat := if 1 ≤ gen && gen ≤ 4 && m.pcieArmed then widthCode lanes else none
  let old := (m.fld GLB_PCIE_gen, m.fld GLB_PCIE_width)
  let m := match up with
    | some w => ((m.setFld GLB_PCIE_gen gen).setFld GLB_PCIE_width w).setFld GLB_PCIE_flit (b2n (gen ≥ 3))
    | none => ((m.setFld GLB_PCIE_gen 0).setFld GLB_PCIE_width 0).setFld GLB_PCIE_flit 0
  if (m.fld GLB_PCIE_gen, m.fld GLB_PCIE_width) == old then m else m.raise GLB_EVENT_link_change

/-! ### Mailboxes (R340) -/

/-- The PF side's copy of a VF's message, and the reply that PF software writes for it. -/
def mboxPf (v i : Nat) : Nat := v * 2 ^ 32 + 0xD0100 + i * 4
def mboxOut (v i : Nat) : Nat := v * 2 ^ 32 + 0xD0140 + i * 4

/-- The pending bit of a VF. -/
def mboxPend (v : Nat) : Fld := ⟨if v ≤ 32 then GLB_MBOX_PEND_LO else GLB_MBOX_PEND_HI, (v - 1) % 32, 1⟩

def isVf (v : Nat) : Bool := 1 ≤ v && v ≤ 64

/-- Are a VF's registers there: a partition names it and its writes are taken (R334)? -/
def Module.vfThere (m : Module) (v : Nat) : Bool := isVf v && (vfPart m.recs v).isSome && m.fnTakes v

/-- VF `v` writes VF_MBOX_CTRL.send. -/
def effVfMboxSend (v : Nat) (m : Module) : Module :=
  if !m.vfThere v then m
  else if m.flag (VF_MBOX_CTRL_out_busy v) then m.raiseVf v (VF_EVENT_busy v)
  else
    let m := each (List.range 16) m (fun m i => m.setReg (mboxPf v i) (m.reg (VF_MBOX_OUT v i)))
    ((m.setFld (mboxPend v) 1).setFld (VF_MBOX_CTRL_out_busy v) 1).signal 0 1

/-- VF `v` writes VF_MBOX_CTRL.in_ack. -/
def effVfMboxInAck (v : Nat) (m : Module) : Module :=
  if m.vfThere v then m.setFld (VF_MBOX_CTRL_in_full v) 0 else m

/-- PF software writes GLB_MBOX_CTRL.ack. A VF that no partition names is told nothing (R334). -/
def effPfMboxAck (m : Module) : Module :=
  let v := m.fld GLB_MBOX_SEL_vf
  if isVf v && m.flag (mboxPend v) then
    let m := (m.setFld (mboxPend v) 0).setFld (VF_MBOX_CTRL_out_busy v) 0
    if m.fnNamed v then m.raiseVf v (VF_EVENT_out_acked v) else m
  else m

/-- PF software writes GLB_MBOX_CTRL.send. A VF that no partition names takes nothing (R334). -/
def effPfMboxSend (m : Module) : Module :=
  let v := m.fld GLB_MBOX_SEL_vf
  if !isVf v || !m.fnNamed v then m
  else if m.flag (VF_MBOX_CTRL_in_full v) then m.raise GLB_EVENT_mbox_busy
  else
    let m := each (List.range 16) m (fun m i => m.setReg (VF_MBOX_IN v i) (m.reg (mboxOut v i)))
    let m := (m.setFld (VF_MBOX_CTRL_in_full v) 1).setFld (VF_EVENT_in_msg v) 1
    m.signal v 0

/-- Both mailboxes of a VF are cleared (R335). -/
def Module.mboxClear (m : Module) (v : Nat) : Module :=
  let m := each (List.range 16) m (fun m i =>
    (((m.setReg (mboxPf v i) 0).setReg (mboxOut v i) 0).setReg (VF_MBOX_IN v i) 0).setReg (VF_MBOX_OUT v i) 0)
  (m.setReg (VF_MBOX_CTRL v) 0).setFld (mboxPend v) 0

/-! ### Function resets: receipt, window and edge (R458, R459) -/

/-- Page Requests of a function are discarded. -/
def Module.dropPages (m : Module) (fn : Nat) : Module :=
  m.setXlat (fun x => { x with pages := x.pages.filter (fun p => p.fn != fn) })

/-- RST_LAST_HOST shows a reset. -/
def Module.lastHost (m : Module) (source fn : Nat) : Module :=
  ((m.setFld RST_LAST_HOST_source source).setFld RST_LAST_HOST_function fn).setFld RST_LAST_HOST_valid 1

/-- A configuration write, which does `f`: with the link down none arrives, and until the functions are ready it completes with Request Retry Status
(R460 step 6). DEDUCED (log entry 112): they are ready from the end of step 8 on. -/
def cfgWrite (f : Module → Module) (m : Module) : Module :=
  if m.fld GLB_PCIE_gen = 0 then m
  else if m.rst.stepNo ≤ 8 then m.emit (.response 2 [])
  else tlp 0 f m

/-- A source that arrives during a MODULE reset or its hold-off shows in RST_SOURCES (R467). -/
def Module.sourceSeen (m : Module) (code : Nat) : Module :=
  if m.quiet then m.setReg RST_SOURCES (m.reg RST_SOURCES ||| 2 ^ code) else m

/-- What ends at every reset, of any scope: the challenge and the debug unlock (R445, R450; log entry 105). -/
def Module.endUnlock (m : Module) : Module := { m with sec := { m.sec with challenge := none, debugSlot := none } }

/-- VF `v` is reset: its requests stop, its Page Requests and mailboxes go. -/
def Module.vfReset (m : Module) (v : Nat) : Module :=
  let m := (m.sourceSeen 6).endUnlock
  if m.inFlr v then m
  else
    let m := ((m.mboxClear v).raise GLB_EVENT_vf_reset).dropPages v
    (m.setPcie (fun p => { p with flr := p.flr ++ [(v, false)] })).lastHost 6 v

/-- A Function Level Reset of VF `v` is received. -/
def effVfFlr (v : Nat) (m : Module) : Module := if !isVf v || !m.fnExists v then m else cfgWrite (·.vfReset v) m

/-- A HOST-scope reset is received, with its source code. -/
def Module.hostReset (m : Module) (source : Nat) : Module :=
  let m := (m.sourceSeen source).endUnlock
  if m.pcie.hostReset.isSome then m
  else
    let m := each (List.range 64) m (fun m i => (m.mboxClear (i + 1)).dropPages (i + 1))
    let m := m.dropPages 0
    (m.setPcie (fun p => { p with hostReset := some (source, false), flr := [] })).lastHost source 0

/-- The contexts of a function's partition, or of every partition. -/
def Module.fnCtxs (m : Module) (fn : Option Nat) : List Nat :=
  (m.obj.ctxs.filter (fun e => e.2.state != .free &&
    (match fn with | some f => fnPart m.recs f == some e.2.part | none => true))).map (·.1)

/-- Step 3 of the window: the contexts of functions under reset are lost. -/
def Module.flrWindow (m : Module) : Module :=
  let m := each m.pcie.flr m (fun m e => each (m.fnCtxs (some e.1)) m (fun m c => m.willLose c lostFUNCTION_RESET))
  if m.pcie.hostReset.isSome then each (m.fnCtxs none) m (fun m c => m.willLose c lostFUNCTION_RESET) else m

/-- Step 5 of the window: their translations go, as by XLAT_FLUSH: one that is outstanding is discarded when it comes (R180, R189). -/
def Module.flrInvals (m : Module) : Module :=
  let flush (fn : Nat) : Inval := { fn := fn, pasid := none, base := 0, size := 0, tag := 0, flush := true }
  let fns := if m.pcie.hostReset.isSome then List.range 65 else m.pcie.flr.map (·.1)
  let m := each fns m (fun m fn => m.addInval (flush fn))
  m.setPcie (fun p => { p with flr := p.flr.map (fun e => (e.1, true)), hostReset := p.hostReset.map (fun e => (e.1, true)) })

/-- MSI-X state of a function as after its reset: disabled, every vector masked, nothing pending. -/
def Module.msixReset (m : Module) (fn : Nat) : Module :=
  { m with pcie := { m.pcie with msix := m.pcie.msix.del fn }, unmasked := m.unmasked.filter (fun e => e.1 != fn), msixPend := m.msixPend.filter (fun e => e.1 != fn) }

/-- A function's own registers return to their reset values, its PRI allocation among them. -/
def Module.fnRegsReset (m : Module) (v : Nat) : Module :=
  let m := { m with regs := m.regs.filter (fun e => e.1 / 2 ^ 32 != v) }
  let m := m.setXlat (fun x => { x with alloc := x.alloc.del v, failed := x.failed.filter (· != v) })
  (m.msixReset v).setObj (fun o => { o with qcHead := o.qcHead.filter (fun e => e.1 / 2 ^ 16 != v) })

/-- The edge: VF resets whose window has acted are complete. -/
def Module.flrEdge (m : Module) : Module :=
  let done := (m.pcie.flr.filter (·.2)).map (·.1)
  if done.isEmpty then m
  else
    let m := each done m (fun m v => m.fnRegsReset v)
    (m.setPcie (fun p => { p with flr := p.flr.filter (fun e => !e.2) })).raise RST_EVENT_host_reset

/-- VF Enable, ARI Capable Hierarchy, NumVFs and the VF BAR2 size (in 64 GiB units) are written. While ARI Capable Hierarchy
is clear, VF Enable has no effect (R333). -/
def effVfEnable (en ari : Bool) (numVfs bar : Nat) (m : Module) : Module :=
  cfgWrite (fun m =>
    let vfs := if m.vfsOn then m.pcie.numVfs else 0
    let m := m.setPcie (fun p => { p with
      ari := ari,
      numVfs := if p.vfEnable then p.numVfs else min numVfs (fnIdentity 0).totalVfs,
      vfBar := if ([1, 2, 4, 8, 16, 32, 64] : List Nat).contains bar then bar else p.vfBar,
      vfEnable := en })
    let m := if m.vfsOn then m else each (List.range vfs) m (fun m i => m.vfReset (i + 1))
    m.setFld GLB_PCIE_vfs (if m.vfsOn then m.pcie.numVfs else 0)) m

/-! ### Memory windows (R337) -/

/-- Does a local offset name a plate or TCM of a unit that no confidential partition has? The second result says that
only confidential mode stands in the way. -/
def Module.unitOpen (m : Module) (off : Nat) : Bool × Bool :=
  match locate off with
  | .plate c _ => (match corePart m.recs c with | some p => (!m.conf p, m.conf p) | none => (true, false))
  | .tcm s _ => if m.stwConf s then (false, true) else (true, false)
  | _ => (false, false)

/-- Bytes of a plate or TCM. -/
def Module.unitBytes (m : Module) (off n : Nat) : List Byte :=
  match locate off with
  | .plate c o => (m.core c).bytesAt o n
  | .tcm s o => (m.stwCore s).tcm.read o n
  | _ => []

/-- Store bytes in a plate or TCM. -/
def Module.unitStore (m : Module) (off : Nat) (bs : List Byte) : Module :=
  match locate off with
  | .plate c o => m.modCore c (fun k => k.storeAt o bs)
  | .tcm s o => m.tcmStore s o bs
  | _ => m

/-- Do `n` bytes from an offset stay in one plate or TCM? -/
def unitWithin (off n : Nat) : Bool :=
  match locate off, locate (off + n - 1) with
  | .plate c _, .plate d _ => c == d
  | .tcm c _, .tcm d _ => c == d
  | _, _ => false

/-- A read or write of `n` bytes on behalf of partition `p`: completion status 0, 1 Unsupported Request, 4 Completer
Abort, and the bytes read. `units` says that plates and TCM are reached too. -/
def Module.barAccess (m : Module) (p : Nat) (units write : Bool) (off n : Nat) (data : List Byte) : Module × Nat × List Byte :=
  let m := m.windowWay p off n write
  if units && unitWithin off n then
    (match m.unitOpen off with
     | (true, _) => if write then (m.unitStore off data, 0, []) else (m, 0, m.unitBytes off n)
     | (_, conf) => ((if conf then (m.refuse p off).confRefused else m), 4, []))
  else if write then
    (match m.memWrite p off data with
     | (m, .ok) => (m, 0, [])
     | (m, .refused) => (m, 4, [])
     | (m, .uncorrectable l) => ((m.dataLost l 1 p none).actSystem, 4, []))
  else
    (match m.memRead p off n with
     | (m, .ok, bs) => (m, 0, bs)
     | (m, .refused, _) => (m, 4, [])
     | (m, .uncorrectable l, _) => ((m.dataLost l 6 p none).actSystem, 4, []))

/-- A host access through PF BAR4 (`fn` 0) or VF BAR2. A read is completed; a write that is refused is discarded. -/
def effWindowAccess (fn : Nat) (write : Bool) (off len : Nat) (data : List Byte) (m : Module) : Module :=
  let n := if write then data.length else len
  if n = 0 then m
  else if m.ideFailed fn && !m.fnConf fn then m
  else if !m.trafficOk fn then (if write then m.dropTlp fn else (m.dropTlp fn).emit (.response 1 []))
  else if fn = 0 then
    -- within the 4 TiB of local offsets
    let (m, st, bs) := m.barAccess 0xFF true write off n data
    if write then m else m.emit (.response st bs)
  else if !m.fnTakes fn then (if write then m else m.emit (.response 1 []))
  else
    let size := match m.bar? fn 2 with | some b => b.size | none => 0
    match vfPart m.recs fn with
    | none => if write then m else m.emit (.response 4 [])
    | some p =>
      if off + n > size then (if write then m else m.emit (.response 4 []))
      else
        let (m, st, bs) := m.barAccess p false write (m.fld (GLB_VF_WIN_base fn) * 2 ^ 36 + off) n data
        if write then m else m.emit (.response st bs)

/-- An AtomicOp completes with Unsupported Request (R330). -/
def effAtomicOp (m : Module) : Module := m.emit (.response 1 [])

/-- MSI-X of a function is unmasked: a vector of it, or its Message Control is written. What was pending and may now go is
sent at once (R342). -/
def effMsixUnmask (fn : Nat) (w : MsixWrite) (m : Module) : Module :=
  if fn > 64 || !m.fnNamed fn || !m.trafficOk fn then m
  else match w with
    | .vector vec =>
      if vec ≥ 2048 then m
      else (if m.unmasked.contains (fn, vec) then m else { m with unmasked := (fn, vec) :: m.unmasked }).msixFlush fn
    | .control en mask => (m.setPcie (fun p => { p with msix := p.msix.put fn (en, mask) })).msixFlush fn

/-! ### IDE streams (R343, R344) -/

/-- A stream leaves the Secure state. -/
def effIdeInsecure (stream : Nat) (m : Module) : Module :=
  match m.pcie.ide.get? stream with
  | none => m
  | some x =>
    if !x.secure then m
    else
      let lost := (m.obj.ctxs.filter (fun e => e.2.state != .free && !e.2.lost && m.conf e.2.part &&
        m.ideOf (partFn m.recs e.2.part) == some stream)).map (·.1)
      let m := each lost m (fun m c => m.willLose c lostHOST_LINK)
      (m.setPcie (fun p => { p with ide := p.ide.put stream { x with secure := false, failed := true, keys := [], cur := none } })).raise GLB_EVENT_ide_insecure

/-- Is there a secured SPDM session on the DOE mailbox, which IDE_KM needs? -/
def Module.doeSession (m : Module) (sess : Nat) : Bool :=
  match m.sec.sess.get? sess with | some s => s.transport == 2 && s.up | none => false

/-- IDE_KM messages: without the session they are answered with an error (1). -/
def Module.ideKm (m : Module) (sess stream : Nat) (f : Module → Module) : Module :=
  if m.doeSession sess && stream ≤ 8 then (f m).emit (.response 0 (leBytes 1 stream)) else m.emit (.response 1 [])

/-- Query of the streams: how many there are, with the state of each. -/
def effIdeQuery (sess : Nat) (m : Module) : Module :=
  if m.doeSession sess then m.emit (.response 0 (m.pcie.ide.flatMap (fun e => [BitVec.ofNat 8 e.1, BitVec.ofNat 8 (b2n e.2.secure)])))
  else m.emit (.response 1 [])

/-- A key set is programmed into a stream, whose RID association range at that time is `lo` to `hi`. -/
def effIdeKeyProg (sess stream set lo hi : Nat) (m : Module) : Module :=
  m.ideKm sess stream (fun m =>
    let x : Ide := (m.pcie.ide.get? stream).getD { sel := stream != 0, lo := lo, hi := hi, secure := false, failed := false, keys := [], cur := none }
    m.setPcie (fun p => { p with ide := p.ide.put stream { x with lo := lo, hi := hi, failed := false, keys := insertU x.keys (set % 2) } }))

/-- A stream switches to a programmed key set, and is Secure with it. -/
def effIdeSetGo (sess stream set : Nat) (m : Module) : Module :=
  m.ideKm sess stream (fun m =>
    match m.pcie.ide.get? stream with
    | some x => if x.keys.contains (set % 2) then
        each (List.range 65) (m.setPcie (fun p => { p with ide := p.ide.put stream { x with secure := true, cur := some (set % 2) } }))
          (fun m fn => m.msixFlush fn) else m
    | none => m)

/-- A key set of a stream is stopped; the stream leaves the Secure state when it was the one in use. -/
def effIdeSetStop (sess stream set : Nat) (m : Module) : Module :=
  m.ideKm sess stream (fun m =>
    match m.pcie.ide.get? stream with
    | some x =>
      if x.cur == some (set % 2) then effIdeInsecure stream m
      else m.setPcie (fun p => { p with ide := p.ide.put stream { x with keys := x.keys.filter (· != set % 2) } })
    | none => m)

/-! ### Completion of a HOST-scope reset (R459) -/

/-- Every function is reset as PCIe defines: SR-IOV, MSI-X and IDE state go (R454). -/
def Module.fnsReset (m : Module) : Module :=
  let secure := m.pcie.ide.any (fun e => e.2.secure)
  let m := each (List.range 64) m (fun m i => m.fnRegsReset (i + 1))
  let m := (m.fnRegsReset 65).msixReset 0
  let m := m.setObj (fun o => { o with qcHead := [] })
  let m := (m.setPcie (fun p => { p with ari := false, vfEnable := false, numVfs := 0, vfBar := 64, ide := [], flr := [], msix := [] })).setFld GLB_PCIE_vfs 0
  if secure then m.raise GLB_EVENT_ide_insecure else m

/-- The edge that completes a HOST-scope reset, once its window has acted. -/
def effHostResetComplete (m : Module) : Module :=
  match m.pcie.hostReset with
  | some (_, true) =>
    let m := m.setObj (fun o => { o with
      running := false, ctxs := [], queues := [], mos := [], tls := [], csw := [], cmds := [], done := [], lastQueue := 0,
      release := [], toLose := [], lostNow := [], lost8 := [], reached := [] })
    let m := (m.setFld HOST_CTRL_enable 0).setFld HOST_CTRL_lock 0
    let m := m.setFld HOST_STATUS_running 0
    let m := { m with lists := [], nextLists := [], agreeQ := [], retries := [] }
    let m := m.setXlat (fun x => { x with entries := x.entries.map (fun e => { e with pins := [] }), oneShot := [] })
    let m := { m with cores := m.cores.map (fun (e : Nat × Core) => (e.1, { e.2 with run := none })) }
    let m := each (m.seq.recs.map (·.1)) m (fun m id => m.closeSeq id)
    let m := each (m.coll.map (·.1)) m (fun m k => m.collDestroy k)
    let m := { m with stw := m.stw.map (fun (e : Nat × Steward) => (e.1, { e.2 with harts := [] })), stwLeft := [] }
    let m := m.fnsReset
    (m.setPcie (fun p => { p with hostReset := none })).raise RST_EVENT_host_reset
  | _ => m

end Sys2Proof.Machine
end

