-- ==== Sys2Proof/Machine/Security.lean ====
section
/-!
DEFINITION. The root of trust (R419 to R438): keys and slots, revocation, the HSS leaves, measurements, and the SPDM
responder.
-/
namespace Sys2Proof.Machine

def Module.setSec (m : Module) (f : Sec → Sec) : Module := { m with sec := f m.sec }

/-! ### Fuse words and burns (R425, R440, R446) -/

/-- Bits of 0xA5 in the order they are programmed. -/
def burnBits : List Nat := [0, 2, 5, 7]

/-- The next bit of a word to program, `v` being what the word reads. -/
def nextBit (v : Nat) : Option Nat := burnBits.find? (fun b => !bit v b)

/-- The word a burn works on. -/
def Burn.word (b : Burn) : Nat := b.words.headD 0

/-- May a new pulse begin (R455)? -/
def Module.pulseOn (m : Module) : Bool := m.rst.hold.isNone && !m.rst.inReset

/-! ### Revocation (R425 to R427) -/

/-- The rejection code of a revocation record, 0 when it passes. -/
def Module.revCheck (m : Module) (b : List Byte) (ecdsa hss : Bool) : Nat :=
  let slot := fieldOf b 5 1
  let sig := b.drop 64
  let key := fieldOf sig 4 1
  if b.take 4 ≠ [0x59, 0x52, 0x45, 0x56] || fieldOf b 4 1 ≠ 1 || slot > 3 then 1
  else if sigForm sig = rcHEADER then 1
  else if !allZero ((b.drop 24).take 40) || sigForm sig ≠ 0 then 2
  else if fieldOf b 6 2 ≠ m.orderCode then 3
  else if !allZero ((b.drop 8).take 16) && (b.drop 8).take 16 ≠ m.serial then 4
  else if key = slot then 5
  else if !m.ownerKey key || !ecdsa then 6
  else if !hss then 7
  else if m.fuseWord (8 + slot) ≠ 0 then 8
  else if !(List.range 4).any (fun i => i != slot && m.ownerKey i) then 9
  else 0

/-- A write of SEC_REV_CTRL.go, with what the two signature checks find. -/
def effRevocation (ecdsa hss : Bool) (m : Module) : Module :=
  if m.fld SEC_REV_CTRL_status = 1 then m
  else
    let src := m.reg64 SEC_REV_SRC_LO SEC_REV_SRC_HI
    -- a record that cannot be read has no magic (log entry 101)
    let (m, b) := if m.inSystem src 5888 then
        (match m.readSpans (spansOf src 5888) ReadErrs.clean with
         | (m, .ok) => (m, m.dataAt src 5888)
         | (m, _) => (m, []))
      else (m, [])
    let code := m.revCheck b ecdsa hss
    let slot := fieldOf b 5 1
    let key := fieldOf b 68 1
    if code ≠ 0 then
      let m := if code = 6 then m.sigFail 4 (if key < 4 && !m.ownerKey key then 3 else 1) (key % 8) else if code = 7 then m.sigFail 4 2 (key % 8) else m
      (m.setFld SEC_REV_CTRL_status 3).setFld SEC_REV_CTRL_code code
    else
      let m := (m.setFld SEC_REV_CTRL_status 1).setFld SEC_REV_CTRL_code 0
      m.setSec (fun s => { s with revBurn := some { target := 255, words := [8 + slot], pulse := if m.pulseOn then some 0 else none, tries := 0, phase := 3 } })

/-! ### HSS leaves (R428, R429) -/

def hssLeaves : Nat := 2 ^ 40

/-- Write the record that raises the end of the reserved block, unless one is on its way. -/
def Module.hssReserve (m : Module) : Module :=
  if m.sec.hssWait then m
  else (m.setSec (fun s => { s with hssWait := true })).jWrite jHSS_RESERVE (leBytes 8 (m.sec.hssEnd + 64))

/-- Fewer than 2^32 leaves remain. -/
def Module.hssLow (m : Module) : Module := if hssLeaves - m.sec.hssNext < 2 ^ 32 then m.raise SEC_EVENT_hss_low else m

/-- No leaf is left: q has reached 2^40. -/
def Module.hssGone (m : Module) : Module := if m.sec.hssNext ≥ hssLeaves then m.raise SEC_EVENT_hss_unavailable else m

def Module.hssCommitted (m : Module) (p : List Byte) : Module :=
  m.setSec (fun s => { s with hssEnd := fieldOf p 0 8, hssWait := false, hssFail := false })

def Module.hssFailed (m : Module) : Module :=
  (m.setSec (fun s => { s with hssWait := false, hssFail := true })).raise SEC_EVENT_hss_unavailable

/-- Bytes of a fixed fact of the part. -/
def fixedBytes (k n : Nat) : List Byte := (List.range n).map (fun i => BitVec.ofNat 8 (Config.fixedNat k i))

/-! ### Measurements (R431) -/

/-- SEC_CONF: bit p says that partition p is confidential. -/
def Module.confWord (m : Module) : Nat := ((List.range 64).filter (fun p => m.conf p)).foldl (fun a p => a + 2 ^ p) 0

/-- SEC_KEYS. -/
def Module.keysWord (m : Module) : Nat := b2n (m.keyAlive 0) + 2 * b2n (m.keyAlive 1) + 4 * b2n (m.keyAlive 2)

/-- Bytes of a fact of one part, which its serial number names (log entry 7). -/
def Module.partBytes (m : Module) (k n : Nat) : List Byte := fixedBytes (16 + 16 * leNat m.serial + k) n

/-- The two public keys of an owner slot, ECDSA and HSS; zeros for an empty slot (R420). -/
def Module.ownerKeyBytes (m : Module) (i : Nat) : List Byte :=
  if bit (m.fuseWord 33) i then m.partBytes (8 + i) 157 else zeros 157

/-- The digest of a part's firmware: of the signed message of the slot. -/
def Module.fwDigest (m : Module) (part slot : Nat) : List Byte :=
  let n := fieldOf (m.fwBytes part slot 8 4) 0 4
  sha384 (m.fwBytes part slot 0 (64 + 8 * ceilDiv (min n (fwSize part)) 8))

/-- What block 6 measures, in the order that R431 names it: the serial, the order code, the fused reserve map, the owner slot
keys and the revocation words (log entry 114 for the layout). -/
def Module.hwConfig (m : Module) : List Byte :=
  m.serial ++ leBytes 2 m.orderCode ++ (List.range 64).flatMap (fun b => leBytes 2 (m.fuseWord (64 + b))) ++
  (List.range 4).flatMap m.ownerKeyBytes ++ (List.range 4).map (fun i => BitVec.ofNat 8 (m.fuseWord (8 + i)))

/-- The values of the measurement blocks 1 to 10 as they stand (R431). -/
def Module.measNow (m : Module) : List (List Byte) :=
  [fixedBytes 2 48] ++ (List.range 4).map (fun p => m.fwDigest p (m.fld (NVJ_FW_STATE_in_use p))) ++
  [sha384 m.hwConfig,
   leBytes 1 m.lcState ++ leBytes 1 (b2n m.debugUnlocked) ++ zeros 2 ++ leBytes 4 m.keysWord,
   m.comp.chain,
   leBytes 8 m.confWord,
   sha384 (m.ras.moraine.flatMap Moraine.bytes)]

/-- The edge: block values change only there. -/
def Module.measEdge (m : Module) : Module := let l := m.measNow; m.setSec (fun s => { s with meas := l })

/-- The value of measurement block `i`: that of the last edge. -/
def Module.measBlock (m : Module) (i : Nat) : List Byte := m.sec.meas.getD (i - 1) []

/-- DMTF value type of block `i`; bit 7 marks a raw bit stream. -/
def measType (i : Nat) : Nat :=
  let t := if i = 1 then 0 else if i ≤ 5 then 1 else if i ≤ 7 then 2 else 3
  t + (if i = 7 ∨ i = 9 then 128 else 0)

def Module.measEntry (m : Module) (i : Nat) : List Byte :=
  let v := m.measBlock i
  leBytes 1 i ++ leBytes 1 (measType i) ++ leBytes 2 v.length ++ v

/-! ### The SPDM responder (R430) -/

def spdmINVALID : Nat := 0x01
def spdmBUSY : Nat := 0x03
def spdmUNEXPECTED : Nat := 0x04
def spdmUNSPECIFIED : Nat := 0x05
def spdmSESSIONS : Nat := 0x0A

/-- Does the management firmware answer: step 5 has started it, and it is not in a slot switch (R460, R480)? -/
def Module.mgmtUp (m : Module) : Bool := !m.rst.inReset && m.rst.stepNo > 5 && !m.nvj.trials.contains 0

/-- Transports: 0 MCTP over I3C, 1 MCTP over PCIe VDM, 2 the DOE mailbox. -/
def Module.spdmUp (m : Module) (tr : Nat) : Bool := m.mgmtUp && tr ≤ 2 && (tr == 0 || m.fld GLB_PCIE_gen != 0)

def connInit : Spdm := { stage := 0, algs := none, lastHash := none }
def Module.conn (m : Module) (tr : Nat) : Spdm := (m.sec.conns.get? tr).getD connInit
def Module.setConn (m : Module) (tr : Nat) (c : Spdm) : Module := m.setSec (fun s => { s with conns := s.conns.put tr c })

/-- An ERROR response. -/
def Module.spdmError (m : Module) (code : Nat) : Module := m.emit (.response code [])

/-- Serve a request on a transport once its connection has reached a stage, or in a session of it that is up. -/
def Module.spdm (m : Module) (tr : Nat) (sess : Option Nat) (stage : Nat) (f : Module → Module) : Module :=
  if !m.spdmUp tr then m
  else match sess with
    | none => if (m.conn tr).stage < stage then m.spdmError spdmUNEXPECTED else f m
    | some k => (match m.sec.sess.get? k with
      | some s => if s.transport = tr && s.up then f m else m.spdmError spdmINVALID
      | none => m.spdmError spdmINVALID)

/-- GET_VERSION: version 1.3; the connection starts over. -/
def effGetVersion (tr : Nat) (m : Module) : Module :=
  m.spdm tr none 0 (fun m => (m.setConn tr { connInit with stage := 1 }).emit (.response 0 [0x13]))

/-- Capability flags, by the bits of SPDM 1.3: CERT 1, CHAL 2, MEAS with signature 4, MEAS_FRESH 5, ENCRYPT 6, MAC 7, KEY_EX 9, KEY_UPD 14. -/
def spdmCaps : Nat := 2 ^ 1 + 2 ^ 2 + 2 ^ 4 + 2 ^ 5 + 2 ^ 6 + 2 ^ 7 + 2 ^ 9 + 2 ^ 14

def effGetCapabilities (tr : Nat) (m : Module) : Module :=
  m.spdm tr none 1 (fun m => (m.setConn tr { m.conn tr with stage := max 2 (m.conn tr).stage }).emit (.response 0 (leBytes 4 spdmCaps)))

/-- The algorithms that the module supports, by the bits of SPDM 1.3: ECDSA P-384, SHA-384, SHA-384 for measurements,
secp384r1 and AES-256-GCM (R430). -/
def spdmOwn : SpdmAlgs := { asym := 0x80, hash := 0x2, meas := 0x4, dhe := 0x10, aead := 0x2 }

/-- Does an offer hold every algorithm of another? -/
def SpdmAlgs.offers (a b : SpdmAlgs) : Bool :=
  a.asym &&& b.asym == b.asym && a.hash &&& b.hash == b.hash && a.dhe &&& b.dhe == b.dhe && a.aead &&& b.aead == b.aead

/-- The selection as the response gives it. -/
def SpdmAlgs.bytes (a : SpdmAlgs) : List Byte :=
  leBytes 4 a.meas ++ leBytes 4 a.asym ++ leBytes 4 a.hash ++ leBytes 2 a.dhe ++ leBytes 2 a.aead

/-- NEGOTIATE_ALGORITHMS with what the request offers; the module chooses its measurement hash itself. -/
def effNegotiate (tr : Nat) (offer : SpdmAlgs) (m : Module) : Module :=
  m.spdm tr none 2 (fun m =>
    if offer.offers spdmOwn then
      (m.setConn tr { m.conn tr with stage := 3, algs := some spdmOwn }).emit (.response 0 spdmOwn.bytes)
    else m.spdmError spdmINVALID)

/-- Bytes as hexadecimal digits in ASCII. -/
def hexBytes (bs : List Byte) : List Byte :=
  let digit (n : Nat) : Byte := BitVec.ofNat 8 (if n < 10 then 48 + n else 87 + n)
  bs.flatMap (fun b => [digit (b.toNat / 16), digit (b.toNat % 16)])

/-- The certificate chain of slot 0: the certificates above the device leaf, the leaf up to its subject's serial in hexadecimal,
and the rest of the leaf. -/
def Module.certChain (m : Module) : List Byte :=
  fixedBytes 1 (Config.fixedNat 0 0) ++ hexBytes m.serial ++ m.partBytes 7 (Config.fixedNat 0 1)

def effGetDigests (tr : Nat) (sess : Option Nat) (m : Module) : Module :=
  m.spdm tr sess 3 (fun m => m.emit (.response 0 (sha384 m.certChain)))

def effGetCertificate (tr : Nat) (sess : Option Nat) (slot off len : Nat) (m : Module) : Module :=
  m.spdm tr sess 3 (fun m =>
    if slot ≠ 0 then m.spdmError spdmINVALID else m.emit (.response 0 ((m.certChain.drop off).take len)))

/-- A signed response: its message hash is kept for an HSS signature, and its ECDSA signature is a free value. -/
def Module.signed (m : Module) (tr : Nat) (sess : Option Nat) (body : List Byte) : Module :=
  if !m.keyAlive 0 then m.spdmError spdmUNSPECIFIED
  else
    let (m, hash) := m.freeBytes 48
    let (m, sig) := m.freeBytes 96
    let m := match sess with
      | none => m.setConn tr { m.conn tr with lastHash := some hash }
      | some k => m.setSec (fun s => { s with sess := s.sess.mod k (fun x => { x with lastHash := some hash }) })
    m.emit (.response 0 (body ++ sig))

def effChallenge (tr slot : Nat) (m : Module) : Module :=
  m.spdm tr none 3 (fun m => if slot ≠ 0 then m.spdmError spdmINVALID else m.signed tr none (sha384 m.certChain))

/-- GET_MEASUREMENTS of block `idx`, of all (255) or of their number (0), signed or not. -/
def effGetMeasurements (tr : Nat) (sess : Option Nat) (idx : Nat) (sign : Bool) (m : Module) : Module :=
  m.spdm tr sess 3 (fun m =>
    if idx > 10 && idx ≠ 255 then m.spdmError spdmINVALID
    else
      let body := if idx = 0 then [10] else if idx = 255 then (List.range 10).flatMap (fun i => m.measEntry (i + 1)) else m.measEntry idx
      if sign then m.signed tr sess body else m.emit (.response 0 body))

/-- KEY_EXCHANGE opens a session, if fewer than 4 are open; the response is signed. -/
def effKeyExchange (tr : Nat) (m : Module) : Module :=
  m.spdm tr none 3 (fun m =>
    if m.sec.sess.length ≥ 4 then m.spdmError spdmSESSIONS
    else if !m.keyAlive 0 then m.spdmError spdmUNSPECIFIED
    else
      let k := ((List.range 4).find? (fun k => (m.sec.sess.get? k).isNone)).getD 0
      let (m, sig) := m.freeBytes 96
      (m.setSec (fun s => { s with sess := s.sess.put k { transport := tr, up := false, keyGen := 0, lastHash := none } })).emit
        (.response 0 (leBytes 2 k ++ sig)))

/-- FINISH of a session; `ok` says that the requester's verify data match. -/
def effFinish (k : Nat) (ok : Bool) (m : Module) : Module :=
  match m.sec.sess.get? k with
  | none => m
  | some s =>
    if !m.spdmUp s.transport then m
    else if s.up then m.spdmError spdmUNEXPECTED
    else if !ok then m.spdmError spdmINVALID
    else ((m.setSec (fun x => { x with sess := x.sess.put k { s with up := true } })).raise SEC_EVENT_spdm_session).emit (.response 0 [])

def effKeyUpdate (k : Nat) (m : Module) : Module :=
  match m.sec.sess.get? k with
  | none => m
  | some s => m.spdm s.transport (some k) 3 (fun m =>
      (m.setSec (fun x => { x with sess := x.sess.put k { s with keyGen := s.keyGen + 1 } })).emit (.response 0 []))

def effEndSession (k : Nat) (m : Module) : Module :=
  match m.sec.sess.get? k with
  | none => m
  | some s => m.spdm s.transport (some k) 3 (fun m => (m.setSec (fun x => { x with sess := x.sess.del k })).emit (.response 0 []))

/-- GET_HSS_ENDORSEMENT (R432): the public keys and the vendor's HSS signature over them. -/
def effHssEndorsement (tr : Nat) (sess : Option Nat) (m : Module) : Module :=
  m.spdm tr sess 3 (fun m => m.emit (.response 0 (m.partBytes 4 60 ++ m.partBytes 5 97 ++ m.partBytes 6 5716)))

/-- The hash of the last signed response of a connection or session, and forgetting it. -/
def Module.lastSigned (m : Module) (tr : Nat) (sess : Option Nat) : Option (List Byte) :=
  match sess with
  | none => (m.conn tr).lastHash
  | some k => (m.sec.sess.get? k).bind (·.lastHash)

def Module.clearSigned (m : Module) (tr : Nat) (sess : Option Nat) : Module :=
  match sess with
  | none => m.setConn tr { m.conn tr with lastHash := none }
  | some k => m.setSec (fun s => { s with sess := s.sess.mod k (fun x => { x with lastHash := none }) })

/-- GET_HSS_SIGNATURE (R432): a leaf below the end of the reserved block signs the hash of the last signed response. -/
def effHssSignature (tr : Nat) (sess : Option Nat) (m : Module) : Module :=
  m.spdm tr sess 3 (fun m =>
    if (m.lastSigned tr sess).isNone then m.spdmError spdmUNEXPECTED
    else if !m.keyAlive 0 then m.spdmError spdmUNSPECIFIED
    else if m.sec.hssNext ≥ hssLeaves then (m.raise SEC_EVENT_hss_unavailable).spdmError spdmUNSPECIFIED
    else if m.sec.hssFail then (m.raise SEC_EVENT_hss_unavailable).hssReserve.spdmError spdmUNSPECIFIED
    else if m.sec.hssNext ≥ m.sec.hssEnd then m.hssReserve.spdmError spdmBUSY
    else
      let q := m.sec.hssNext
      let (m, sig) := m.freeBytes 5716
      let m := ((m.clearSigned tr sess).setSec (fun s => { s with hssNext := q + 1 })).hssLow.hssGone
      let m := if q + 1 ≥ m.sec.hssEnd then m.hssReserve else m
      m.emit (.response 0 (leBytes 8 q ++ sig)))

end Sys2Proof.Machine
end

