-- ==== Sys2Proof/Machine/Lcs.lean ====
section
/-!
DEFINITION. Life-cycle states (R439 to R452): decoding the fuse words, tokens, burning a transition and resuming one, and
debug unlocks.
-/
namespace Sys2Proof.Machine

/-! ### Decoding (R440, R441) -/

/-- A burned word. -/
def burned : Nat := 0xA5

/-- Is a word partial: not 0x00 and not 0xA5, with its bits among those of 0xA5? -/
def partialWord (v : Nat) : Bool := v != 0 && v != burned && v &&& burned == v

/-- The state that words 0 to 3 decode to; 7 is INVALID. -/
def lcDecode (w : Nat → Nat) : Nat :=
  let ws := (List.range 4).map w
  if ws.any (fun v => v != 0 && v != burned) then 7
  else
    let n := (ws.takeWhile (· == burned)).length
    if (ws.drop n).any (· == burned) then 7 else n

/-- The words a transition burns, in order (R446). -/
def burnWords (target : Nat) : List Nat :=
  match target with
  | 1 => [0]
  | 2 => [1]
  | 3 => [4, 2]
  | 4 => [5, 6, 3]
  | _ => []

/-- An intent record or a later one of a word. -/
def lcsRecord (target word bitmap phase : Nat) : List Byte :=
  leBytes 1 target ++ leBytes 1 word ++ leBytes 1 bitmap ++ leBytes 1 phase ++ zeros 4

/-! ### Tokens (R443 to R445) -/

/-- The slot classes that may sign a token of a kind in a state: owner, vendor (R439, R450). -/
def signers (kind state : Nat) : Bool × Bool :=
  if kind = 1 then (match state with | 0 => (false, true) | 1 => (true, false) | 2 => (true, false) | 3 => (true, true) | _ => (false, false))
  else (match state with | 1 => (true, true) | 2 => (true, false) | 3 => (false, true) | _ => (false, false))

/-- The conditions of R439 for leaving MAKER. -/
def Module.makerDone (m : Module) : Bool := bits (m.fuseWord 36) 0 3 == 7 && m.fuseWord 33 != 0 && m.fuseWord 34 != 0

/-- Checks 1 to 5 of R444 on a token; 0 when they pass. -/
def Module.tokenForm (m : Module) (b : List Byte) : Nat :=
  let kind := fieldOf b 5 1
  let target := fieldOf b 6 1
  let sig := b.drop 64
  if b.take 4 ≠ [0x59, 0x54, 0x4F, 0x4B] || fieldOf b 4 1 ≠ 1 || (kind ≠ 1 && kind ≠ 2) || sigForm sig = rcHEADER then 1
  else if (if kind = 1 then m.lcState < 4 && target ≠ m.lcState + 1 else target ≠ 0) then 1
  else if fieldOf b 7 1 ≠ 0 || fieldOf b 10 2 ≠ 0 || !allZero ((b.drop 44).take 20) || sigForm sig ≠ 0 then 2
  else if fieldOf b 8 2 ≠ m.orderCode then 3
  else if (b.drop 12).take 16 ≠ m.serial || allZero ((b.drop 12).take 16) then 4
  else match m.sec.challenge with
    | some c => if (b.drop 28).take 16 = c then 0 else 5
    | none => 5

/-- Checks 6 to 11 of R444. -/
def Module.tokenAuth (m : Module) (kind slot : Nat) (ecdsa hss : Bool) : Nat :=
  let st := m.lcState
  let (own, ven) := signers kind st
  if st = 4 || st = 7 || (kind = 1 && st = 0 && !m.makerDone) then 6
  else if !((own && slot < 4) || (ven && (slot = 4 || slot = 5))) then 7
  else
    let r := m.sigCheck slot ecdsa hss
    if r = 2 then 9
    else if r ≠ 0 then 8
    else if kind = 2 && (recsOf m.recs 0x0B01).any (fun e => m.conf e.1) then 10
    else if m.sec.burn.isSome then 11
    else 0

/-- A token is rejected. -/
def Module.tokenReject (m : Module) (code : Nat) : Module :=
  ((m.setFld LCS_RESULT_status 3).setFld LCS_RESULT_code code).raise LCS_EVENT_rejected

/-- Begin a transition: the intent record of its first word (R446). -/
def Module.startBurn (m : Module) (target : Nat) : Module :=
  match burnWords target with
  | [] => m
  | w :: ws =>
    (m.setSec (fun s => { s with burn := some { target := target, words := w :: ws, pulse := none, tries := 0, phase := 0 } })).jWrite jLCS_STEP
      (lcsRecord target w 0 0)

/-- Check a token and act on it. -/
def Module.takeToken (m : Module) (b : List Byte) (ecdsa hss : Bool) : Module :=
  let kind := fieldOf b 5 1
  let slot := fieldOf b 68 1
  let m := (m.setFld LCS_RESULT_kind (kind % 4)).setFld LCS_RESULT_code 0
  if m.lcState = 7 then m.tokenReject 6
  else
    let f := m.tokenForm b
    if f ≠ 0 then m.tokenReject f
    else
      -- check 5 has passed: the challenge is used up
      let m := m.setSec (fun s => { s with challenge := none })
      let a := m.tokenAuth kind slot ecdsa hss
      if a ≠ 0 then
        let m := if a = 8 || a = 9 then m.sigFail (if kind = 1 then 2 else 3) (m.sigCheck slot ecdsa hss) (slot % 8) else m
        m.tokenReject a
      else if kind = 2 then
        ((m.setSec (fun s => { s with debugSlot := some slot })).setFld LCS_RESULT_status 2).raise LCS_EVENT_unlocked
      else (m.setFld LCS_RESULT_status 1).startBurn (fieldOf b 6 1)

/-- A write of LCS_CTRL.go from PF BAR0. The buffer is cleared after the check. -/
def effLcsTokenGo (ecdsa hss : Bool) (m : Module) : Module :=
  if m.fld LCS_RESULT_status = 1 then m
  else (m.takeToken (m.sec.token.read 0 5888) ecdsa hss).setSec (fun s => { s with token := [] })

/-- A fresh challenge, with the 16 bytes that the random source gives. -/
def effNewChallenge (r : List Byte) (m : Module) : Module :=
  m.setSec (fun s => { s with challenge := some ((r ++ zeros 16).take 16) })

/-- A write of LCS_CTRL.relock. -/
def effDebugRelock (m : Module) : Module :=
  if m.lcState = 0 then m else m.setSec (fun s => { s with debugSlot := none })

/-! ### The burn (R446, R449) -/

/-- Start the next pulse of the word in progress, if one is left and may begin. -/
def Module.nextPulse (m : Module) : Module :=
  match m.sec.burn with
  | some b =>
    if m.pulseOn then m.setSec (fun s => { s with burn := some { b with pulse := nextBit (m.fuseWord b.word), tries := 0, phase := 3 } }) else m
  | none => m

/-- The fleet link key is killed: every port goes to DISABLED. -/
def Module.fleetDead (m : Module) : Module := each (List.range 17) m (fun m p => effLinkEnable p false m)

/-- The memory encryption key is killed: every DDR5 channel goes OFFLINE, and a bring-in under way ends refused (R420). -/
def Module.memoryDead (m : Module) : Module :=
  let m := match m.nvj.ddr with | some j => m.ddrRefuse j.ch 1 | none => m
  each ((m.mem.ddr.filter (fun e => e.2.state != .absent && e.2.state != .retired)).map (·.1)) m
    (fun m c => (m.modDdr c (fun d => { d with state := .offline })).dpwr c false)

/-- What a word that reads `v` after a pulse brings into force. -/
def Module.wordBurned (m : Module) (target w v : Nat) : Module :=
  if w = 4 then m.fleetDead
  else if w = 6 then m.memoryDead
  else if w ≤ 3 && v = burned then (m.setFld LCS_STATE_state target).setSec (fun s => { s with debugSlot := none })
  else m

/-- The burn stops. -/
def Module.burnFail (m : Module) : Module :=
  (((m.setSec (fun s => { s with burn := none })).setFld LCS_RESULT_status 3).setFld LCS_RESULT_code 0).raise LCS_EVENT_burn_fail

/-- Fuse words read `v` at place `w`. -/
def Module.senseWord (m : Module) (w v : Nat) : Module := { m with fuse := SMap.set (fun _ => 0) m.fuse w v }

/-- The pulse of a transition ends and the word reads `v`; `ok` says that the bit programmed. -/
def Module.pulseLcs (m : Module) (b : Burn) (v : Nat) (ok : Bool) : Module :=
  let m := m.senseWord b.word v
  if ok then
    let m := m.wordBurned b.target b.word v
    (m.setSec (fun s => { s with burn := some { b with pulse := none, tries := 0, phase := 1 } })).jWrite jLCS_STEP (lcsRecord b.target b.word v 1)
  else if b.tries ≥ 4 then m.burnFail
  else m.setSec (fun s => { s with burn := some { b with pulse := if m.pulseOn then b.pulse else none, tries := b.tries + 1 } })

/-- The pulse of a revocation ends and the word reads `v`. -/
def Module.pulseRev (m : Module) (b : Burn) (v : Nat) (ok : Bool) : Module :=
  let m := m.senseWord b.word v
  if ok then
    match nextBit v with
    | some n => m.setSec (fun s => { s with revBurn := some { b with pulse := if m.pulseOn then some n else none, tries := 0 } })
    | none => ((m.setSec (fun s => { s with revBurn := none })).setFld SEC_REV_CTRL_status 2).raise SEC_EVENT_revoked
  else if b.tries ≥ 4 then (m.setSec (fun s => { s with revBurn := none })).setFld SEC_REV_CTRL_status 3
  else m.setSec (fun s => { s with revBurn := some { b with pulse := if m.pulseOn then b.pulse else none, tries := b.tries + 1 } })

/-- A fuse word after a pulse on a bit: a bit that programs becomes 1, and nothing else changes. -/
def burnBit (v b : Nat) (ok : Bool) : Nat := if ok then v ||| 2 ^ b else v

/-- A programming pulse ends, of the transition in progress or of the revocation (`rev`); `ok` says that its bit reads 1.
The fuses change here and nowhere else. -/
def effFusePulse (rev ok : Bool) (s : State) : State :=
  match (if rev then s.m.sec.revBurn else s.m.sec.burn) with
  | none => s
  | some b =>
    match b.pulse with
    | none => s
    | some n =>
      let v := burnBit (SMap.get (fun _ => 0) s.otp.words b.word) n ok
      { s with
        otp := { s.otp with words := SMap.set (fun _ => 0) s.otp.words b.word v }
        m := if rev then s.m.pulseRev b v ok else s.m.pulseLcs b v ok }

/-- A record of the series is committed. -/
def Module.lcsCommitted (m : Module) (p : List Byte) : Module :=
  match m.sec.burn with
  | none => m
  | some b =>
    if fieldOf p 1 1 ≠ b.word then m
    else if fieldOf p 3 1 = 2 then
      (match b.words.drop 1 with
       | [] => ((m.setSec (fun s => { s with burn := none })).setFld LCS_RESULT_status 2).raise LCS_EVENT_transition
       | w :: ws => (m.setSec (fun s => { s with burn := some { b with words := w :: ws, pulse := none, tries := 0, phase := 0 } })).jWrite jLCS_STEP
           (lcsRecord b.target w 0 0))
    else if m.fuseWord b.word = burned then
      (m.setSec (fun s => { s with burn := some { b with pulse := none, phase := 2 } })).jWrite jLCS_STEP (lcsRecord b.target b.word burned 2)
    else m.nextPulse

/-- A record of the series could not be committed (R446, R476). -/
def Module.lcsFailed (m : Module) (p : List Byte) : Module :=
  if fieldOf p 3 1 = 0 then (m.setSec (fun s => { s with burn := none })).tokenReject 12 else m.burnFail

/-! ### Resuming (R447) -/

/-- The last committed record of a word's series. -/
def Module.lcsLast (m : Module) (w : Nat) : Option (List Byte) :=
  (((jScan m.nvj.recs).filter (fun r => r.ok && r.ty == jLCS_STEP && fieldOf r.payload 1 1 == w)).getLast?).map (·.payload)

/-- The words still to burn of a target, from word `w` on. -/
def wordsFrom (target w : Nat) : List Nat := (burnWords target).dropWhile (· != w)

/-- Resume the burn of a word. -/
def Module.resumeBurn (m : Module) (target w : Nat) : Module :=
  let m := (m.setSec (fun s => { s with burn := some { target := target, words := wordsFrom target w, pulse := none, tries := 0, phase := 3 } })).setFld
    LCS_STATE_resumed 1
  -- until the word reads 0xA5 the state is the one before it
  let m := m.setFld LCS_STATE_state (lcDecode (fun i => if i = w && m.fuseWord i ≠ burned then 0 else m.fuseWord i))
  if m.fuseWord w = burned then
    (m.setSec (fun s => { s with burn := s.burn.map (fun b => { b with phase := 2 }) })).jWrite jLCS_STEP (lcsRecord target w burned 2)
  else m.nextPulse

/-- Step 3 of the release order: partial words, and series left open. -/
def Module.burnResume (m : Module) : Module :=
  let invalid (m : Module) : Module := m.setFld LCS_STATE_state 7
  let wholly := (List.range 7).all (fun w => !partialWord (m.fuseWord w) && (m.fuseWord w == 0 || m.fuseWord w == burned))
  match (List.range 7).find? (fun w => partialWord (m.fuseWord w)) with
  | some w =>
    let v := m.fuseWord w
    if m.fld LCS_STATE_boot_mode ≠ 0 then invalid m
    else match m.lcsLast w with
      | none => invalid m
      | some p =>
        if fieldOf p 3 1 = 2 || fieldOf p 2 1 &&& v ≠ fieldOf p 2 1 then invalid m
        else m.resumeBurn (fieldOf p 0 1) w
  | none =>
    if !wholly then invalid m
    else if m.fld LCS_STATE_boot_mode ≠ 0 then m
    else match (List.range 7).find? (fun w => match m.lcsLast w with | some p => fieldOf p 3 1 != 2 | none => false) with
      | some w => (match m.lcsLast w with | some p => m.resumeBurn (fieldOf p 0 1) w | none => m)
      | none => m

end Sys2Proof.Machine
end

