-- ==== Sys2Proof/Machine/Reset.lean ====
section
/-!
DEFINITION. Reset and bring-up (R453 to R467): the sources, the hold-off, what a reset clears, the release order with the
replay of the journal (R472) and the choice of a profile (R284), and the software resets of R464.
-/
namespace Sys2Proof.Machine

def Module.setRst (m : Module) (f : Rst → Rst) : Module := { m with rst := f m.rst }
def Module.setPins (m : Module) (f : Pins → Pins) : Module := { m with pins := f m.pins }

/-! ### Sources (R453, R455) -/

/-- A held-off source arrives: it starts a hold-off, or joins the one in progress or the reset. -/
def Module.source (m : Module) (code : Nat) : Module :=
  if !m.rst.good then m
  else if m.quiet then m.setReg RST_SOURCES (m.reg RST_SOURCES ||| 2 ^ code)
  else (m.setRst (fun r => { r with hold := some (code, 3) })).setReg RST_SOURCES (2 ^ code)

/-- A HOST-scope reset that retrains the link: the PHY firmware of PCIe is loaded anew (R480). -/
def Module.linkReset (m : Module) (code : Nat) : Module :=
  if m.rst.inReset then m.sourceSeen code else (effPcieLink 0 0 (m.hostReset code)).fwStart 2

def effRstNAssert (m : Module) : Module := (m.setPins (fun p => { p with rstExt := true })).source 2

def effPerstAssert (m : Module) : Module :=
  let m := m.setPins (fun p => { p with perst := true })
  if m.flag RST_CFG_perst_scope then m.linkReset 3 else m.source 3

def effPerstDeassert (m : Module) : Module := m.setPins (fun p => { p with perst := false })

def effHotReset (m : Module) : Module :=
  if m.flag RST_CFG_hotrst_scope then m.linkReset 4 else m.source 4

def effPfFlr (m : Module) : Module := cfgWrite (·.hostReset 5) m

/-- A write `w` of RST_CTRL. -/
def effModuleReset (w : Nat) (m : Module) : Module := if w % 256 = 0xD2 && bit w 8 then m.source 10 else m

/-- The watchdog expired, or a step passed twice its bound. -/
def effWatchdogExpiry (m : Module) : Module := m.source 8

/-! ### What a reset clears and keeps (R454, R456) -/

/-- The sticky registers. -/
def stickyRegs : List Nat := [RST_CAUSE, RST_SOURCES, RST_COUNT, RST_CFG, RST_LAST_HOST, RST_HOLDOFF]

/-- The flash after a reset: the record being written is committed if its programs were all done, else it has no commit
mark. An erase that the hold-off suspended waits to be resumed (R456); a POWER source leaves none suspended. -/
def Nvj.afterReset (j : Nvj) (power : Bool) : Nvj :=
  let j := j.put (j.ending == .committed)
  { Nvj.init with
    sbs := j.sbs, halves := j.halves, slots := j.slots,
    resuming := if power then 0 else if j.barred then j.resuming else if j.erasing then j.compact else 0 }

/-- Everything but what POWER (or MODULE) keeps returns to its reset value, and the internal reset is asserted. -/
def Module.cleared (m : Module) (power : Bool) : Module :=
  let b := Module.init m.fuse
  let rst := { b.rst with inputOk := m.rst.inputOk, pwrEn := m.rst.pwrEn, good := m.rst.good, latched := m.rst.latched, failed := m.rst.failed, inReset := true }
  let m := m.alertPin false
  let m : Module := { b with
    regs := if power then [] else m.regs.filter (fun e => stickyRegs.contains e.1),
    hostMem := m.hostMem, twinMem := m.twinMem, free := m.free, out := m.out, nvj := m.nvj.afterReset power, rst := rst,
    pins := { m.pins with dpwr := [], rstOwn := true } }
  m.setFld LCS_STATE_state (lcDecode m.fuseWord)

/-- A programming pulse that a POWER source cuts short may leave its bit partly programmed (R456): what the word reads of that
bit from then on is a free value (log entry 102). -/
def Module.cutPulse (m : Module) (b : Option Burn) : Module :=
  match b.bind (fun b => b.pulse.map (fun n => (b.word, n))) with
  | some (w, n) =>
    let (m, k) := m.freeWord
    { m with fuse := SMap.set (fun _ => 0) m.fuse w (burnBit (m.fuseWord w) n (k % 2 == 1)) }
  | none => m

/-- The converters stop and PWR_GOOD falls; `latch` says that the converter controllers hold the stop. -/
def Module.powerOff (m : Module) (latch : Bool) : Module :=
  let m := ((m.cutPulse m.sec.burn).cutPulse m.sec.revBurn).cleared true
  (m.setRst (fun r => { r with good := false, latched := r.latched || latch })).emit (.pin 1 0)

/-! ### Power (R397, R398, R406, R416, R466) -/

/-- THERMTRIP_N is released: the latch that drove it has cleared. -/
def Module.thermFree (m : Module) : Module :=
  if m.pins.therm then (m.setPins (fun p => { p with therm := false })).emit (.pin 3 1) else m

/-- The module drives RST_N low. -/
def Module.rstLow (m : Module) : Module :=
  if m.pins.rstOwn then m else (m.setPins (fun p => { p with rstOwn := true })).emit (.pin 0 0)

/-- 48 V within range with PWR_EN high: the converters start. `cleared` says that PWR_EN was low for 100 ms or the input
removed, which ends a latched stop. -/
def effPowerOn (cleared : Bool) (m : Module) : Module :=
  if m.rst.good then m
  else
    let m := m.setRst (fun r => { r with inputOk := true, pwrEn := true, latched := r.latched && !cleared })
    if m.rst.latched then m
    else if m.rst.failed.length > 4 then m.setRst (fun r => { r with latched := true })
    else m.thermFree.rstLow


/-- Are the converters running? -/
def Module.powered (m : Module) : Bool := m.rst.inputOk && m.rst.pwrEn && !m.rst.latched

def effRailsInRegulation (m : Module) : Module :=
  if m.powered && !m.rst.good then (m.setRst (fun r => { r with good := true })).emit (.pin 1 1) else m

def effPwrEnLow (m : Module) : Module :=
  let m := m.setRst (fun r => { r with pwrEn := false })
  if !m.rst.good then m
  else if m.rst.inReset then m.powerOff false
  else m.setRst (fun r => { r with hold := some (r.hold.getD (0, 3)), holdOff := true })

/-- The input is out of range; `removed` says that 48 V is gone, rather than too high: then no latch holds its state, THERMTRIP_N
is released and RST_N is undriven (R466, R495). -/
def effInputOutOfRange (removed : Bool) (m : Module) : Module :=
  let m := m.setRst (fun r => { r with inputOk := false })
  let m := if m.rst.good then m.powerOff false else m
  if !removed then m
  else
    let m := (m.setRst (fun r => { r with latched := false })).thermFree
    if m.pins.rstOwn then (m.setPins (fun p => { p with rstOwn := false })).emit (.pin 0 1) else m

def effThermtrip (m : Module) : Module :=
  if m.rst.good && m.tripped then ((m.setPins (fun p => { p with therm := true })).emit (.pin 3 0)).powerOff true else m

/-- A rail whose current reaches 115% of its clamp. -/
def effRailFault (r : Nat) (m : Module) : Module := if m.rst.good && r < 0x28 then m.powerOff true else m

def effConverterFail (c : Nat) (m : Module) : Module :=
  if c ≥ 6 || m.rst.failed.contains c then m
  else
    let m := m.setRst (fun r => { r with failed := r.failed ++ [c] })
    if !m.rst.good then
      (if m.powered && m.rst.failed.length > 4 then m.setRst (fun r => { r with latched := true }) else m)
    else if m.rst.failed.length > 4 then m.powerOff true
    else if m.rst.inReset then m
    else (m.capsInForce).raise PWR_EVENT_converter_fail

/-! ### The hold-off and the internal reset (R455, R457) -/

/-- Is a programming pulse of a fuse under way? -/
def Module.pulseBusy (m : Module) : Bool :=
  (match m.sec.burn with | some b => b.pulse.isSome | none => false) || (match m.sec.revBurn with | some b => b.pulse.isSome | none => false)

/-- Is there something to program, so that a page program may be under way? -/
def Nvj.programs (j : Nvj) : Bool := !j.queue.isEmpty || j.compact == 2 || j.compact == 4 || j.compact == 6

/-- A TWIN message goes out on port 16 at once, ahead of every other flit; IDLE flits complete its run. -/
def Module.sendAhead (m : Module) (ty : Nat) (body : List Byte) : Module :=
  let m' := m.sendTwin ty 0 0 body
  if m'.ctrlQ.length = m.ctrlQ.length then m
  else match m'.ctrlQ.getLast? with
    | some c =>
      -- a full replay buffer takes no new numbered flit (R214)
      if (m.port 16).held + (ctrlFlits c).length > 8192 || !m.maySend 16 0 then m
      else
        let m := m.modPort 16 (fun x => { x with unsched := x.unsched + (ctrlFlits c).length })
        let slot := (m.port 16).slot
        (each (ctrlFlits c) m (fun m f => m.sendNew 16 0 slot f)).finishRun 16 0 slot
    | none => m

/-- The hold-off begins; `program` says that a page program is under way. -/
def effHoldoffStart (program : Bool) (m : Module) : Module :=
  match m.rst.hold with
  | some (src, 3) =>
    let wait := if program && m.nvj.programs then 2 else 0
    let erase := m.nvj.erasing
    let reason := if wait = 2 then 2 else if m.pulseBusy then 1 else if erase then 3 else 0
    let m := (m.setRst (fun r => { r with hold := some (src, wait) })).setPins (fun p => { p with rstOwn := true })
    let m := ((m.setNvj (fun j => { j with suspended := j.suspended || erase })).setFld RST_HOLDOFF_reason reason).emit (.pin 0 0)
    m.sendAhead tmFAILED (leBytes 1 2)
  | _ => m

/-- The hold-off ends after `us` µs, once no pulse and no page program is under way. -/
def effInternalResetAssert (us : Nat) (m : Module) : Module :=
  match m.rst.hold with
  | some (src, 0) =>
    if m.pulseBusy then m
    else if m.rst.holdOff then m.powerOff false
    else
      let step := m.rst.stepNo
      let early := m.fld RST_CAUSE_early_wdt
      let m := (m.setFld RST_HOLDOFF_us (max 2 (min 1000 us))).cleared false
      let m := (m.setFld RST_CAUSE_first src).count RST_COUNT_resets 1
      if src = 8 then
        (m.setFld RST_CAUSE_wdt_step (if step ≤ 13 then step else 0)).setFld RST_CAUSE_early_wdt (if step < 13 then min 2 (early + 1) else 0)
      else m.setFld RST_CAUSE_early_wdt 0
  | _ => m

/-- The internal reset ends, with RST_N free from outside and SLOT_ID sampled. -/
def effInternalResetRelease (slot : Nat) (m : Module) : Module :=
  if m.rst.good && m.rst.inReset then
    let m := m.setRst (fun r => { r with inReset := false, stepNo := 1 })
    (m.setPins (fun p => { p with rstExt := false, rstOwn := false, slotId := slot % 64 })).emit (.pin 0 1)
  else m

/-! ### Step 2 (R441, R451) -/

/-- The last committed record of a type that the journal holds. -/
def Nvj.last (j : Nvj) (ty : Nat) : Option (List Byte) :=
  if j.super.isNone then none else (((jScan j.recs).filter (fun r => r.ok && r.ty == ty)).getLast?).map (·.payload)

def Module.bootMode (m : Module) : Module :=
  let p := (m.nvj.last jBOOT_SETTINGS).getD []
  let want := if fieldOf p 3 1 = 1 then fieldOf p 2 1 else 0
  let mode := if want = 3 && m.lcState = 0 then 3 else if want = 1 || want = 2 then want
    else if m.fld RST_CAUSE_early_wdt = 2 then 2 else 0
  let m := (m.setFld LCS_STATE_state (lcDecode m.fuseWord)).setFld LCS_STATE_boot_mode mode
  -- a killed fleet link key keeps every port disabled (R449)
  if m.fuseWord 4 = 0 then m else (List.range 17).foldl (fun m p => m.setFld (LINK_CTRL_enable p) 0) m

/-! ### Step 3: mount and replay (R471 to R476) -/

/-- A moraine entry from its bytes. -/
def Moraine.ofBytes (b : List Byte) : Moraine :=
  { unitType := fieldOf b 0 1, cause := fieldOf b 1 1, unit := fieldOf b 2 2, frame := fieldOf b 4 6, count := fieldOf b 10 2, saved := true }

/-- Apply one moraine entry at reset (R388): the unit is retired, and a core's place is taken by a RESERVE core. -/
def Module.moraineApply (m : Module) (e : Moraine) : Module :=
  let m := m.setRas (fun r => { r with moraine := r.moraine ++ [e] })
  match e.unitType with
  | 1 => (match m.promote e.unit with
    | some c => m.setRas (fun r => { r with reserve := r.reserve.filter (fun x => x != c && x != e.unit) })
    | none => m.setRas (fun r => { r with reserve := r.reserve.filter (· != e.unit) }))
  | 3 => m.setMem (fun s => { s with retiredCh := insertU s.retiredCh e.unit })
  | 4 => m.setMem (fun s => { s with retiredCh := insertU s.retiredCh (512 + e.unit) })
  | 5 =>
    let f := LINK_LANES_retired (e.unit / 16)
    m.setFld f (m.fld f ||| 2 ^ (e.unit % 16))
  | 6 =>
    let g := e.unit / 128
    let m : Module := { m with seams := { m.seams with gone := m.seams.gone ++ [e.unit] } }
    let m := m.seamShow (g / 5) (g % 5)
    if 34 - m.groupsGone (g / 5) (g % 5) (e.unit / 64 % 2) < 24 then m.setFld (MEM_SEAM_STATE_state (g / 5) (g % 5)) 2 else m
  | 7 => (m.setFld (LINK_STATE_state e.unit) lsDOWN).setFld (LINK_STATE_down_cause e.unit) dcPHY
  | _ => m

/-- The moraine that a replay gives. -/
def moraineOf (l : List JRec) : List Moraine :=
  l.foldl (fun acc r =>
    if r.ty = jMORAINE_ADD then acc ++ [Moraine.ofBytes r.payload]
    else if r.ty = jMORAINE_REMOVE then acc.filter (fun e => !(e.unitType == fieldOf r.payload 0 1 && e.unit == fieldOf r.payload 2 2))
    else acc) []

/-- The last record of each key of a type. -/
def lastByKey (l : List JRec) (ty : Nat) : Tbl (List Byte) :=
  (l.filter (·.ty == ty)).foldl (fun (t : Tbl (List Byte)) r => t.put (jKey ty r.payload) r.payload) []

/-- Profile `k` as its records give it: whole and matching its digest, or empty (R473). -/
def profileOf (l : List JRec) (k : Nat) : Option Profile :=
  match (l.filter (fun r => jClass r.ty == jPROFILE_COMMIT && fieldOf r.payload 0 1 == k)).getLast? with
  | none => none
  | some c =>
    if c.ty = jPROFILE_CLEAR then none
    else
      let gen := fieldOf c.payload 1 1
      let len := fieldOf c.payload 8 4
      let data := l.filter (fun r => r.ty == jPROFILE_DATA && fieldOf r.payload 0 1 == k && fieldOf r.payload 1 1 == gen && r.seq < c.seq)
      let piece (i : Nat) : List Byte :=
        match (data.filter (fun r => fieldOf r.payload 4 4 == 4056 * i)).getLast? with | some r => r.payload.drop 8 | none => []
      let img := (List.range (ceilDiv len 4056)).flatMap piece
      if img.length = len && sha384 img == (c.payload.drop 16).take 48 then some { image := img, settings := fieldOf c.payload 4 4, valid := true } else none

/-- The record of the boot settings as they stand. -/
def Module.bootRecord (m : Module) : List Byte :=
  leBytes 1 (m.fld COMP_PROFILE_next) ++ leBytes 1 (m.fld COMP_PROFILE_next_en) ++ leBytes 1 (m.fld LCS_NEXT_BOOT_mode) ++ leBytes 1 (m.fld LCS_NEXT_BOOT_en)

/-- A compaction that a reset cut short begins again, or repeats its last step (R475). -/
def Nvj.resumeCompaction (j : Nvj) : Nvj :=
  match j.sb 0, j.sb 1 with
  | some a, some b => if a.2 = b.2 then j.compactStart else { j with compact := 5 }
  | some _, none => { j with compact := 5 }
  | _, _ => j.compactStart

/-- Mount the journal and replay it. -/
def Module.mount (m : Module) : Module :=
  let l := (jScan m.nvj.recs).filter (·.ok)
  let m := m.setFld NVJ_STATUS_mounted 1
  let m := if jResumed m.nvj.recs then m.raise NVJ_EVENT_resumed_scan else m
  let m := each (moraineOf l) m (fun m e => m.moraineApply e)
  let q := match (l.filter (·.ty == jHSS_RESERVE)).getLast? with | some r => fieldOf r.payload 0 8 | none => 0
  let m := m.setSec (fun s => { s with hssNext := q, hssEnd := q })
  let m := each (lastByKey l jEPOCH_RESERVE) m (fun m e =>
    -- a port starts above every block reserved for any of its sessions (R220)
    (m.modSess (fieldOf e.2 0 1) (fieldOf e.2 1 1) (fun x => { x with nextEpoch := fieldOf e.2 4 4, resEnd := fieldOf e.2 4 4 })).modPort
      (fieldOf e.2 0 1) (fun x => { x with epochTop := max x.epochTop (fieldOf e.2 4 4) }))
  let m := m.setComp (fun c => { c with profiles := (List.range 4).filterMap (fun k => (profileOf l k).map (fun p => (k, p))) })
  let m := each (lastByKey l jSLOT_STATE) m (fun m e =>
    (m.setFld (NVJ_FW_STATE_in_use (fieldOf e.2 0 1)) (fieldOf e.2 1 1)).setFld (NVJ_FW_STATE_trial (fieldOf e.2 0 1)) (fieldOf e.2 2 1))
  let m := each (lastByKey l jDIMM) m (fun m e =>
    let d : DdrCh := { state := .absent, speed := 0, gib := 0, dimm := 0, x8 := false, serial := some (fieldOf e.2 8 4), powered := false }
    m.setMem (fun s => { s with ddr := s.ddr.put (fieldOf e.2 0 1) d }))
  let p := (m.nvj.last jBOOT_SETTINGS).getD []
  let m := (m.setFld COMP_PROFILE_next (fieldOf p 0 1)).setFld COMP_PROFILE_next_en (fieldOf p 1 1)
  let m := (m.setFld LCS_NEXT_BOOT_mode (fieldOf p 2 1)).setFld LCS_NEXT_BOOT_en 0
  let m := if fieldOf p 3 1 = 1 then m.jWrite jBOOT_SETTINGS m.bootRecord else m
  let m := m.hssReserve.hssLow.hssGone
  (m.setNvj (fun j => j.resumeCompaction)).burnResume.nvjShow

/-! ### Step 4: the profile (R284) -/

def StepFacts.sig (f : StepFacts) (k : Nat) : Bool × Bool :=
  match f.sigs.find? (fun e => e.1 == k) with | some e => e.2 | none => (false, false)

/-- COMP_PROFILE.valid shows whether a profile verifies. -/
def Module.setProfileValid (m : Module) (k : Nat) (v : Bool) : Module :=
  m.setComp (fun c => { c with profiles := c.profiles.mod k (fun p => { p with valid := v }) })

/-- Does profile `k` verify (steps 1 to 4 of R271)? A signature failure is recorded. -/
def Module.profileTry (m : Module) (k : Nat) (f : StepFacts) : Module × Bool :=
  match m.comp.profiles.get? k with
  | none => (m, false)
  | some p =>
    match m.checkImage p.image (f.sig k).1 (f.sig k).2 with
    | .ok _ => (m.setProfileValid k true, true)
    | .error c =>
      let m := m.setProfileValid k false
      let slot := fieldOf p.image (imgSig p.image + 4) 1
      (if c = rcSIG_ECDSA then m.sigFail 1 (if slot < 4 && !m.ownerKey slot then 3 else 1) (slot % 8)
       else if c = rcSIG_HSS then m.sigFail 1 2 (slot % 8) else m, false)

/-- Choose the profile: the one that next names, once, or the pins; then the others in ascending order. -/
def Module.profileSelect (m : Module) (f : StepFacts) : Module :=
  let sel := f.pins % 4
  let once := m.flag COMP_PROFILE_next_en
  let first := if once then m.fld COMP_PROFILE_next else sel
  let m := (m.setPins (fun p => { p with profileSel := sel })).setComp (fun c => { c with pins := sel })
  let m := if once then (let m := m.setFld COMP_PROFILE_next_en 0; m.jWrite jBOOT_SETTINGS m.bootRecord) else m
  let (m, found) := (first :: (List.range 4).filter (· != first)).foldl (fun (acc : Module × Option Nat) k =>
    match acc.2 with
    | some _ => acc
    | none => let (m, ok) := acc.1.profileTry k f; (m, if ok then some k else none)) (m, none)
  match found with
  | none => m.setComp (fun c => { c with noImage := true })
  | some k =>
    let w := match m.comp.profiles.get? k with | some p => p.settings | none => 0
    let hours := bits w 8 8
    let ms := bits w 16 16
    let m := m.setComp (fun c => { c with chosen := some k, noImage := false })
    let m := if hours = 0 then m else (List.range 4).foldl (fun m d => m.setFld (MEM_SCRUB_PERIOD_hours d) hours) m
    if ms = 0 then m else m.setFld XLAT_PRI_TIMEOUT_ms ms

/-- The profile selected in step 4. -/
def Module.selected (m : Module) : Option Profile := m.comp.chosen.bind m.comp.profiles.get?

/-- The records of the selected profile. -/
def Module.selectedOps (m : Module) : List CompOp :=
  match m.selected with
  | some p => (match readSections p.image with | .ok l => l | .error _ => [])
  | none => []

/-! ### Step 5: firmware (R424, R477, R478) -/

/-- Check a slot, with what the two signature checks find. -/
def Module.fwVerify (m : Module) (part slot : Nat) (ecdsa hss : Bool) : Module × Bool :=
  let off := 64 + 8 * ceilDiv (fieldOf (m.fwBytes part slot 8 4) 0 4) 8
  let blk := m.fwBytes part slot off 108
  let key := fieldOf blk 4 1
  let form := fieldOf blk 0 4 == 0x4749_5359 && fieldOf blk 5 3 == 0 && fieldOf blk 104 4 == 5716
  let r := if !m.vendorKey key then 3 else if !ecdsa then 1 else if !hss then 2 else 0
  let bad := m.fwOk part slot true && form && r ≠ 0
  let (m, ok) := m.fwCheck part slot (form && r == 0)
  (if bad then m.sigFail 0 r (key % 8) else m, ok)

/-- Activation of a slot by NVJ_FW_CTRL.go or PLDM: a slot that passes its check is named on trial. -/
def effFwActivate (part slot : Nat) (ecdsa hss : Bool) (m : Module) : Module :=
  if part < 4 && slot < 2 then
    let (m, ok) := m.fwVerify part slot ecdsa hss
    if ok then m.jWrite jSLOT_STATE (slotState part slot 1) else m
  else m

/-- A write of NVJ_FW_CTRL with go set. -/
def effFwCtrl (part slot : Nat) (ecdsa hss : Bool) (m : Module) : Module :=
  effFwActivate part slot ecdsa hss ((m.setFld NVJ_FW_CTRL_part (part % 4)).setFld NVJ_FW_CTRL_slot (slot % 2))

/-- A part started from a trial slot did not report ready within its bound: the other slot comes back, if it passes the check
that comes before any slot switch (R424; log entry 113 for one that does not). -/
def effFwTrialTimeout (part : Nat) (ecdsa hss : Bool) (m : Module) : Module :=
  if m.nvj.trials.contains part then
    let other := 1 - m.fld (NVJ_FW_STATE_in_use part)
    let m := m.setNvj (fun j => { j with trials := j.trials.filter (· != part) })
    let (m, ok) := m.fwVerify part other ecdsa hss
    if !ok then m
    else
      let m := ((m.setFld (NVJ_FW_STATE_in_use part) other).setFld (NVJ_FW_STATE_trial part) 0).jWrite jSLOT_STATE (slotState part other 0)
      (m.fwStart part).raise NVJ_EVENT_fw_revert
  else m

/-- Start a part from its slot in use, or from the other; false when neither passes. -/
def Module.fwBoot (m : Module) (part : Nat) (f : StepFacts) : Module × Bool :=
  let slot := m.fld (NVJ_FW_STATE_in_use part)
  let try_ (m : Module) (s : Nat) : Module × Bool := let v := f.sig (16 + 2 * part + s); m.fwVerify part s v.1 v.2
  let (m, ok) := try_ m slot
  if ok then (m.fwStart part, true)
  else
    let (m, ok) := try_ m (1 - slot)
    if !ok then (m, false)
    else
      let m := ((m.setFld (NVJ_FW_STATE_in_use part) (1 - slot)).setFld (NVJ_FW_STATE_trial part) 0).jWrite jSLOT_STATE (slotState part (1 - slot) 0)
      ((m.fwStart part).raise NVJ_EVENT_fw_revert, true)

/-! ### Step 7: device memory (R126, R132) -/

/-- One DDR5 channel after training. -/
def Module.dimmStart (m : Module) (d : DimmFact) : Module :=
  let old := (m.mem.ddr.get? d.ch).bind (·.serial)
  let good := dimmOk d.gib d.speed d.x8
  let retired := m.mem.retiredCh.contains (512 + d.ch)
  let state : DdrState := if retired then .retired else if !good then .absent else if d.ok && m.keyAlive 2 then .init else .offline
  -- a RETIRED channel keeps its DIMM powered until an OFFLINE request (R485)
  let on := state == .init || retired
  let c : DdrCh := { state := state, speed := if good then d.speed else 0, gib := if good then d.gib * 31 / 32 else 0, dimm := if good then d.gib else 0, x8 := d.x8,
                     serial := old, powered := on }
  if d.ch ≥ 12 then m else (m.setMem (fun s => { s with ddr := s.ddr.put d.ch c })).dpwr d.ch on

/-- RST_BRINGUP shows a failure. -/
def Module.bootFail (m : Module) (code detail : Nat) (halt : Bool) : Module :=
  ((m.setFld RST_BRINGUP_fail code).setFld RST_BRINGUP_detail detail).setFld RST_BRINGUP_halted (b2n halt)

def Module.memoryStart (m : Module) (f : StepFacts) : Module :=
  let bad := (sortBy id f.failed).filter (· < 16)
  let m := m.setMem (fun s => { s with
    hbmTrained := (List.range 16).filter (fun k => !bad.contains k),
    retiredCh := (bad.flatMap (fun k => (List.range 32).map (fun i => k * 32 + i))).foldl insertU s.retiredCh })
  let m := match bad.head? with | some k => m.bootFail 3 k false | none => m
  let m := each f.dimms m (fun m d => m.dimmStart d)
  -- a retired channel keeps its state without a fact
  each (m.mem.retiredCh.filter (512 ≤ ·)) m (fun m c =>
    if (m.mem.ddr.get? (c - 512)).isSome then (m.modDdr (c - 512) (fun d => { d with state := .retired })).dpwr (c - 512) true else m)

/-- Is every channel that trained zeroed (step 13)? -/
def Module.allZeroed (m : Module) : Bool :=
  m.mem.hbmTrained.all (fun k => (List.range 32).all (fun i => m.mem.hbmZeroed.contains (k * 32 + i))) &&
  m.mem.ddr.all (fun e => e.2.state != .init && e.2.state != .training)

/-! ### Steps 8 to 13 -/

/-- Every steward core loads its supervisor. -/
def Module.supervisorsStart (m : Module) : Module :=
  let v := m.fld (NVJ_FW_STATE_running 1)
  let slot := m.fld (NVJ_FW_STATE_in_use 1)
  (List.range 64).foldl (fun m s => m.modStw s (fun k => { k with supVersion := v, slot := slot, supReady := true })) m

/-- Records of the selected profile that steps 10 to 12 bring in ahead of the composition. -/
def Module.stage (m : Module) (p : CompOp → Bool) : Module :=
  let ops := m.selectedOps.filter p
  m.setComp (fun c => { c with recs := (applyOps c.recs ops).getD c.recs })

/-- Step 10 begins: the enabled ports of the profile train. -/
def Module.portsStart (m : Module) : Module :=
  let m := m.stage (fun o => o.rtype / 256 == 6)
  (List.range 17).foldl (fun m p =>
    if (recOf m.recs 0x0602 p).isSome && (portRec m.recs p).2.2.2.1 && m.flag (LINK_CTRL_enable p) && m.portState p != lsDOWN
    then (m.fwStart 2).startTraining p else m) m

/-- Step 13: the profile is put in force. -/
def Module.profileStart (m : Module) : Module :=
  match m.selected with
  | none => m
  | some p =>
    if p.settings % 2 = 0 then m
    else
      let k := m.comp.chosen.getD 0
      let m := m.modSlot 0 (fun _ => { slotInit with state := .validating, op := 2, profile := k })
      match applyOps [] m.selectedOps with
      | none => (m.rejectSlot 0 rcRECORD).bootFail 4 0 false
      | some r =>
        let c := checkRules { m := m, old := [], fresh := true, ideal := false } r
        if c ≠ 0 then (m.rejectSlot 0 c).bootFail 4 0 false
        else (((m.setComp (fun c => { c with booted := k })).compInstall r (sha384 (imgM p.image))).twinCompose []).slotApplied 0

/-- A step ends: its time shows, and the next one begins. -/
def Module.stepDone (m : Module) (ms : Nat) : Module :=
  let n := m.rst.stepNo
  ((m.setFld (RST_STEP_MS_ms n) (min ms 65535)).setFld RST_BRINGUP_step (n + 1)).setRst (fun r => { r with stepNo := n + 1 })

/-- A release-order step ends, with what it found. -/
def effBringupStepEnd (f : StepFacts) (m : Module) : Module :=
  if !m.rst.good || m.quiet || m.flag RST_BRINGUP_halted then m
  else match m.rst.stepNo with
  | 2 => m.bootMode.stepDone f.ms
  | 3 =>
    if m.nvj.super.isNone then m.bootFail 1 0 true
    else
      let m := if m.flag NVJ_STATUS_mounted then m else m.mount
      -- the step goes on while a partial word is burned
      if m.sec.burn.isSome then m else m.stepDone f.ms
  | 4 => (m.profileSelect f).stepDone f.ms
  | 5 =>
    let (m, bad) := (List.range 4).foldl (fun (acc : Module × Option Nat) p =>
      match acc.2 with
      | some _ => acc
      | none => let (m, ok) := acc.1.fwBoot p f; (m, if ok then none else some p)) (m, none)
    (match bad with
     | some p => m.bootFail 2 p true
     -- the measured values before the first edge are those the firmware starts with (R431)
     | none => m.measEdge.stepDone f.ms)
  | 7 => (m.memoryStart f).stepDone f.ms
  | 8 => m.supervisorsStart.stepDone f.ms
  | 9 => m.portsStart.stepDone f.ms
  | 10 => ((m.stage (fun o => o.rtype / 256 == 1)).applyTick m.recs m.F).stepDone f.ms
  | 11 => ((m.stage (fun o => o.rtype == 0x0A01)).twinCompose m.recs).stepDone f.ms
  | 13 =>
    if !m.allZeroed then m
    else ((m.profileStart.stepDone f.ms).setFld RST_CAUSE_early_wdt 0).raise RST_EVENT_bringup_done
  | n => if n ≤ 13 then m.stepDone f.ms else m

/-! ### Software resets (R464) -/

/-- Base and size in BAR0 of a block, or of the unit of it that the index names; none for a block or unit that is not there. -/
def blockRange (blk i : Nat) : Option (Nat × Nat) :=
  match blk with
  | 0 => some (0x0_0000, 0x1_0000)
  | 1 => some (0x1_0000, 0x1_0000)
  | 2 => some (0x2_0000, 0x2_0000)
  | 3 => some (0x4_0000, 0x2_0000)
  | 4 => some (0x6_0000, 0x2_0000)
  | 5 => some (0x8_0000, 0x2_0000)
  | 6 => some (0xA_0000, 0x2_0000)
  | 7 => some (0xC_0000, 0x1_0000)
  | 8 => some (0xD_0000, 0x1_0000)
  | 9 => some (0xE_0000, 0x1_0000)
  | 10 => some (0xF_0000, 0x1_0000)
  | 11 => some (0x10_0000, 0x10_0000)
  | 12 => if i ≤ 16 then some (0x20_0000 + i * 0x1_0000, 0x1_0000) else none
  | 13 => if i < 4 then some (0x40_0000 + i * 0x4_0000, 0x4_0000) else none
  | 14 => some (0x80_0000 + i * 0x1000, 0x1000)
  | 15 => if i < 64 then some (0xC0_0000 + i * 0x1000, 0x1000) else none
  | 16 => some (0x100_0000, 0x100_0000)
  | _ => none

/-- The bits of the RW counters of a block at an offset in it. -/
def counterMask (blk rel : Nat) : Nat :=
  let all := 2 ^ 32 - 1
  let one (l : List Nat) : Nat := if l.contains rel then all else 0
  match blk with
  | 1 => one [0x28, 0x2C]
  | 3 => one [0x40, 0x44, 0x48, 0x4C, 0x50, 0x60]
  | 4 => if rel < 0x1000 || rel ≥ 0x1100 then 0 else if [0x0, 0x4, 0xC].contains (rel % 0x20) then all
         else if rel % 0x20 = 0x10 then all - (2 ^ 10 - 1) else 0
  | 5 => if rel = 0x28 || (0x200 ≤ rel && rel < 0x3A0 && rel % 0x20 = 0) then all else 0
  | 6 => one [0x30, 0x34, 0x38]
  | 7 => one [0x40]
  | 10 => one [0x10]
  | 11 => one [0x34, 0x38, 0x3C]
  | 12 => if 0x100 ≤ rel && rel < 0x140 then all else one [0x20, 0x24, 0x28, 0x2C, 0x30, 0x808, 0x80C, 0x818]
  | 13 => if 0x1000 ≤ rel && rel < 0x1000 + 131 * 8 then all
          else if (0x5000 ≤ rel && rel < 0x5050 && rel % 0x10 = 4) || rel = 0x6018 || rel = 0x6038 then all else one [0x30, 0x34]
  | 14 => one [0x10, 0x14, 0x18, 0x1C, 0x20, 0x24, 0x28]
  | 15 => one [0x10, 0x14, 0x18]
  | 16 => one [0x30, 0x34, 0x38, 0x3C]
  | _ => 0

/-- RW counters and event registers of a block return to their reset values. -/
def Module.countersReset (m : Module) (blk i : Nat) : Module :=
  match blockRange blk i with
  | none => m
  | some (base, size) =>
    each (m.regs.filter (fun e => base ≤ e.1 && e.1 < base + size)) m (fun m e =>
      let w1c := match descOf e.1 with | some d => d.w1c | none => 0
      let mask := w1c ||| counterMask blk (e.1 - base)
      if mask = 0 then m else m.setReg e.1 (m.reg e.1 - (m.reg e.1 &&& mask) + ((regReset e.1).toNat &&& mask)))

def swNO_UNIT : Nat := 1
def swBOUND : Nat := 2
def swBUSY : Nat := 3

def Module.swStatus (m : Module) (status code : Nat) : Module := (m.setFld RST_SWRST_STATUS_status status).setFld RST_SWRST_STATUS_code code
def Module.swRefuse (m : Module) (code : Nat) : Module := (m.swStatus 3 code).raise RST_EVENT_swrst_refused

/-- The fields that the write of RST_SWRST leaves. -/
def Module.swWrite (m : Module) (blk i kind : Nat) : Module := m.setReg RST_SWRST (blk % 32 + i % 1024 * 2 ^ 16 + kind * 2 ^ 28)

/-- Is a request pending? -/
def Module.swPending (m : Module) : Bool := m.rst.swUnit.isSome || m.rst.swRunning

def effSwrstCounters (blk i : Nat) (m : Module) : Module :=
  let m := m.swWrite blk i 0
  if m.swPending then m.swRefuse swBUSY
  else if (blockRange (blk % 32) (i % 1024)).isNone then m.swRefuse swNO_UNIT
  else ((m.countersReset (blk % 32) (i % 1024)).swStatus 2 0).raise RST_EVENT_swrst_done

/-- Does a unit meet the condition of its UNIT reset? -/
def Module.swMeets (m : Module) (blk i : Nat) : Bool :=
  match blk with
  | 14 => (coreVd m.recs i).isNone
  | 15 => (stwVd m.recs i).isNone
  | _ => !m.flag (LINK_CTRL_enable i)

def effSwrstUnit (blk i : Nat) (m : Module) : Module :=
  let m := m.swWrite blk i 1
  let b := blk % 32
  let k := i % 1024
  if m.swPending then m.swRefuse swBUSY
  else if !(b == 12 || b == 14 || b == 15) || (blockRange b k).isNone then m.swRefuse swNO_UNIT
  else if !m.swMeets b k then m.swRefuse swBOUND
  else (m.swStatus 1 0).setRst (fun r => { r with swUnit := some (b, k) })

/-- A port's PHY, replay buffer, sessions and reduction engine are cleared; every session goes on at its next unreserved block of
epochs (R220). -/
def Module.portClear (m : Module) (p : Nat) : Module :=
  let m := each (m.coll.filter (fun e => e.1 / 2 ^ 32 == p)) m (fun m e => m.collDestroy e.1)
  m.modPort p (fun x => { portInit with
    epochTop := x.sess.foldl (fun a e => max a e.2.resEnd) x.epochTop,
    sess := x.sess.map (fun e => (e.1, { sessInit with nextEpoch := e.2.resEnd, resEnd := e.2.resEnd })) })

/-- The edge: a UNIT reset takes effect if its unit still meets the condition. -/
def Module.swEdge (m : Module) : Module :=
  match m.rst.swUnit with
  | none => m
  | some (b, k) =>
    if m.rst.swRunning then m
    else if !m.swMeets b k then (m.setRst (fun r => { r with swUnit := none })).swRefuse swBOUND
    else
      let m := m.setRst (fun r => { r with swRunning := true })
      if b = 14 then (m.modCore k (fun c => { c.zeroed with clearing := true })).countersReset 14 k
      else if b = 15 then m.modStw k (fun s => { s with harts := [], tcm := [], supReady := false, reload := none })
      else m.portClear k

/-- The UNIT reset completes; a steward core has loaded its supervisor from the slot in use. -/
def effSwrstUnitDone (m : Module) : Module :=
  match m.rst.swUnit with
  | none => m
  | some (b, k) =>
    if !m.rst.swRunning then m
    else
      let m := m.setRst (fun r => { r with swUnit := none, swRunning := false })
      let m := if b ≠ 15 then m
        else
          let m := m.fwStart 1
          m.modStw k (fun s => { s with supReady := true, supVersion := m.fld (NVJ_FW_STATE_running 1), slot := m.fld (NVJ_FW_STATE_in_use 1) })
      (m.swStatus 2 0).raise RST_EVENT_swrst_done

end Sys2Proof.Machine
end

