-- ==== Sys2Proof/Machine/RegRead.lean ====
section
/-!
DEFINITION. Reading BAR0: what each register shows. Registers whose value follows from other state are computed here from
that state; the others read as they are held (R8, R9, and the register tables of the chapters).
-/
namespace Sys2Proof.Machine

/-- Is a unit's retirement in force? -/
def Module.retiredNow (m : Module) (ut unit : Nat) : Bool :=
  m.retired ut unit && !m.ras.retire.any (fun r => r.unitType == ut && r.unit == unit)

/-- A word built from fields: value and lowest bit. -/
def packWord (l : List (Nat × Nat)) : Nat := l.foldl (fun a e => a + e.1 * 2 ^ e.2) 0

/-! ### TICK (R43) -/

def TickState.code : TickState → Nat
  | .freeRun => 0 | .acquiring => 1 | .locked => 2 | .holdover => 3 | .orphan => 4

/-- A 16-bit two's complement value, saturating at plus or minus 32,767. -/
def sat16 (v : Int) : Nat := unsigned 16 (max (-32767) (min 32767 v))

def Module.viewTick (m : Module) (rel : Nat) : Option Nat :=
  let t := m.tick
  if rel = 0x4 then some (packWord [(t.state.code, 0), (t.role, 3), (b2n t.ptpMode, 5), (b2n t.onBackup, 6), (b2n t.extRef, 7),
    (t.depth % 16, 8), (b2n t.slotsHeld, 12)])
  else if rel = 0x8 then some (periodNs m.recs)
  else if rel = 0xC then let w := windowAc m.recs; some (w + 65536 * (if w < 850 then 850 else 0))
  else if rel = 0x10 then some (t.frame % 2 ^ 32)
  else if rel = 0x14 then some (t.frame / 2 ^ 32 % 2 ^ 16)
  else if rel = 0x18 then some (t.ns % 2 ^ 18)
  else if rel = 0x1C then some (sat16 t.offsetNs)
  else if rel = 0x20 then some (match t.state with | .holdover => min t.holdoverUs 0xF_FFFF | .orphan => min t.holdoverUs 0xF_FFFF | _ => 0)
  else none

/-! ### CORE (R110) -/

/-- CORE_BIND, STW_BIND: device, partition, confidential. -/
def bindWord (r : Recs) (vd : Option Nat) : Nat :=
  match vd with
  | none => 0
  | some v =>
    match vdPart r v with
    | some p => packWord [(v, 0), (p % 64, 16), (b2n (isConf r p), 22)]
    | none => v

def Module.viewCore (m : Module) (c rel : Nat) : Option Nat :=
  let r := m.recs
  let k := m.core c
  let part := corePart r c
  let conf := match part with | some p => isConf r p | none => false
  if conf && ([0x8, 0x10, 0x14, 0x18, 0x1C, 0x40] : List Nat).contains rel then some 0
  else if rel = 0x0 then
    let st := if m.retiredNow 1 c then 3 else if m.ras.reserve.contains c then 2 else if (coreVd r c).isSome then 1 else 0
    some (packWord [(st, 0), (b2n k.run.isSome, 3), (match k.run with | some x => b2n x.tile.be | none => 0, 4)])
  else if rel = 0x4 then some (bindWord r (coreVd r c))
  else if rel = 0x8 then some (match k.lastCtx with | some x => x + 2 ^ 31 | none => 0)
  else if rel = 0x2C then some (m.opStoreUsed c)
  else if rel = 0x30 then some k.tags.length
  else if rel = 0x34 then some (match part with
    | some p => packWord [(grant r p false 0, 0), (grant r p true 0, 8), (grant r p false 1, 16), (grant r p true 1, 24)]
    | none => 0)
  else if rel = 0x38 then some (match part with | some p => packWord [(grant r p false 2, 0), (grant r p true 2, 8)] | none => 0)
  else none

/-! ### STW (R123) -/

def Module.viewStw (m : Module) (s rel : Nat) : Option Nat :=
  let r := m.recs
  let conf := match (stwVd r s).bind (vdPart r) with | some p => isConf r p | none => false
  let k := m.stwCore s
  let harts (p : Hart → Bool) : Nat := (k.harts.filter (fun e => p e.2)).foldl (fun a e => a + 2 ^ e.1) 0
  if conf && ([0x8, 0x1C, 0x20] : List Nat).contains rel then some 0
  else if rel = 0x0 then
    some ((if m.retiredNow 2 s then 3 else if (stwVd r s).isSome then 1 else 0) + 8 * b2n k.supReady)
  else if rel = 0x4 then some (bindWord r (stwVd r s))
  else if rel = 0x8 then some (harts (·.running) + 65536 * harts (·.stopped))
  else if rel = 0x24 then some (k.supVersion + 65536 * k.slot)
  else none

/-! ### MEM (R149, R205, R305) -/

def DdrState.code : DdrState → Nat
  | .absent => 0 | .training => 1 | .init => 2 | .online => 3 | .offline => 4 | .retired => 5

/-- The word of MEM_HCH_OWNER and MEM_DDR_GIB. -/
def Module.ownerWord (m : Module) (owner : Option Nat) (ch gib : Nat) : Nat :=
  let (p, sys) := match owner with | some o => (if o = 0xFF then (0, 1) else (o % 64, 0)) | none => (0, 0)
  packWord [(p, 0), (sys, 6), (b2n owner.isSome, 7), (b2n (m.mem.clearing.contains (ch, gib)), 8), (b2n (m.mem.retiredCh.contains ch), 9)]

/-- Four fills of a channel, classes `c` to `c + 3`. -/
def Module.fillWord (m : Module) (ch c : Nat) : Nat :=
  packWord ((List.range 4).map (fun i => (SMap.get (fun _ => 0) m.mem.fills (ch * 8 + c + i) % 256, 8 * i)))

def Module.viewMem (m : Module) (d rel : Nat) : Option Nat :=
  let r := m.recs
  if rel = 0x0 then
    let st (i : Nat) : Bool := m.mem.hbmTrained.contains (d * 4 + i)
    some (packWord [(b2n ((List.range 4).all st), 0), (b2n ((List.range 128).all (fun n => m.mem.hbmZeroed.contains (d * 128 + n))), 1),
      (b2n (m.ddrState (d * 3) == .online), 2), (b2n (m.ddrState (d * 3 + 1) == .online), 3), (b2n (m.ddrState (d * 3 + 2) == .online), 4)])
  else if rel = 0x4 then
    some (packWord ((b2n m.mem.bin8, 0) :: (List.range 4).map (fun i => (b2n (m.mem.hbmTrained.contains (d * 4 + i)), i + 1))))
  else if rel = 0x10 ∨ rel = 0x14 ∨ rel = 0x18 then
    match m.mem.ddr.get? (d * 3 + (rel - 0x10) / 4) with
    | some x => some (packWord [(x.state.code, 0), (x.speed, 3), (x.gib, 6)])
    | none => some 0
  else if 0x1000 ≤ rel ∧ rel < 0x2000 then if m.chanConf (chanNo d ((rel - 0x1000) / 8)) then some 0 else none
  else if 0x2000 ≤ rel ∧ rel < 0x3000 then
    let ch := d * 128 + (rel - 0x2000) / 4
    some (m.ownerWord (hbmOwner r ch) ch 0)
  else if 0x3000 ≤ rel ∧ rel < 0x4000 then
    let c := d * 3 + (rel - 0x3000) / 0x400
    let g := (rel - 0x3000) % 0x400 / 4
    if g < (match m.mem.ddr.get? c with | some x => x.gib | none => 0) then some (m.ownerWord (ddrOwner r c g) (512 + c) g) else some 0
  else if 0x4000 ≤ rel ∧ rel < 0x5000 then
    let ch := chanNo d ((rel - 0x4000) / 8)
    some (if m.chanConf ch then 0 else m.fillWord ch (if rel % 8 = 0 then 0 else 4))
  else if 0x5000 ≤ rel ∧ rel < 0x6000 ∧ rel % 16 = 8 then some (m.seamLoadWord d ((rel - 0x5000) / 16))
  else if 0x6000 ≤ rel ∧ rel < 0x6080 then
    let i := (rel - 0x6000) / 0x20
    match m.mem.migs.get? (d * 2 + i) with
    | some g =>
      if rel % 0x20 = 0x10 then some (putField (m.reg (MEM_MIG_STATE d i)) 0 3 g.state)
      else if rel % 0x20 = 0x14 then some (g.bound / 65536) else none
    | none => none
  else if 0x6080 ≤ rel ∧ rel < 0x6090 then
    let k := d * 2 + (rel - 0x6080) / 8
    if m.mem.badHidden.contains k || (match m.mem.migs.get? k with | some g => m.lineConf g.src | none => false) then some 0 else none
  else if 0x1_0000 ≤ rel then some (m.latWord (chanNo d ((rel - 0x1_0000) / 0x40)) ((rel - 0x1_0000) % 0x40 / 8))
  else none

/-! ### SEQ (R171, R338) -/

def Module.viewSeq (m : Module) (rel : Nat) : Option Nat :=
  let ready := !m.rst.inReset && m.rst.stepNo > 8
  if rel = 0x0 then some (if ready then 0xF else 0)
  else if 0x10 ≤ rel ∧ rel < 0x20 then some (m.seq.recs.filter (fun e => e.1 / 1024 == (rel - 0x10) / 4)).length
  else if 0x1000 ≤ rel then
    let k := (rel - 0x1000) / 16
    if isConf m.recs (k / 2 % 64) then some 0
    else if rel % 16 = 0xC then some (m.poolFree k) else none
  else none

/-- The word of the read-only aperture onto the sequence records (R153). DESIGN CHOICE (log entry 97): R152 says of a FREE record only that
its state is 0; all of it reads as zero. -/
def Module.seqWord (m : Module) (rel : Nat) : Nat :=
  match m.seq? (rel / 64) with
  | some q => if m.conf q.part then 0 else fieldOf q.bytes (rel % 64) 4
  | none => 0

/-! ### XLAT, LINK, COMP, TWIN (R191, R240, R260, R285, R328) -/

def Module.viewXlat (m : Module) (rel : Nat) : Option Nat :=
  let d := (rel - 0x1000) / 0x20
  if rel = 0x4 then some (Machine.selfId m.recs)
  else if rel = 0xC then some (putField (m.reg XLAT_FLUSH) 29 1 (b2n (m.xlat.invals.any (·.flush))))
  else if rel ≥ 0x1000 ∧ rel % 0x20 = 0x8 then
    let es := m.xlat.entries.filter (·.die == d)
    some (es.length + 65536 * (es.filter (fun e => !e.pins.isEmpty)).length)
  else if rel ≥ 0x1000 ∧ rel % 0x20 = 0x10 then
    some (putField (m.reg (XLAT_PRI d)) 0 10 (m.xlat.pages.filter (fun p => p.sent && homeDie p.page p.pasid == d)).length)
  else none

def Module.viewLink (m : Module) (p rel : Nat) : Option Nat :=
  if rel = 0x800 then
    let cs := m.engineColls p
    some (cs.length % 128 + 256 * ceilDiv (cs.foldl (fun n e => n + e.2.staging) 0) 1024)
  else none

def Module.viewComp (m : Module) (rel : Nat) : Option Nat :=
  let c := m.comp
  if rel = 0x24 then
    let valid := (c.profiles.filter (·.2.valid)).foldl (fun a e => a + 2 ^ e.1) 0
    some (m.reg COMP_PROFILE % 2 ^ 15 / 2 ^ 12 * 2 ^ 12 + packWord [(c.pins % 4, 0), (c.booted % 4, 2), (b2n c.noImage, 4), (valid % 16, 8)])
  else if rel = 0x28 then some c.inforce
  else if 0x40 ≤ rel ∧ rel < 0x70 then some (fieldOf c.chain (rel - 0x40) 4)
  else if 0x100 ≤ rel ∧ rel < 0x180 then
    match c.slots.get? ((rel - 0x100) / 16) with
    | none => some 0
    | some s =>
      some (if rel % 16 = 0 then packWord [(s.state.code, 0), (s.op, 3), (s.code, 8)]
        else if rel % 16 = 4 then s.imageId
        else if rel % 16 = 8 then s.applyFrame % 2 ^ 32 else s.applyFrame / 2 ^ 32)
  else none

def Module.viewTwin (m : Module) (rel : Nat) : Option Nat :=
  let sel := m.fld TWIN_VD_SEL_vd_id
  let vd := m.twinVd? sel
  let conf := match vdPart m.recs sel with | some p => isConf m.recs p | none => false
  let get (f : TwinVd → Nat) : Option Nat := some (match vd with | some t => f t | none => 0)
  if rel = 0x0 then some (packWord [(m.twin.state, 0), (b2n (m.portUp 16), 3), (m.twin.vds.length, 4)])
  else if rel = 0x18 then some (putField (m.reg TWIN_LAG) 0 8 (min 255 (m.twin.vds.foldl (fun a e => max a e.2.lag) 0)))
  else if rel = 0x2C then some (ceilDiv (m.twin.ring.foldl (fun n x => n + x.len) 0) 1024)
  else if rel = 0x104 then get (fun t => packWord [(t.mode, 0), (t.state, 2), (b2n t.shadow, 5), (b2n t.bothFlagged, 6), (b2n t.digestOk, 7)])
  else if rel = 0x114 then get (fun t => t.lastNeg % 2 ^ 32)
  else if rel = 0x118 then get (fun t => t.lastNeg / 2 ^ 32)
  else if 0x120 ≤ rel ∧ rel < 0x140 then if conf then some 0 else get (fun t => t.lastPrint / 2 ^ (8 * (rel - 0x120)) % 2 ^ 32)
  else if 0x140 ≤ rel ∧ rel < 0x160 then if conf then some 0 else get (fun t => t.lastPeer / 2 ^ (8 * (rel - 0x140)) % 2 ^ 32)
  else none

/-! ### GLB and the VF registers (R346, R347, R502) -/

def Module.viewGlb (m : Module) (rel : Nat) : Option Nat :=
  let v := m.fld GLB_MBOX_SEL_vf
  if rel = 0x1C then some (if isVf v then 4 * b2n (m.flag (VF_MBOX_CTRL_in_full v)) else 0)
  else if 0x40 ≤ rel ∧ rel < 0x80 then some (if isVf v then m.reg (mboxPf v ((rel - 0x40) / 4)) else 0)
  else if 0x80 ≤ rel ∧ rel < 0xC0 then some (if isVf v then m.reg (mboxOut v ((rel - 0x80) / 4)) else 0)
  else if rel = 0x100 then
    -- ALERT_N reads low from any driver: whether another one holds it low is a free value (log entry 115)
    some (packWord [(m.pins.slotId % 64, 0), (b2n m.pins.twinPresent, 6), (b2n (m.pins.alert || Config.freeNat m.free 0 % 2 == 1), 7), (b2n (m.pins.rstExt || m.pins.rstOwn), 8)])
  else none

/-- VF_INFO of VF `v`. -/
def Module.vfInfo (m : Module) (v : Nat) : Nat :=
  let r := m.recs
  match vfPart r v with
  | none => 0
  | some p =>
    let bs := (bindsOf r).filter (fun e => vdPart r e.1 == some p)
    let cores := bs.foldl (fun n e => n + (bmapList e.2 8 1024).length) 0
    let stws := bs.foldl (fun n e => n + (bmapList e.2 200 64).length) 0
    packWord [(p % 64, 0), (1, 6), (b2n (isConf r p), 7), (cores % 1024, 8), (stws, 18)]

/-! ### RAS, PWR, SEC, LCS (R396, R418, R438, R452) -/

def Module.viewRas (m : Module) (rel : Nat) : Option Nat :=
  let n := (m.ras.damper.filter (fun d => m.dampOpen d)).length
  let left (d : Nat) : Nat := (m.ras.reserve.filter (fun c => c / 128 == d)).length
  if rel = 0x4 then some (putField (m.reg RAS_STATUS) 1 1 (b2n (n ≥ 4096)))
  else if rel = 0x24 then some n
  else if rel = 0x30 then some (packWord [(left 0, 0), (left 1, 8), (left 2, 16), (left 3, 24)])
  else if rel = 0x34 then some (packWord [(left 4, 0), (left 5, 8), (left 6, 16), (left 7, 24)])
  else if rel = 0x40 then some m.ras.moraine.length
  else if 0x48 ≤ rel ∧ rel < 0x58 then
    some (match m.ras.moraine[m.fld RAS_MORAINE_SEL_index]? with | some e => fieldOf e.bytes (rel - 0x48) 4 | none => 0)
  else if rel = 0x64 then
    match m.ras.hist.get? (m.fld RAS_HIST_SEL_index * 2 ^ 16 + m.fld RAS_HIST_SEL_unit) with
    | some h => some (if m.histOpen h then min h.count (2 ^ 24 - 1) + 2 ^ 24 else 0)
    | none => some 0
  else none

def Module.viewPwr (m : Module) (rel : Nat) : Option Nat :=
  if rel = 0x4 then
    let volts := m.fld PWR_INPUT_volts
    let ok := m.rst.inputOk && 4000 ≤ volts && volts ≤ 6000
    some (putField (putField (m.reg PWR_STATUS) 4 3 (6 - m.rst.failed.length)) 7 1 (b2n ok))
  else none

def Module.viewSec (m : Module) (rel : Nat) : Option Nat :=
  if rel = 0x0 then
    some (packWord [(b2n (!m.rst.inReset && m.rst.stepNo > 2), 0), (b2n (m.confWord != 0), 1), (b2n m.debugUnlocked, 2),
      (b2n (m.rst.stepNo > 3 && m.keyAlive 0 && !m.sec.hssFail && m.sec.hssNext < hssLeaves), 3), (m.fuseWord 33 % 16, 4),
      (((List.range 4).filter (fun i => m.fuseWord (8 + i) != 0)).foldl (fun a i => a + 2 ^ i) 0, 8), (m.fuseWord 34 % 4, 12)])
  else if rel = 0x8 then some m.keysWord
  else if 0x10 ≤ rel ∧ rel < 0x20 then some (fieldOf m.serial (rel - 0x10) 4)
  else if rel = 0x20 then some m.orderCode
  else if rel = 0x28 then some (m.sec.hssNext % 2 ^ 32)
  else if rel = 0x2C then some (m.sec.hssNext / 2 ^ 32 % 256)
  else if rel = 0x30 then some (m.sec.hssEnd % 2 ^ 32)
  else if rel = 0x34 then some (m.sec.hssEnd / 2 ^ 32 % 256)
  else if rel = 0x38 then some (m.confWord % 2 ^ 32)
  else if rel = 0x3C then some (m.confWord / 2 ^ 32)
  else none

def Module.viewLcs (m : Module) (rel : Nat) : Option Nat :=
  if rel = 0x0 then
    some (m.reg LCS_STATE % 64 + packWord [(b2n m.sec.burn.isSome, 6), (b2n m.debugUnlocked, 7), (m.sec.debugSlot.getD 0, 8)])
  else if rel = 0x4 then some (packWord ((List.range 4).map (fun i => (m.fuseWord i % 256, 8 * i))))
  else if rel = 0x8 then some (packWord ((List.range 3).map (fun i => (m.fuseWord (4 + i) % 256, 8 * i))))
  else if 0x20 ≤ rel ∧ rel < 0x30 then some (match m.sec.challenge with | some c => fieldOf c (rel - 0x20) 4 | none => 0)
  else if 0x1000 ≤ rel then some 0
  else none

/-! ### RST and NVJ (R465, R467, R490) -/

/-- A clock domain: its frequency in MHz, whether it has started, and whether it is gated (R465). A domain starts at the
step of the release order that releases its logic; a stopped or gated domain shows no frequency (log entry 44). -/
def Module.clockOf (m : Module) (n : Nat) : Nat × Bool × Bool :=
  let after (s : Nat) : Bool := !m.rst.inReset && m.rst.stepNo ≥ s
  let blockGated (b : Nat) : Bool := (List.range 16).all (fun i => m.retiredNow 1 (b * 16 + i))
  let stackOff (s : Nat) : Bool := m.rst.stepNo > 7 && !m.mem.hbmTrained.contains s
  if n < 64 then (m.blockMHz (n * 16), after 8, blockGated n)
  else if n < 128 then (1700, after 8, m.retiredNow 2 (n - 64))
  else if n < 136 then
    let bs := (List.range 8).map (fun b => (n - 128) * 8 + b)
    (bs.foldl (fun a b => max a (m.blockMHz (b * 16))) 0, after 8, bs.all blockGated)
  else if n < 152 then
    let c := (n - 136) / 2
    let (d, k) := if n % 2 = 0 then (c / 2, 2 + c % 2) else ((c / 2 + 1) % 4, c % 2)
    (2000, after 8, m.fld (MEM_SEAM_STATE_state d k) == 2)
  else if n < 156 then (1600, after 7, false)
  else if n < 172 then (if m.mem.bin8 then 4000 else 3200, after 7, stackOff (n - 156))
  else if n < 188 then (if m.mem.bin8 then 1000 else 800, after 7, stackOff (n - 172))
  else if n < 200 then
    let c := n - 188
    let speed := match m.mem.ddr.get? c with | some d => d.speed | none => 0
    let off := match m.ddrState c with
      | .absent => true | .offline => true | .retired => !m.pins.dpwr.contains c | _ => false
    (([2400, 2800, 3200, 4400] : List Nat).getD speed 2400, after 7, off)
  else if n < 217 then
    let p := n - 200
    let st := m.portState p
    (([350, 700, 1400] : List Nat).getD (m.fld (LINK_STATE_rate p)) 1400, after 10, st == lsDISABLED || st == lsDOWN)
  else if n = 217 then
    let g := m.fld GLB_PCIE_gen
    (([0, 250, 500, 1000, 2000] : List Nat).getD g 0, after 6, g == 0)
  else if n = 218 then (1000, after 6, false)
  else if n = 219 then (800, true, false)
  else if n = 220 then (400, true, false)
  else if n = 221 then (125, true, false)
  else if n = 222 then (1000, true, false)
  else (1400, after 10, false)

def Module.viewRst (m : Module) (rel : Nat) : Option Nat :=
  if rel = 0x44 then
    let n := m.fld RST_CLK_SEL_domain
    if n > 224 then some 0
    else
      let (mhz, on, gated) := m.clockOf n
      some (packWord [(if on && !gated then mhz else 0, 0), (b2n on, 13), (b2n gated, 14)])
  else none

def Module.viewNvj (m : Module) (rel : Nat) : Option Nat :=
  if rel = 0xA4 then some (putField (m.reg NVJ_DDR_STATUS) 2 1 (b2n (m.rst.stepNo > 7 && !m.pins.dpwr.contains (m.fld NVJ_DDR_CTRL_channel)))) else none

/-! ### The read -/

/-- The value computed from other state for the register at an offset, if it has one. -/
def Module.viewOf (m : Module) (off : Nat) : Option Nat :=
  if off < 0x1_0000 then m.viewGlb off
  else if off < 0x2_0000 then m.viewTick (off - 0x1_0000)
  else if off < 0x4_0000 then m.viewComp (off - 0x2_0000)
  else if off < 0x6_0000 then none
  else if off < 0x8_0000 then m.viewXlat (off - 0x6_0000)
  else if off < 0xA_0000 then m.viewRas (off - 0x8_0000)
  else if off < 0xC_0000 then m.viewPwr (off - 0xA_0000)
  else if off < 0xD_0000 then m.viewSec (off - 0xC_0000)
  else if off < 0xE_0000 then m.viewLcs (off - 0xD_0000)
  else if off < 0xF_0000 then m.viewRst (off - 0xE_0000)
  else if off < 0x10_0000 then m.viewNvj (off - 0xF_0000)
  else if off < 0x20_0000 then m.viewTwin (off - 0x10_0000)
  else if off < 0x31_0000 then m.viewLink ((off - 0x20_0000) / 0x1_0000) (off % 0x1_0000)
  else if off < 0x40_0000 then none
  else if off < 0x50_0000 then m.viewMem ((off - 0x40_0000) / 0x4_0000) (off % 0x4_0000)
  else if off < 0x80_0000 then none
  else if off < 0xC0_0000 then m.viewCore ((off - 0x80_0000) / 0x1000) (off % 0x1000)
  else if off < 0xC4_0000 then m.viewStw ((off - 0xC0_0000) / 0x1000) (off % 0x1000)
  else if off < 0x200_0000 then m.viewSeq (off - 0x100_0000)
  else if off < 2 ^ 32 then none
  else if off % 2 ^ 32 = 0xC_0000 then some (m.vfInfo (off / 2 ^ 32))
  else none

/-- What the register at an offset shows; offsets that name no register read zero (R9). -/
def Module.regShows (m : Module) (off : Nat) : Nat :=
  if 0x200_0000 ≤ off ∧ off < 0x204_0000 then m.seqWord (off - 0x200_0000)
  else match descOf off with
    | none => 0
    | some _ => (m.viewOf off).getD (m.reg off)

/-- A read of a register. A read of the low word of a pair latches the high word, and a read of the high word returns what
was latched (R8). DESIGN CHOICE (log entry 88): a high word read with nothing latched shows its present value. A read through
MEM_LAT_RC sets max_clear to 0 (R149). -/
def Module.readReg (m : Module) (off : Nat) : Module × Nat :=
  let v := m.regShows off
  match descOf off with
  | none => (m, v)
  | some d =>
    if d.pair = 1 then ({ m with latch := m.latch.put (off + 4) (BitVec.ofNat 32 (m.regShows (off + 4))) }, v)
    else if d.pair = 2 then
      match m.latch.get? off with
      | some h => ({ m with latch := m.latch.del off }, h.toNat)
      | none => (m, v)
    else if 0x40_0000 ≤ off ∧ off < 0x50_0000 ∧ off % 0x4_0000 ≥ 0x1_0000 ∧ off % 8 = 4 then
      let ch := chanNo ((off - 0x40_0000) / 0x4_0000) ((off % 0x4_0000 - 0x1_0000) / 0x40)
      let cls := (off % 0x4_0000 - 0x1_0000) % 0x40 / 8
      if m.chanConf ch then (m, v)
      else (m.setMem (fun s => { s with latClear := SMap.set (fun _ => 0) s.latClear (ch * 8 + cls) 0 }), v)
    else if off = GLB_BOARD then ({ m with free := m.free + 1 }, v)
    else (m, v)

end Sys2Proof.Machine
end

