-- ==== Sys2Proof/Machine/RegWrite.lean ====
section
/-!
DEFINITION. Writing BAR0: the value rules of the registers (R8, R9 and the register tables of the chapters), and for the
registers whose write starts something, the same effect that the command of that name has.
-/
namespace Sys2Proof.Machine

/-! ### Plain writes (R8, R9) -/

/-- Are the lockable registers locked (R372)? -/
def Module.hostLocked (m : Module) : Bool := m.flag HOST_CTRL_lock

/-- The bits of a register that a plain write sets. -/
def Module.writeMask (m : Module) (d : RegDesc) : Nat := d.rw ||| (if m.hostLocked then 0 else d.rwl)

/-- The word after a write: read-write bits take the value, write-1-to-clear bits clear, the others keep. -/
def writtenWord (old mask w1c v : Nat) : Nat :=
  let kept := old - (old &&& mask) + (v &&& mask)
  kept - (kept &&& (v &&& w1c))

/-- A write to a register. In a pair, the low word waits for the high word (R8). DESIGN CHOICE (log entry 88): a high word
written while no low word waits leaves the low word as it is. -/
def Module.plainWrite (m : Module) (off v : Nat) : Module :=
  match descOf off with
  | none => m
  | some d =>
    let mask := m.writeMask d
    if d.pair = 1 then (if mask = 0 then m else { m with lowHold := m.lowHold.put off (BitVec.ofNat 32 v) })
    else if d.pair = 2 ∧ mask ≠ 0 then
      let m := match m.lowHold.get? (off - 4), descOf (off - 4) with
        | some lo, some dl => m.setReg (off - 4) (writtenWord (m.reg (off - 4)) (m.writeMask dl) 0 lo.toNat)
        | _, _ => m
      { m with lowHold := m.lowHold.del (off - 4) }.setReg off (writtenWord (m.reg off) mask 0 v)
    else m.setReg off (writtenWord (m.reg off) mask d.w1c v)

/-- The low word that waits at an offset for its high word. DESIGN CHOICE (log entry 88): 0 for a write-only pair when none
waits. -/
def Module.heldLow (m : Module) (off : Nat) : Nat := match m.lowHold.get? off with | some w => w.toNat | none => 0

/-! ### Values that are ignored -/

/-- Does a value lie in a range? -/
def inRange (v lo hi : Nat) : Bool := lo ≤ v && v ≤ hi

/-- The value that a write of a register leaves in force: `none` when the register's description says that such a write is
ignored. -/
def Module.admitted (m : Module) (off v : Nat) : Option Nat :=
  let keep (ok : Bool) : Option Nat := if ok then some v else none
  if 0x40_0000 ≤ off ∧ off < 0x50_0000 then
    let rel := off % 0x4_0000
    let d := (off - 0x40_0000) / 0x4_0000
    if rel = 0x24 then keep (bits v 0 8 != 0)
    else if 0x6000 ≤ rel ∧ rel < 0x6040 ∧ rel % 0x20 = 0xC then
      keep (inRange (bits v 0 7) 1 64 && m.migState d ((rel - 0x6000) / 0x20) == 0)
    else some v
  else if off = XLAT_PRI_TIMEOUT then keep (bits v 0 16 != 0)
  else if 0x6_0100 ≤ off ∧ off < 0x6_0204 then keep (inRange (bits v 0 15) 1 16384)
  else if off = TWIN_RING_BASE_LO ∨ off = TWIN_RING_BASE_HI ∨ off = TWIN_RING_SIZE then keep (m.twin.state != tsPAIRED)
  else if off = TWIN_SKEW_LIMIT then keep (bits v 0 4 != 0)
  else if 0x200 ≤ off ∧ off < 0x300 then keep (bits v 0 6 % max 1 m.pcie.vfBar == 0)
  else if off = RAS_RING_BASE_LO ∨ off = RAS_RING_BASE_HI then keep (!m.flag RAS_CTRL_ring_en)
  else if 0x8_0100 ≤ off ∧ off < 0x8_0160 then keep (bits v 0 (if off % 8 = 0 then 24 else 20) != 0)
  else if off = PWR_GUARD then keep (bits v 0 4 ≤ 10)
  else if off = PWR_THERM then
    let warn := if inRange (bits v 0 8) 80 110 then bits v 0 8 else m.fld PWR_THERM_warn_c
    let thr := if inRange (bits v 8 8) 85 112 && bits v 8 8 ≥ warn then bits v 8 8 else m.fld PWR_THERM_throttle_c
    keep (warn ≤ thr) |>.map (fun _ => warn + 256 * thr)
  else if off = LCS_NEXT_BOOT then keep (bits v 0 2 != 3 || m.lcState == 0)
  else if off = RST_WDT then keep (inRange (bits v 0 6) 1 60)
  else if off = RST_CLK_SEL then keep (bits v 0 8 ≤ 224)
  else some v

/-! ### Registers whose write starts something -/

/-- Apply an effect when a bit of the value is set. -/
def whenBit (v i : Nat) (f : Module → Module) (m : Module) : Module := if bit v i then f m else m

/-- CORE_CTRL (R110). -/
def Module.writeCoreCtrl (m : Module) (c v : Nat) : Module :=
  let m := whenBit v 0 (effInjResidue c) m
  let m := whenBit v 1 (effInjPlateCe c) m
  let m := whenBit v 2 (effInjPlateUe c) m
  let m := whenBit v 3 (effInjAccParity c) m
  whenBit v 4 (effTagFlush c) m

/-- The registers of the MEM block of die `d` (R149, R205, R305). -/
def Module.writeMem (m : Module) (off v : Nat) : Module :=
  let d := (off - 0x40_0000) / 0x4_0000
  let rel := off % 0x4_0000
  if rel = 0x20 then
    let m := m.plainWrite off v
    let m := whenBit v 0 (effInjHbmCe d) m
    let m := whenBit v 1 (effInjHbmUe d) m
    let m := whenBit v 2 (effInjDdrCe d) m
    let m := whenBit v 3 (effInjDdrUe d) m
    whenBit v 4 (effInjDdrMac d) m
  else if 0x5000 ≤ rel ∧ rel < 0x5050 ∧ rel % 16 = 0xC then whenBit v 0 (effSeamInjCrc d ((rel - 0x5000) / 16)) m
  else if rel = 0x6000 ∨ rel = 0x6020 then
    let i := (rel - 0x6000) / 0x20
    let m := if bit v 0 && m.migState d i == 3 then m else m.plainWrite off v
    let m := whenBit v 0 (effMigStart d i) m
    let m := whenBit v 1 (effMigRelease d i) m
    whenBit v 2 (effMigCancel d i) m
  else m.plainWrite off v

/-- LINK_CTRL of port `p` (R240). -/
def Module.writeLinkCtrl (m : Module) (p v : Nat) : Module :=
  let m := if bit v 0 == m.flag (LINK_CTRL_enable p) then m else effLinkEnable p (bit v 0) m
  let m := whenBit v 1 (effLinkRetrain p) m
  let m := whenBit v 2 (effLinkInjCrc p) m
  whenBit v 3 (effLinkInjTag p) m

/-- COMP_CTRL (R269, R278). -/
def Module.writeCompCtrl (m : Module) (off v : Nat) : Module :=
  let s := bits v 0 3
  let k := bits v 5 2
  if !bit v 7 then m.plainWrite off v
  else match bits v 3 2 with
    | 0 => effSubmitImage s k m
    | 1 => effStoreProfile s k m
    | 2 => effApplyProfile s k m
    | _ => effCancel s k m

/-- HOST_CTRL (R348, R372). -/
def Module.writeHostCtrl (m : Module) (v : Nat) : Module :=
  if m.hostLocked then m else whenBit v 1 effHostLock (if bit v 0 then effHostEnable m else effHostDisable m)

/-- SEC_REV_CTRL, LCS_CTRL, LCS_TOKEN_BUF and LCS_NEXT_BOOT (R427, R444, R445, R450, R451). -/
def Module.writeSec (m : Module) (off v : Nat) (f : WriteFacts) : Module :=
  if off = SEC_REV_CTRL then whenBit v 0 (effRevocation f.ecdsa f.hss) m
  else if off = LCS_CTRL then
    let m := whenBit v 0 (effLcsTokenGo f.ecdsa f.hss) m
    let m := whenBit v 1 (effNewChallenge f.rnd) m
    whenBit v 2 effDebugRelock m
  else if 0xD_1000 ≤ off ∧ off < 0xD_1000 + 5888 then m.setSec (fun s => { s with token := s.token.write (off - 0xD_1000) (leBytes 4 v) })
  else
    let m := m.plainWrite off v
    if off = LCS_NEXT_BOOT then m.jWrite jBOOT_SETTINGS m.bootRecord else m

/-- RST_CTRL and RST_SWRST (R464). -/
def Module.writeRst (m : Module) (off v : Nat) : Module :=
  if off = RST_CTRL then effModuleReset v m
  else if off = RST_SWRST ∧ bit v 29 then
    if bit v 28 then effSwrstUnit (bits v 0 5) (bits v 16 10) m else effSwrstCounters (bits v 0 5) (bits v 16 10) m
  else m.plainWrite off v

/-- NVJ_FW_CTRL and NVJ_DDR_CTRL (R478, R482, R483). -/
def Module.writeNvj (m : Module) (off v : Nat) (f : WriteFacts) : Module :=
  if off = NVJ_FW_CTRL then
    let m := m.plainWrite off v
    whenBit v 3 (effFwActivate (bits v 0 2) (bits v 2 1) f.ecdsa f.hss) m
  else if off = NVJ_DDR_CTRL then
    let m := m.plainWrite off v
    whenBit v 5 (if bit v 4 then effDdrOnline (bits v 0 4) else effDdrOffline (bits v 0 4)) m
  else m.plainWrite off v

/-- A write of a BAR0 register of the PF. -/
def Module.writeReg (m : Module) (off v : Nat) (f : WriteFacts) : Module :=
  match m.admitted off v with
  | none => m
  | some v =>
    if off = TICK_CTRL then whenBit v 0 (effTickRelockRequest f.up) (m.plainWrite off v)
    else if off = XLAT_FLUSH then effXlatFlush v m
    else if off = COMP_CTRL then m.writeCompCtrl off v
    else if 0x2_0100 ≤ off ∧ off < 0x2_0180 ∧ off % 16 = 0 then whenBit v 7 (effSlotRelease ((off - 0x2_0100) / 16)) m
    else if off = COMP_ARM_CTRL then
      if bit v 0 then effArmFire (bit v 1) (bits v 2 5) m else m.plainWrite off v
    else if off = COMP_ARM_TALLY_ID then effTallyReset v m
    else if off = COMP_PROFILE then (m.plainWrite off v).jWrite jBOOT_SETTINGS (m.plainWrite off v).bootRecord
    else if off = TWIN_CTRL then whenBit v 3 effTwinInjBeatStop (whenBit v 2 effTwinInjPrint (m.plainWrite off v))
    else if off = TWIN_VD_CTRL then
      let sel := m.fld TWIN_VD_SEL_vd_id
      whenBit v 1 (effTwinVdClear sel (m.reg64 TWIN_VD_FRAME_LO TWIN_VD_FRAME_HI)) (whenBit v 0 (effTwinVdSwap sel) m)
    else if off = GLB_MBOX_CTRL then whenBit v 1 effPfMboxSend (whenBit v 0 effPfMboxAck m)
    else if 0x80 ≤ off ∧ off < 0xC0 then
      let s := m.fld GLB_MBOX_SEL_vf
      if isVf s then m.setReg (mboxOut s ((off - 0x80) / 4)) v else m
    else if off = HOST_CTRL then m.writeHostCtrl v
    else if off = HOST_REF_LO then { m with lowHold := m.lowHold.put off (BitVec.ofNat 32 v) }
    else if off = HOST_REF_HI then
      effHostRef (m.heldLow HOST_REF_LO) v { m with lowHold := m.lowHold.del HOST_REF_LO }
    else if off = RAS_RING_HEAD then effRingHead v m
    else if off = RAS_CTRL then (m.plainWrite off v).flushLost
    else if off = RAS_MORAINE_CTRL then whenBit v 0 effMoraineRemove m
    else if 0x8_0200 ≤ off ∧ off < 0x8_03A0 ∧ off % 0x20 = 0 then
      each [4, 8, 0xC, 0x10] (m.plainWrite off v) (fun m k => m.setReg (off + k) 0)
    else if off = PWR_CAP then effPwrCap (bits v 0 13) m
    else if off = PWR_PEAK then effPwrPeak (bits v 0 13) m
    else if 0xC_0000 ≤ off ∧ off < 0xE_0000 then m.writeSec off v f
    else if 0xE_0000 ≤ off ∧ off < 0xF_0000 then m.writeRst off v
    else if 0xF_0000 ≤ off ∧ off < 0x10_0000 then m.writeNvj off v f
    else if 0x20_0000 ≤ off ∧ off < 0x31_0000 ∧ off % 0x1_0000 = 0x18 then m.writeLinkCtrl ((off - 0x20_0000) / 0x1_0000) v
    else if 0x40_0000 ≤ off ∧ off < 0x50_0000 then m.writeMem off v
    else if 0x80_0000 ≤ off ∧ off < 0xC0_0000 ∧ off % 0x1000 = 0xC then m.writeCoreCtrl ((off - 0x80_0000) / 0x1000) v
    else if 0xC0_0000 ≤ off ∧ off < 0xC4_0000 ∧ off % 0x1000 = 0xC then whenBit v 0 (effInjTcm ((off - 0xC0_0000) / 0x1000)) m
    else if 0x100_1000 ≤ off ∧ off < 0x100_1000 + 512 * 16 then
      let k := (off - 0x100_1000) / 16
      if off % 16 = 8 then effSeqPoolWrite k true v m
      else if off % 16 = 0 then { m with lowHold := m.lowHold.put off (BitVec.ofNat 32 v) }
      else if off % 16 = 4 then
        let lo := match m.lowHold.get? (off - 4) with | some w => w.toNat | none => m.reg (off - 4)
        effSeqPoolWrite k false (lo + 2 ^ 32 * (v % 2 ^ 32)) { m with lowHold := m.lowHold.del (off - 4) }
      else m
    else m.plainWrite off v

/-! ### VF BAR0 and the MSI-X tables -/

/-- A write to the MSI-X table of a function: entry `e` of 16 bytes, word `w`; bit 0 of the last word is the mask. -/
def Module.writeMsix (m : Module) (fn e w v : Nat) : Module :=
  if w ≠ 3 then m.setReg ((if fn = 0 then 65 else fn) * 2 ^ 32 + 0xE_0000 + e * 16 + w * 4) v
  else if bit v 0 then { m with unmasked := m.unmasked.filter (· != (fn, e)) }
  else effMsixUnmask fn (.vector e) m

/-- A write of a register in VF BAR0. -/
def Module.writeVf (m : Module) (vf off v : Nat) : Module :=
  if off = 0xD_0000 then whenBit v 1 (effVfMboxInAck vf) (whenBit v 0 (effVfMboxSend vf) m)
  else m.plainWrite (vf * 2 ^ 32 + off) v

/-- A write of a doorbell slot: its value and its upper word (R353). -/
def effDoorbell (fn slot value hi : Nat) (m : Module) : Module :=
  let upper := bits hi 0 30
  match bits hi 30 2 with
  | 0 => effTail fn slot value upper m
  | 1 => effRef fn slot value upper m
  | 2 => effUnref fn slot value upper m
  | _ => effAbort fn slot value upper m

/-- A write to the doorbell pages or the queue controls of a function, whose registers lie in `space` (R336, R353, R355): the low
word of a slot waits for the high word, which rings the doorbell (R8). -/
def Module.writeSlot (m : Module) (space fn off v : Nat) : Module :=
  let at_ := space * 2 ^ 32 + off
  if off < 0x8_0000 then
    (if off % 8 = 0 then { m with lowHold := m.lowHold.put at_ (BitVec.ofNat 32 v) }
     else effDoorbell fn (off / 8) (m.heldLow (at_ - 4)) v { m with lowHold := m.lowHold.del (at_ - 4) })
  else effQcHead fn ((off - 0x8_0000) / 4) v m

/-- A 32-bit write in a space: 0 is PF BAR0, 1 to 64 are the BAR0s of the VFs, 65 is PF BAR2, which is laid out as one. -/
def Module.writeWord (m : Module) (space off v : Nat) (f : WriteFacts) : Module :=
  if space = 0 then m.writeReg off v f
  else
    let fn := if space = 65 then 0 else space
    if space > 65 || (space < 65 && !m.vfThere space) then m
    else if off < 0xC_0000 then m.writeSlot space fn off v
    else if 0xE_0000 ≤ off ∧ off < 0xE_8000 then m.writeMsix fn ((off - 0xE_0000) / 16) (off % 16 / 4) v
    else if space = 65 then m
    else m.writeVf space off v

/-- A word of the MSI-X table or of the Pending Bit Array of a function. -/
def Module.readMsix (m : Module) (fn rel : Nat) : Nat :=
  let bitsOf (l : List (Nat × Nat)) (v : Nat) : Nat :=
    (List.range 32).foldl (fun a i => if l.contains (fn, v + i) then a + 2 ^ i else a) 0
  if rel < 0x8000 then
    (if rel % 16 = 12 then b2n (!m.unmasked.contains (fn, rel / 16)) else m.reg ((if fn = 0 then 65 else fn) * 2 ^ 32 + 0xE_0000 + rel))
  else if rel < 0x8100 then bitsOf m.msixPend ((rel - 0x8000) * 8)
  else 0

/-- A 32-bit read in a space. A VF that no partition names reads all its registers as zero (R334). -/
def Module.readWord32 (m : Module) (space off : Nat) : Module × Nat :=
  if space = 0 then m.readReg off
  else
    let fn := if space = 65 then 0 else space
    if space > 65 || (space < 65 && !m.vfThere space) then (m, 0)
    else if 0x8_0000 ≤ off ∧ off < 0xC_0000 then
      (m, SMap.get (fun _ => 0) m.obj.qcHead (fn * 2 ^ 16 + (off - 0x8_0000) / 4))
    else if 0xE_0000 ≤ off then (m, m.readMsix fn (off - 0xE_0000))
    else if space = 65 then (m, 0)
    else m.readReg (space * 2 ^ 32 + off)

/-- An access of `len` bytes to the registers of a space. Aligned accesses of 32 and of 64 bits are performed, the latter as its
two words, low word first; any other one reads zero, and writes nothing (R8). Without a Secure stream a confidential VF's writes
are discarded and its reads return Unsupported Request (R343); on a stream that failed every access is discarded (R344). -/
def effRegisterWrite (space off len : Nat) (write : Bool) (value : Nat) (f : WriteFacts) (m : Module) : Module :=
  let lo := value % 2 ^ 32
  let fn := if space = 65 then 0 else space
  if !m.trafficOk fn then (if write || !m.fnConf fn then m.dropTlp fn else (m.dropTlp fn).emit (.response 1 []))
  else if write then
    if len = 4 && off % 4 = 0 then m.writeWord space off lo f
    else if len = 8 && off % 8 = 0 then (m.writeWord space off lo f).writeWord space (off + 4) (value / 2 ^ 32 % 2 ^ 32) f
    else m
  else if len = 4 && off % 4 = 0 then
    let (m, v) := m.readWord32 space off
    m.emit (.response 0 (leBytes 4 v))
  else if len = 8 && off % 8 = 0 then
    let (m, v) := m.readWord32 space off
    let (m, w) := m.readWord32 space (off + 4)
    m.emit (.response 0 (leBytes 4 v ++ leBytes 4 w))
  else m.emit (.response 0 (zeros len))

end Sys2Proof.Machine
end

