-- ==== Sys2Proof/Machine/Mgmt.lean ====
section
/-!
DEFINITION. The management controller (R410, R479, R486 to R489, R498), journal commits (R470, R476), and a twin's reset
request (R326).
-/
namespace Sys2Proof.Machine

/-! ### Journal commits (R470, R476) -/

/-- What a record's caller does once the record is committed. -/
def Module.recCommitted (m : Module) (ty : Nat) (p : List Byte) : Module :=
  if ty = jMORAINE_ADD then
    m.setRas (fun r => { r with moraine := r.moraine.map (fun e =>
      if e.unitType = fieldOf p 0 1 ∧ e.unit = fieldOf p 2 2 then { e with saved := true } else e) })
  else if ty = jMORAINE_REMOVE then m.removeCommitted p
  else if ty = jLCS_STEP then m.lcsCommitted p
  else if ty = jHSS_RESERVE then m.hssCommitted p
  else if ty = jEPOCH_RESERVE then m.epochCommitted p
  else if ty = jPROFILE_CLEAR then m.setComp (fun c => { c with profiles := c.profiles.del (fieldOf p 0 1) })
  else if ty = jSLOT_STATE then m.slotCommitted p
  else if ty = jDIMM then m.dimmCommitted p
  else m

/-- What a record's caller does when the commit fails. -/
def Module.recFailed (m : Module) (ty : Nat) (p : List Byte) : Module :=
  if ty = jMORAINE_ADD then m.raise RAS_EVENT_moraine_unsaved
  else if ty = jMORAINE_REMOVE then
    let m := m.raise RAS_EVENT_moraine_unsaved
    (match m.nvj.ddr with | some j => if fieldOf p 0 1 = 4 && fieldOf p 2 2 = j.ch then m.ddrRecordFailed else m | none => m)
  else if ty = jDIMM then m.ddrRecordFailed
  else if ty = jLCS_STEP then m.lcsFailed p
  else if ty = jHSS_RESERVE then m.hssFailed
  else if ty = jPROFILE_DATA ∨ ty = jPROFILE_COMMIT then m.profileFailed (fieldOf p 0 1) (fieldOf p 1 1)
  else m

/-- The record being written is committed, or its commit fails; then a compaction begins if 12 MiB are used. -/
def effJournalCommit (m : Module) : Module :=
  if !m.programOn then m
  else match m.nvj.front with
    | none => m
    | some p =>
      match m.nvj.ending with
      | .notYet => m
      | .committed => (((m.setNvj (fun j => j.put true)).recCommitted p.ty p.payload).setNvj (fun j => j.compactStart.suspend)).nvjShow
      | .failed =>
        let m := ((m.setNvj (fun j => j.put false)).raise NVJ_EVENT_write_fail).recFailed p.ty p.payload
        (m.setNvj (fun j => j.compactStart.suspend)).nvjShow

/-! ### Management commands (R487, R488) -/

def mgOK : Nat := 0
def mgBAD_REQUEST : Nat := 1
def mgNOT_READY : Nat := 2
def mgREFUSED_CONF : Nat := 3
def mgLOCKED : Nat := 4
def mgRANGE : Nat := 5
def mgFAILED : Nat := 6

/-- The result of a command: the module, the status, and the body of the response. -/
structure MgmtOut where
  m : Module
  status : Nat
  body : List Byte
  deriving DecidableEq, Repr

def mgOut (m : Module) (status : Nat) : MgmtOut := { m := m, status := status, body := [] }

/-- Does a register belong to a unit or space of a confidential partition (R434)? -/
def Module.regConf (m : Module) (off : Nat) : Bool :=
  if 0x80_0000 ≤ off ∧ off < 0xC0_0000 then
    (match corePart m.recs ((off - 0x80_0000) / 0x1000) with | some p => m.conf p | none => false)
  else if 0xC0_0000 ≤ off ∧ off < 0xC4_0000 then m.stwConf ((off - 0xC0_0000) / 0x1000)
  else if 0x40_0000 ≤ off ∧ off < 0x50_0000 then
    let d := (off - 0x40_0000) / 0x4_0000
    let rel := off % 0x4_0000
    if 0x1000 ≤ rel ∧ rel < 0x2000 then m.chanConf (chanNo d ((rel - 0x1000) / 8))
    else if 0x4000 ≤ rel ∧ rel < 0x5000 then m.chanConf (chanNo d ((rel - 0x4000) / 8))
    else if 0x1_0000 ≤ rel then m.chanConf (chanNo d ((rel - 0x1_0000) / 0x40))
    else false
  else if 0x100_1000 ≤ off ∧ off < 0x100_3000 then m.conf ((off - 0x100_1000) / 16 / 2 % 64)
  else false

/-- Size of PF BAR0 (R336). -/
def bar0Size : Nat := 0x400_0000

/-- Check a BAR0 offset: a status other than OK stops the command. -/
def Module.regCheck (m : Module) (off : Nat) : Nat :=
  if off ≥ bar0Size then mgRANGE
  else if m.regConf off then mgREFUSED_CONF
  else mgOK

/-- Does a range lie in the local offset map: memory of one channel, or one plate or TCM? -/
def offsetKnown (off n : Nat) : Bool :=
  unitWithin off n ||
  (match locate off, locate (off + n - 1) with
   | .hbm _ _, .hbm _ _ => true
   | .ddr _ _, .ddr _ _ => true
   | _, _ => false)

/-- Is any line of a range confidential? -/
def Module.rangeConf (m : Module) (off n : Nat) : Bool := (linesOf off n).any m.lineConf

/-- MEM_READ and MEM_WRITE: device memory, plates and TCM. -/
def Module.mgmtMem (m : Module) (write : Bool) (off n : Nat) (data : List Byte) : MgmtOut :=
  if n = 0 ∨ n > 1024 then mgOut m mgBAD_REQUEST
  else if !offsetKnown off n then mgOut m mgRANGE
  -- device memory comes up in step 7, plates and TCM in step 8
  else if m.rst.stepNo ≤ (if unitWithin off n then 8 else 7) then mgOut m mgNOT_READY
  else if unitWithin off n then
    match m.unitOpen off with
    | (false, true) => mgOut m.confRefused mgREFUSED_CONF
    | (false, false) => mgOut m mgRANGE
    | (true, _) => if write then mgOut (m.unitStore off data) mgOK else { m := m, status := mgOK, body := m.unitBytes off n }
  else if m.rangeConf off n then mgOut m.confRefused mgREFUSED_CONF
  else
    let owner := match locate off with
      | .hbm g _ => hbmOwner m.recs g
      | .ddr c o => ddrOwner m.recs c (o / gibSize)
      | _ => none
    let p := owner.getD 0xFF
    if write then
      (match m.memWrite p off data with
       | (m, .ok) => mgOut m mgOK
       | (m, .refused) => mgOut m mgFAILED
       | (m, .uncorrectable _) => mgOut m.actSystem mgFAILED)
    else
      (match m.memRead p off n with
       | (m, .ok, bs) => { m := m, status := mgOK, body := bs }
       | (m, .refused, _) => mgOut m mgFAILED
       | (m, .uncorrectable _, _) => mgOut m.actSystem mgFAILED)

/-- TOKEN: checked as a token in LCS_TOKEN_BUF; the response is LCS_RESULT. -/
def Module.mgmtToken (m : Module) (bytes : List Byte) (ecdsa hss : Bool) : MgmtOut :=
  if bytes.length ≠ 5888 then mgOut m mgBAD_REQUEST
  else
    let m := m.takeToken bytes ecdsa hss
    { m := m, status := mgOK, body := leBytes 4 (m.reg LCS_RESULT) }

/-- The register of a hart that a debug command names. -/
def Hart.debugReg (t : Hart) (r : Nat) : Nat :=
  if r = 96 then t.pc
  else if r < 32 then SMap.get (fun _ => 0) t.x r
  else if r < 64 then SMap.get (fun _ => 0) t.f (r - 32)
  else SMap.get (fun _ => 0) t.v (r - 64)

/-- DEBUG: an abstract command on a steward core, while a debug unlock is in force (R450). -/
def Module.mgmtDebug (m : Module) (s : Nat) (c : DebugCmd) : MgmtOut :=
  if s ≥ 64 then mgOut m mgBAD_REQUEST
  else if m.rst.stepNo ≤ 8 then mgOut m mgNOT_READY
  else if !m.debugUnlocked then mgOut m mgLOCKED
  else if m.stwConf s then mgOut m.confRefused mgREFUSED_CONF
  else match c with
    | .readReg h r =>
      if h < 16 && r ≤ 96 then { m := m, status := mgOK, body := leBytes 64 ((m.hart s h).debugReg r) } else mgOut m mgBAD_REQUEST
    | .writeReg h r v =>
      if !(h < 16 && r ≤ 96) then mgOut m mgBAD_REQUEST
      else mgOut (m.modHart s h (fun t => if r = 96 then { t with pc := v % 2 ^ 64 } else t.setReg r v)) mgOK
    | .readMem off len => m.mgmtMem false off len []
    | .writeMem off data => m.mgmtMem true off data.length data

/-- TRACE_READ: bytes of core trace, whose contents the chapters do not give. -/
def Module.mgmtTrace (m : Module) (core len : Nat) : MgmtOut :=
  if core ≥ 1024 ∨ len = 0 ∨ len > 1024 then mgOut m mgBAD_REQUEST
  else if m.rst.stepNo ≤ 8 then mgOut m mgNOT_READY
  else if !m.debugUnlocked then mgOut m mgLOCKED
  else
    let (m, bs) := m.freeBytes len
    { m := m, status := mgOK, body := bs }

/-- SET_PROFILE: the profile of the next reset, or an emptied profile. -/
def Module.mgmtProfile (m : Module) (k : Nat) (clear : Bool) : MgmtOut :=
  if k > 3 then mgOut m mgBAD_REQUEST
  else if clear then mgOut (m.jWrite jPROFILE_CLEAR (leBytes 1 k ++ zeros 7)) mgOK
  else
    let m := (m.setFld COMP_PROFILE_next k).setFld COMP_PROFILE_next_en 1
    mgOut (m.jWrite jBOOT_SETTINGS m.bootRecord) mgOK

/-- Has bring-up halted (R462)? -/
def Module.halted (m : Module) : Bool := m.flag RST_BRINGUP_halted

/-- WRITE_SLOT: a slot not in use, or any slot while bring-up is halted; the write at offset 0 erases the slot, and the
last one has it checked (R477, R479). -/
def Module.mgmtSlot (m : Module) (part slot off : Nat) (data : List Byte) (last ecdsa hss : Bool) : MgmtOut :=
  if part > 3 ∨ slot > 1 ∨ data.length > 1024 then mgOut m mgBAD_REQUEST
  else if off + data.length > fwSize part then mgOut m mgRANGE
  else if !m.halted && m.fld (NVJ_FW_STATE_in_use part) == slot || !m.flashFree then mgOut m mgFAILED
  else
    let m := if off = 0 then m.fwErase part slot else m
    let m := m.fwWrite part slot off data
    if !last then mgOut m mgOK
    else
      let (m, ok) := m.fwVerify part slot ecdsa hss
      mgOut m (if ok then mgOK else mgFAILED)

/-- FORMAT_JOURNAL: both halves erased, fresh superblocks of generation 1. -/
def Module.mgmtFormat (m : Module) : MgmtOut :=
  if !m.flashFree then mgOut m mgFAILED
  else
    let m := m.setNvj (fun j => { j with
      sbs := [superBytes 0 1, superBytes 0 1], halves := [[], []], queue := [], prog := none, compact := 0, mark := 0, copied := 0, suspended := false })
    mgOut m.nvjShow mgOK

/-- What a command does. -/
def Module.mgmtServe (m : Module) (c : MgmtCmd) : MgmtOut :=
  match c with
  | .getStatus => { m := m, status := mgOK, body := leBytes 4 (m.regShows RST_BRINGUP) ++ leBytes 4 (m.regShows LCS_STATE) ++ leBytes 4 (m.regShows NVJ_STATUS) }
  | .readReg off =>
    let st := m.regCheck off
    if st = mgREFUSED_CONF then mgOut m.confRefused st
    else if st ≠ mgOK then mgOut m st
    -- an access that is not aligned reads zero and writes nothing (R8)
    else if off % 4 ≠ 0 then { m := m, status := mgOK, body := zeros 4 }
    else let (m, v) := m.readReg off; { m := m, status := mgOK, body := leBytes 4 v }
  | .writeReg off v f =>
    let st := m.regCheck off
    if st = mgREFUSED_CONF then mgOut m.confRefused st
    else if st ≠ mgOK then mgOut m st
    -- a write of LCS_CTRL.go is accepted from PF BAR0 alone (R444)
    else mgOut (if off % 4 = 0 then m.writeReg off (if off = LCS_CTRL then v % 2 ^ 32 / 2 * 2 else v % 2 ^ 32) f else m) mgOK
  | .memRead off len => m.mgmtMem false off len []
  | .memWrite off data => m.mgmtMem true off data.length data
  | .reset => mgOut (m.source 9) mgOK
  | .token b e h => m.mgmtToken b e h
  | .debug s d => m.mgmtDebug s d
  | .traceRead core len => m.mgmtTrace core len
  | .setProfile k clear => m.mgmtProfile k clear
  | .writeSlot part slot off data last e h => m.mgmtSlot part slot off data last e h
  | .formatJournal => m.mgmtFormat
  | .bad _ => mgOut m mgBAD_REQUEST
  | .response => mgOut m mgOK

/-- Does the ROM responder serve a command (R487)? One that is unknown is answered BAD_REQUEST by either. -/
def MgmtCmd.rom : MgmtCmd → Bool
  | .getStatus => true
  | .reset => true
  | .writeSlot .. => true
  | .formatJournal => true
  | .bad _ => true
  | _ => false

/-- Serve a command: before the management firmware runs, only those of the ROM responder; while it restarts, none answers
(R480). -/
def Module.mgmtTake (m : Module) (c : MgmtCmd) : Option MgmtOut :=
  if m.mgmtUp then some (m.mgmtServe c)
  else if m.rst.stepNo > 5 then none
  else if c.rom then some (m.mgmtServe c)
  else some (mgOut m mgNOT_READY)

def MgmtCmd.code : MgmtCmd → Nat
  | .getStatus => 1 | .readReg _ => 2 | .writeReg .. => 3 | .memRead .. => 4 | .memWrite .. => 5 | .reset => 6
  | .token .. => 7 | .debug .. => 8 | .traceRead .. => 9 | .setProfile .. => 10 | .writeSlot .. => 11 | .formatJournal => 12
  | .bad k => k | .response => 0

/-- The bytes of a response (R487): the command code with 0x80 added, the tag, the status, a reserved byte, and the body. -/
def MgmtCmd.answer (c : MgmtCmd) (tag : Nat) (o : MgmtOut) : List Byte :=
  leBytes 1 (c.code + 0x80) ++ leBytes 1 tag ++ leBytes 1 o.status ++ zeros 1 ++ o.body

/-- A command over I3C or PCIe VDM, with its tag. -/
def effMgmt (tag : Nat) (c : MgmtCmd) (m : Module) : Module :=
  match m.mgmtTake c with
  | some o => o.m.emit (.response o.status (c.answer tag o))
  | none => m

/-- Is a command refused when another module sends it (R489)? -/
def MgmtCmd.localOnly : MgmtCmd → Bool
  | .token .. => true
  | .debug .. => true
  | .traceRead .. => true
  | _ => false

/-- A MGMT CTRL message from module `src`: a command with its tag, or a response. -/
def effMgmtCtrl (src tag : Nat) (c : MgmtCmd) (m : Module) : Module :=
  let m := m.takeInbox ctrlMGMT
  match c with
  | .response => m
  | _ =>
    match m.mgmtTake (if c.localOnly then .bad c.code else c) with
    | none => m
    | some o => o.m.sendCtrl src ctrlMGMT (leBytes 2 o.m.selfId ++ zeros 2 ++ c.answer tag o)

/-! ### PLDM Type 2 (R486) -/

def pldmOK : Nat := 0
def pldmERROR : Nat := 1
def pldmINVALID_DATA : Nat := 2
def pldmINVALID_ID : Nat := 0x80
def pldmINVALID_STATE : Nat := 0x84

/-- Answer a PLDM request while the management firmware runs. -/
def Module.pldm (m : Module) (f : Module → Module) : Module := if m.mgmtUp then f m else m

/-- SetNumericEffecterValue: the management power cap. -/
def effSetEffecter (id value : Nat) (m : Module) : Module :=
  m.pldm (fun m =>
    if id ≠ 0x80 then m.emit (.response pldmINVALID_ID [])
    else if inRange value 2000 5000 then (m.setPwr (fun p => { p with mgmtCap := value })).emit (.response pldmOK [])
    else m.emit (.response pldmINVALID_DATA []))

/-- The value of a numeric sensor, and its warning and critical thresholds where it has them. -/
def Module.sensor (m : Module) (id : Nat) : Option (Nat × List Nat) :=
  if id = 1 then some (m.fld PWR_INPUT_W_now, [])
  else if id = 2 then some (m.fld PWR_INPUT_volts, [])
  else if id = 3 then some (m.fld PWR_INPUT_amps, [])
  else if 0x10 ≤ id ∧ id ≤ 0x1D then
    some (m.fld (PWR_TEMP_temp (id - 0x10)), [m.fld PWR_THERM_warn_c, m.fld PWR_THERM_throttle_c])
  else none

/-- State of a reading against its thresholds: 0 normal, 1 warning, 2 critical. -/
def sensorState (v : Nat) (th : List Nat) : Nat := (th.filter (fun t => t ≤ v)).length

def effGetSensor (id : Nat) (m : Module) : Module :=
  m.pldm (fun m => match m.sensor id with
    | some (v, th) => m.emit (.response pldmOK (leBytes 1 (sensorState v th) ++ leBytes 2 v))
    | none => m.emit (.response pldmINVALID_ID []))

def effGetStateSensor (id : Nat) (m : Module) : Module :=
  m.pldm (fun m =>
    if id = 0x30 then m.emit (.response pldmOK (leBytes 1 m.lcState))
    else if id = 0x31 then m.emit (.response pldmOK (leBytes 1 (m.fld RST_BRINGUP_step)))
    else m.emit (.response pldmINVALID_ID []))

/-! ### PLDM Type 5 (R479) -/

def Module.setMgmt (m : Module) (f : Mgmt → Mgmt) : Module := { m with mgmt := f m.mgmt }

/-- The slot of a part that is not in use. -/
def Module.spareSlot (m : Module) (part : Nat) : Nat := 1 - m.fld (NVJ_FW_STATE_in_use part)

/-- A request taken only in one state of the update. -/
def Module.pldmAt (m : Module) (st : Nat) (f : Module → Module) : Module :=
  m.pldm (fun m => if m.mgmt.update = st then f m else m.emit (.response pldmINVALID_STATE []))

def effRequestUpdate (m : Module) : Module :=
  m.pldmAt 0 (fun m => (m.setMgmt (fun g => { g with update := 1, part := 0, parts := [] })).emit (.response pldmOK []))

/-- PassComponentTable, with the component identifiers. -/
def effPassComponentTable (ids : List Nat) (m : Module) : Module :=
  m.pldmAt 1 (fun m =>
    if ids.all (fun i => inRange i 1 4) then (m.setMgmt (fun g => { g with update := 2 })).emit (.response pldmOK [])
    else m.emit (.response pldmINVALID_DATA []))

/-- UpdateComponent: the slot of the part that is not in use is erased to be written. An erase that may not begin (R455,
R456) is answered ERROR and nothing changes. -/
def effUpdateComponent (id : Nat) (m : Module) : Module :=
  m.pldmAt 2 (fun m =>
    if !inRange id 1 4 then m.emit (.response pldmINVALID_DATA [])
    else if !m.flashFree then m.emit (.response pldmERROR [])
    else
      let slot := m.spareSlot (id - 1)
      let m := m.setMgmt (fun g => { g with update := 3, part := id - 1, slot := slot })
      (m.fwErase (id - 1) slot).emit (.response pldmOK []))

/-- The slot that an update erased is still not in use, so it may be written, checked and activated (R479). -/
def Module.spare (m : Module) (part slot : Nat) : Bool := slot == m.spareSlot part

/-- TransferComplete: the component's bytes are in the slot, which is checked with the verdicts of its two signatures. A
slot that is in use by then ends the component, and a program that may not begin leaves it to be sent again (log entry
87). -/
def effTransferComplete (data : List Byte) (ecdsa hss : Bool) (m : Module) : Module :=
  m.pldmAt 3 (fun m =>
    let part := m.mgmt.part
    let slot := m.mgmt.slot
    if !m.spare part slot then
      (m.setMgmt (fun g => { g with update := 2 })).emit (.response pldmERROR [])
    else if !m.flashFree then m.emit (.response pldmERROR [])
    else
      let m := m.fwWrite part slot 0 (data.take (fwSize part))
      let (m, _) := m.fwVerify part slot ecdsa hss
      (m.setMgmt (fun g => { g with update := 4 })).emit (.response pldmOK []))

/-- VerifyComplete: the result of that check. -/
def effVerifyComplete (m : Module) : Module :=
  m.pldmAt 4 (fun m =>
    let ok := m.spare m.mgmt.part m.mgmt.slot && m.fwValid m.mgmt.part m.mgmt.slot
    (m.setMgmt (fun g => { g with update := if ok then 5 else 2 })).emit (.response (if ok then pldmOK else pldmERROR) []))

/-- ApplyComplete: the part waits for activation. -/
def effApplyComplete (m : Module) : Module :=
  m.pldmAt 5 (fun m => (m.setMgmt (fun g => { g with update := 2, parts := insertU g.parts g.part })).emit (.response pldmOK []))

/-- ActivateFirmware: an activation record for every part applied; `selfContained` asks for activation at once, which only
part 0 has. The slots are checked with the verdicts given by part. -/
def effActivateFirmware (selfContained : Bool) (sigs : List (Nat × Bool × Bool)) (m : Module) : Module :=
  m.pldmAt 2 (fun m =>
    if m.mgmt.parts.isEmpty then m.emit (.response pldmINVALID_STATE [])
    else if selfContained && m.mgmt.parts.any (· != 0) then m.emit (.response pldmERROR [])
    else
      let m := each m.mgmt.parts m (fun m p =>
        let v := match sigs.find? (fun e => e.1 == p) with | some e => e.2 | none => (false, false)
        effFwActivate p (m.spareSlot p) v.1 v.2 m)
      (m.setMgmt (fun g => { g with update := 0, parts := [] })).emit (.response pldmOK []))

/-! ### I3C and MCTP control (R486, R498) -/

/-- ENTDAA gives the controller a dynamic address; it answers with its Provisional ID, of the random-value type but for
SLOT_ID (log entry 52). -/
def effEntdaa (addr : Nat) (m : Module) : Module :=
  if m.mgmt.i3cAddr ≠ 0 then m
  else
    let r := Config.freeNat m.free 0
    -- bits [47:33] are the manufacturer's, bit 32 is 1 in random-value mode, bits [31:6] are random
    let pid := Config.fixedNat 3 0 % 2 ^ 15 * 2 ^ 33 + 2 ^ 32 + r % 2 ^ 26 * 64 + m.pins.slotId % 64
    ({ m with free := m.free + 1 }.setMgmt (fun g => { g with i3cAddr := addr % 128 })).emit (.response 0 (leBytes 6 pid))

/-- An MCTP control message: command code and its request data (log entry 52 for the codes). -/
def effMctpControl (cmd : Nat) (data : List Byte) (m : Module) : Module :=
  if m.rst.stepNo > 5 && !m.mgmtUp then m
  else
    let eid := fieldOf data 1 1
    if cmd = 1 then
      if inRange eid 8 254 then (m.setMgmt (fun g => { g with eid := eid })).emit (.response 0 [0, BitVec.ofNat 8 eid, 0])
      else m.emit (.response 2 [])
    else if cmd = 2 then m.emit (.response 0 [BitVec.ofNat 8 m.mgmt.eid, 0, 0])
    else if cmd = 5 then
      m.emit (.response 0 (if m.rst.stepNo > 5 then [5, 0, 1, 5, 6, 0x7E] else [2, 0, 0x7E]))
    else m.emit (.response 5 [])

/-! ### A twin's reset request (R326) -/

/-- RESET_REQ is acted on only by a PAIRED module whose own latest verdict names it faulty. -/
def effResetReq (m : Module) : Module :=
  let m := m.twinHeard
  if m.twin.state == tsPAIRED && m.twin.faulty then m.source 7 else m.twinBad

end Sys2Proof.Machine
end

