-- ==== Sys2Proof/Machine/Frame.lean ====
section
/-!
DEFINITION. The shutter window and the shutter edge (R14, R27 to R31): the steps of the window in their order, the end of
the pick-up, and the edge that puts every change in force.
-/
namespace Sys2Proof.Machine

/-- Do frames run: the tick runs from step 9 of the release order on, and stops in reset (R42, R460)? -/
def Module.framesRun (m : Module) : Bool := !m.rst.inReset && m.rst.stepNo ≥ 9

/-- Set the time into the frame, which does not go back. -/
def Module.atNs (m : Module) (ns : Nat) : Module := m.setTick (fun t => { t with ns := max t.ns ns })

/-! ### The window (R27) -/

/-- Step 1: admission closes, running tiles are aborted, and the contact prints of the frame are taken. -/
def Module.windowStep1 (m : Module) : Module :=
  ((m.atNs m.windowNs).sealTails).closeAdmission.takePrints

/-- Step 3: functions under reset, plate and system errors, contexts and sequences found lost, and the judgement of every
unit. `bad` lists the units whose read-back fails (R381, R382). -/
def Module.windowStep3 (m : Module) (bad : List Nat) : Module :=
  let m := ((m.flrWindow).plateErrors bad).actSystem
  let m := m.markFound.loseFoundSeqs.stopLostHarts
  ((m.stewardReload bad).cutDies).judge

/-- Step 5: releases and invalidations. -/
def Module.windowStep5 (m : Module) : Module := m.decideRelease.flrInvals.applyInvals

/-- Step 8, first part: retries, carry-overs, restored tiles of a takeover, steward entries, and agreed tiles (R29, R30). -/
def Module.windowStep8 (m : Module) : Module := m.takeOld.restoreTiles.intake.takeAgreed

/-- Up to `n` commands are picked up in the order of the rotation (R30, R360). -/
def Module.pickUpTo : Nat → Module → Module
  | 0, m => m
  | n + 1, m => Module.pickUpTo n (m.pickOne (fun _ => true))

/-- The window opens: steps 1 to 6, the first part of step 8, and up to `visits` pick-ups of step 7. DESIGN CHOICE (log entry
68): blocks at different clocks open at different instants, and the module's steps begin when the last of them has opened. -/
def effShutterWindow (visits : Nat) (bad : List Nat) (m : Module) : Module :=
  if !m.framesRun || m.tick.phase != .open_ then m
  else
    let m := m.agree.windowStep1.postCompletions
    let m := ((m.windowStep3 bad).twinStep).windowStep5.applyDeltas
    let m := m.windowStep8.setTick (fun t => { t with phase := .picking })
    Module.pickUpTo visits m

/-! ### The edge (R14) -/

/-- What takes effect at the edge on objects, sequences, leases and collectives. -/
def Module.edgeObjects (m : Module) : Module :=
  ((m.stewardBack.cmdsAtEdge.releaseAtEdge).loseTimelines).copiesAtEdge.leasesAtEdge.collFix

/-- What takes effect at the edge on the memory and the links. -/
def Module.edgeUnits (m : Module) : Module :=
  let m := m.linksEdge.seamsEdge.migsAtEdge.ddrEdge
  (m.setMem (fun s => { s with latFrame := [] })).slicesEnd

/-- The composition of step 6, retirements, resets of functions and units, measurements, and the twin. An image that comes
into force with no composition before it brings its TWIN section into force too (R284, R307). The error-log ring may have room under the new system carve-out (R392). -/
def Module.edgeCompose (m : Module) : Module :=
  let old := m.comp.oldRecs
  let was := m.comp.present
  let m := m.compEdge
  let m := match old with | some r => m.twinCompose r | none => if !was && m.comp.present then m.twinCompose [] else m
  m.stewardEdge.flrEdge.swEdge.measEdge.twinEdge.flushLost

/-- All of this in its order. A context that the edge itself marks LOST loses its timelines at the same edge (R370). -/
def Module.edgeAll (m : Module) : Module := m.edgeObjects.edgeUnits.edgeCompose.loseTimelines

/-- Step 7 stops 64 ac before the edge; SYNC and negatives follow. -/
def effCutoff (m : Module) : Module :=
  if m.tick.phase != .picking then m
  else
    let m := (effPickupCutoff m).loadLate.placeUnplaced.raiseVolts
    (Module.inStep8 m m.markXlat).twinCutoff Module.edgeAll

/-- The lists built in the window become the lists of the frame that begins. -/
def Module.edgeLists (m : Module) : Module :=
  let next := m.nextLists.map (fun t => { t with joined := m.mayJoin t })
  ({ m with lists := m.lists ++ next, nextLists := [] }).showHolds

/-- The shutter edge. Step 7 has stopped by then. The points of the next frame follow the composition that it brings (R401). -/
def effShutterEdge (m : Module) : Module :=
  if !m.framesRun || m.tick.phase == .open_ then m
  else
    let m := effCutoff m
    let us := periodNs m.recs / 1000
    ((m.edgeAll.powerEdge.edgeLists).tickEdge us).sendLeases

/-! ### Commands that wrap others -/

/-- Is the recalibration slice of an HBM stack, or of a port, due in this frame (R481)? A link takes its slice by the lower
module ID of its ends and that module's port; an Ethernet port by its own number. -/
def Module.sliceDue (m : Module) (port : Bool) (k : Nat) : Bool :=
  let x := m.sess k 0
  let at_ := if !port then 16 * k
    else if m.eth k then k
    else if x.peerMod < m.selfId then x.peerMod + x.peerPort else m.selfId + k
  if (List.range 64).any (fun b => windowAc m.recs < m.blockMHz (16 * b)) then m.F % 256 == 0 else m.F % 256 == at_ % 256

/-- The recalibration slice of an HBM stack or an UP port begins, 1 µs before the edge that ends it (R481). -/
def effRecalibration (port : Bool) (k : Nat) (m : Module) : Module :=
  if !m.framesRun || !m.sliceDue port k then m
  else if port then
    (if k ≤ 16 && m.portUp k then (m.atNs (periodNs m.recs - 1000)).modPort k (fun x => { x with recal := true }) else m)
  else if k < 16 then (m.atNs (periodNs m.recs - 1000)).setMem (fun s => { s with recal := insertU s.recal k })
  else m

/-- An uncorrectable buffer error of a port is logged and charged (R373, R377). -/
def Module.bufferError (m : Module) (p : Nat) : Module :=
  (m.logEvent clsPORT errBUFFER_UE 0 7 p none none 0).errEvent 11 p none false

/-- An error of a core ends the attempt that runs there; with none it is logged and charged. -/
def Module.coreError (m : Module) (c cause line : Nat) : Module :=
  let plate := cause = errPLATE_UE
  let m := if cause = errRESIDUE_MX then m.count (CORE_RESIDUE_mx_residue c) 1
    else if cause = errRESIDUE_VX then m.count (CORE_RESIDUE_vx_residue c) 1
    else if cause = errACC_PARITY then m.count (CORE_ACC_ERR_parity c) 1
    else if cause = errACC_RESIDUE then m.count (CORE_ACC_ERR_residue c) 1
    else if plate then m.count (CORE_PLATE_ECC_uncorrected c) 1 else m
  match m.running? c with
  | none =>
    let m := if plate then m.setRas (fun r => { r with plateUe := r.plateUe ++ [(c, line, false)] }) else m
    ((m.logEvent clsCORE cause 0 1 c none none 0).errEvent 0 c none false).noteCore c (if errRESIDUE_MX ≤ cause && cause ≤ errACC_RESIDUE then 1 else 2)
  | some _ =>
    let m := if plate then (m.setRas (fun r => { r with plateUe := r.plateUe ++ [(c, line, true)] })).modRun c
        (fun r => { r with tile := { r.tile with ueLine := some line } }) else m
    m.errEnd c cause

/-- The row of R377 that counts an event of a cause on a unit type; none for a cause that no history counts (R374). -/
def causeRow (cause ut : Nat) : Option Nat :=
  let row : Option Nat :=
    if cause ≤ errACC_RESIDUE ∨ cause = errPLATE_UE ∨ cause = errOPSTORE_UE then some 0
    else if cause = errPLATE_CE then some 1
    else if cause = errTCM_UE then some 2
    else if cause = errTCM_CE then some 3
    else if cause = errMEM_CE ∨ cause = errMEM_UE_REREAD_OK then some (if ut = 3 then 5 else 7)
    else if cause = errMEM_UE ∨ cause = errSCRUB_UE then some (if ut = 3 then 4 else 6)
    else if cause = errMAC_REREAD_OK then some 8
    else if cause = errMAC_FAIL then some 6
    else if cause = errLANE_CRC then some 9
    else if cause = errSEAM_CRC then some 10
    else if cause = errTRAIN_FAIL ∨ cause = errBUFFER_UE then some 11
    else none
  row.bind (fun r => if rowUnitType r = ut then some r else none)

/-- A detected event goes to its die's error log, or is lost when that log is full (R390), is charged to its unit, and has
the consequence that R373 gives its mechanism. -/
def effErrorLog (e : Detected) (m : Module) : Module :=
  match e with
  | .core c cause line => m.coreError c cause line
  | .plateCe c =>
    (((m.count (CORE_PLATE_ECC_corrected c) 1).logEvent clsCORE errPLATE_CE 0 1 c none none 0).errEvent 1 c none false).noteCore c 2
  | .replay p => effLinkRetrain p ((m.bufferError p).dropBuffers p)
  | .staging p id => (m.bufferError p).collAbort (collKey p id) caTRAILER
  | .other cls cause sub ut unit part ctx detail =>
    let m := m.logEvent cls cause sub ut unit part ctx detail
    match causeRow cause ut with
    | some row => m.errEvent row unit (if row = 4 ∨ row = 6 then some detail else none) false
    | none => m

end Sys2Proof.Machine
end

