-- ==== Sys2Proof/Machine/ExecCollective.lean ====
section
/-!
DEFINITION. The meanings of the commands of collectives (R241 to R260): each the effect of its rule on the module,
nothing else of the state changed.
-/
namespace Sys2Proof.Machine

/-- DEFINE: A 512-byte collective definition is read, checked and installed on its engine at the edge (R243). -/
def execCollDefine (s : State) : Host.Outcome State Fault Refusal := runOn s (effCollCmd 1)

/-- DESTROY: A collective is removed, aborting any run of it in progress with DESTROYED (R243). -/
def execCollDestroy (s : State) : Host.Outcome State Fault Refusal := runOn s (effCollCmd 2)

/-- CHUNK_RECEIVED: A chunk's last flit and trailer arrive, and it is combined, stored or queued, or aborts the run of it (R253). -/
def execChunkReceived (port entry src : Nat) (s : State) : Host.Outcome State Fault Refusal :=
  runOn s (effChunkReceived port entry src)

/-- INSTANCE_COMPLETE: An run of it writes its anchor sites and status record, then signals its timeline (R254). -/
def execInstanceComplete (port id : Nat) (s : State) : Host.Outcome State Fault Refusal :=
  runOn s (effInstanceComplete port id)

/-- COLL_TIMEOUT: timeout frames pass since the run of it began, and the run of it is aborted (R259). -/
def execCollTimeout (port id : Nat) (s : State) : Host.Outcome State Fault Refusal := runOn s (effCollTimeout port id)

/-- COLL_ABORT_RECEIVED: A COLL ABORT message aborts the named run of it or marks it aborted ahead (R259). -/
def execCollAbortReceived (src id inst : Nat) (s : State) : Host.Outcome State Fault Refusal :=
  runOn s (effCollAbortReceived src id inst)

end Sys2Proof.Machine
end

