-- ==== Sys2Proof/Machine/ExecFault.lean ====
section
/-!
DEFINITION. The meanings of the commands of faults, logs and the damper (R373 to R396): each the effect of its rule on the module,
nothing else of the state changed.
-/
namespace Sys2Proof.Machine

/-- ERROR_LOG_RECORD: A detected event is written to its die's error log, or is lost when the log is full (R390). -/
def execErrorLogRecord (e : Detected) (s : State) : Host.Outcome State Fault Refusal := runOn s (effErrorLog e)

/-- LOG_DRAIN: A die log record is drained into the ring and RAS_RING_TAIL advances, or the record is lost (R392). -/
def execLogDrain (die : Nat) (s : State) : Host.Outcome State Fault Refusal := runOn s (effLogDrain die)

/-- RING_HEAD_WRITE: Software reports consumed records, and LOST records are written once the ring has room (R392). -/
def execRingHeadWrite (v : Nat) (s : State) : Host.Outcome State Fault Refusal := runOn s (effRingHead v)

/-- HISTORY_WINDOW_CLOSE: A unit's error-history window expires and its count starts over (R375). -/
def execHistoryWindowClose (row unit : Nat) (s : State) : Host.Outcome State Fault Refusal :=
  runOn s (effHistoryClose row unit)

/-- MORAINE_REMOVE: The selected moraine entry is removed at the next edge, and its unit returns to service (R389). -/
def execMoraineRemove (s : State) : Host.Outcome State Fault Refusal := runOn s effMoraineRemove

/-- FAULT_REPORT_SEND: A reported event is sent as a FAULT message to the collector and passes through the local damper (R393). -/
def execFaultReportSend (s : State) : Host.Outcome State Fault Refusal := runOn s effFaultSend

/-- FAULT_REPORT_RECEIVED: A received FAULT report merges into an open damper entry, or opens one with a FIRST record (R394). -/
def execFaultReportReceived (cls cause ut unit subject frame reporter : Nat) (s : State) : Host.Outcome State Fault Refusal :=
  runOn s (effFaultReceived cls cause ut unit subject frame reporter)

/-- DAMPER_UPDATE: Every 16 frames after opening, an entry whose count changed writes an UPDATE record (R395). -/
def execDamperUpdate (cls ut unit subject : Nat) (s : State) : Host.Outcome State Fault Refusal :=
  runOn s (effDamperUpdate cls ut unit subject)

/-- DAMPER_ENTRY_CLOSE: After 255 frames an entry closes, writing FINAL when its count grew (R395). -/
def execDamperEntryClose (cls ut unit subject : Nat) (s : State) : Host.Outcome State Fault Refusal :=
  runOn s (effDamperClose cls ut unit subject)

/-- DAMPER_OVERFLOW_REPORT: Once in 16 frames an OVERFLOW record is written per class that found the damper full (R395). -/
def execDamperOverflowReport (s : State) : Host.Outcome State Fault Refusal := runOn s effDamperOverflow

end Sys2Proof.Machine
end

