-- ==== Sys2Proof/Machine/ExecFrame.lean ====
section
/-!
DEFINITION. The meanings of the commands of frames, tiles and the shutter (R6 to R43): each the effect of its rule on the module,
nothing else of the state changed.
-/
namespace Sys2Proof.Machine

/-- SHUTTER_WINDOW: The shutter window opens W ac before the edge on a block, and the module runs the fixed window steps 1 to 8 in order (R27). -/
def execShutterWindow (visits : Nat) (bad : List Nat) (s : State) : Host.Outcome State Fault Refusal :=
  runOn s (effShutterWindow visits bad)

/-- PICKUP_CUTOFF: Step 7 stops 64 ac before the edge, and commands it did not reach keep their doorbells (R30). -/
def execPickupCutoff (s : State) : Host.Outcome State Fault Refusal := runOn s effCutoff

/-- SHUTTER_EDGE: The frame number increments and every change made in window steps 3 to 8 comes into force (R14). -/
def execShutterEdge (s : State) : Host.Outcome State Fault Refusal := runOn s effShutterEdge

/-- TILE_READY: A listed tile's dependencies are met and the earlier tiles of its stream have started, so it becomes ready (R15). -/
def execTileReady (c ac : Nat) (s : State) : Host.Outcome State Fault Refusal := runOn s (effTileReady c ac)

/-- BUDGET_OVERRUN: A tile has used its declared count of counted cycles without reaching END, and it is aborted for retry (R23). -/
def execBudgetOverrun (c ac : Nat) (s : State) : Host.Outcome State Fault Refusal := runOn s (effBudgetOverrun c ac)

end Sys2Proof.Machine
end

