-- ==== Sys2Proof/Machine/ExecHost.lean ====
section
/-!
DEFINITION. The meanings of the commands of PCIe, doorbells and host commands (R329 to R372), and register writes (R8): each the effect of its rule on the module,
nothing else of the state changed.
-/
namespace Sys2Proof.Machine

/-- PCIE_LINK_CHANGE: The PCIe link changes speed or width, and link_change is set (R332). -/
def execPcieLinkChange (gen lanes : Nat) (s : State) : Host.Outcome State Fault Refusal :=
  runOn s (effPcieLink gen lanes)

/-- VF_ENABLE_WRITE: A write of VF Enable takes effect if ARI is set, and clearing it resets every VF (R335). -/
def execVfEnableWrite (en ari : Bool) (numVfs bar : Nat) (s : State) : Host.Outcome State Fault Refusal :=
  runOn s (effVfEnable en ari numVfs bar)

/-- VF_MBOX_SEND: A VF's message is copied to the PF side and signalled on PF vector 1, or ignored while busy (R340). -/
def execVfMboxSend (v : Nat) (s : State) : Host.Outcome State Fault Refusal := runOn s (tlp v (effVfMboxSend v))

/-- VF_MBOX_IN_ACK: The VF acknowledges its incoming message and clears in_full (R340). -/
def execVfMboxInAck (v : Nat) (s : State) : Host.Outcome State Fault Refusal := runOn s (tlp v (effVfMboxInAck v))

/-- PF_MBOX_ACK: The PF acknowledges the selected VF's message, clearing pending and out_busy (R340). -/
def execPfMboxAck (s : State) : Host.Outcome State Fault Refusal := runOn s (tlp 0 effPfMboxAck)

/-- PF_MBOX_SEND: The PF's reply goes to the selected VF and is signalled on VF vector 0, or is ignored while in_full (R340). -/
def execPfMboxSend (s : State) : Host.Outcome State Fault Refusal := runOn s (tlp 0 effPfMboxSend)

/-- WINDOW_ACCESS: A host read or write through PF BAR4 or VF BAR2 is checked and performed, or refused (R337). -/
def execWindowAccess (fn : Nat) (write : Bool) (off len : Nat) (data : List Byte) (s : State) : Host.Outcome State Fault Refusal :=
  runOn s (effWindowAccess fn write off len data)

/-- ATOMIC_OP_RECEIVED: An AtomicOp sent to the module completes with Unsupported Request (R330). -/
def execAtomicOpReceived (s : State) : Host.Outcome State Fault Refusal := runOn s (tlp 0 effAtomicOp)

/-- MSIX_UNMASK: Unmasking a vector with its pending bit set sends the message at once (R342). -/
def execMsixUnmask (fn : Nat) (w : MsixWrite) (s : State) : Host.Outcome State Fault Refusal :=
  runOn s (tlp fn (effMsixUnmask fn w))

/-- IDE_INSECURE: An IDE stream leaves the Secure state; its TLPs are discarded and confidential contexts are lost (R344). -/
def execIdeInsecure (stream : Nat) (s : State) : Host.Outcome State Fault Refusal := runOn s (effIdeInsecure stream)

/-- TAIL: A doorbell TAIL is accepted, marking entries QUEUED, or ignored when out of range (R354). -/
def execTail (fn slot v upper : Nat) (s : State) : Host.Outcome State Fault Refusal :=
  runOn s (tlp fn (effTail fn slot v upper))

/-- REF: The host count of the named object rises by 1, or the write is ignored (R366). -/
def execRef (fn slot value upper : Nat) (s : State) : Host.Outcome State Fault Refusal :=
  runOn s (tlp fn (effRef fn slot value upper))

/-- UNREF: The host count of the named object falls by 1, and at 0 the object becomes RELEASING (R367). -/
def execUnref (fn slot value upper : Nat) (s : State) : Host.Outcome State Fault Refusal :=
  runOn s (tlp fn (effUnref fn slot value upper))

/-- ABORT: An abort acts on the command's state word within 1 µs, setting ABORTED or queuing a reply (R363). -/
def execAbort (fn slot i upper : Nat) (s : State) : Host.Outcome State Fault Refusal :=
  runOn s (tlp fn (effAbort fn slot i upper))

/-- QC_HEAD: Software reports the completion records it has consumed, or the write is ignored (R355). -/
def execQcHead (fn slot v : Nat) (s : State) : Host.Outcome State Fault Refusal :=
  runOn s (tlp fn (effQcHead fn slot v))

/-- HOST_REF_WRITE: PF software applies REF or UNREF to any object of any partition (R366). -/
def execHostRefWrite (value upper : Nat) (s : State) : Host.Outcome State Fault Refusal :=
  runOn s (tlp 0 (effHostRef value upper))

/-- HOST_ENABLE: A write of HOST_CTRL.enable starts serving when the tables are valid, or sets bad_config (R348). -/
def execHostEnable (s : State) : Host.Outcome State Fault Refusal := runOn s (tlp 0 effHostEnable)

/-- HOST_LOCK: Setting lock makes HOST_CTRL and the table registers read-only until reset (R372). -/
def execHostLock (s : State) : Host.Outcome State Fault Refusal := runOn s (tlp 0 effHostLock)

/-- EXEC: An EXEC's tiles are read and checked at pick-up and joined to the lists, or the context is lost with BAD_OBJECT (R357). -/
def execExecCommand (s : State) : Host.Outcome State Fault Refusal := runOn s effExec

/-- SIGNAL_COMMAND: A SIGNAL command signals its timeline at the edge ending the frame of pick-up (R356). -/
def execSignalCommand (s : State) : Host.Outcome State Fault Refusal := runOn s effSignalCmd

/-- CREATE: An OBJ CREATE checks a source record and installs a context, queue, memory object or timeline at the edge (R358). -/
def execCreate (s : State) : Host.Outcome State Fault Refusal := runOn s effCreate

/-- MOVE_CTX: A context's device is changed at pick-up, and its tiles are placed for the new device (R358). -/
def execMoveCtx (s : State) : Host.Outcome State Fault Refusal := runOn s effMoveCtx

/-- LOSE_CTX: A context is marked LOST with cause DRIVER (R358). -/
def execLoseCtx (s : State) : Host.Outcome State Fault Refusal := runOn s effLoseCtx

/-- BAD_KIND_COMMAND: A command of an unlisted kind is completed as REJECTED with BAD_KIND (R359). -/
def execBadKindCommand (s : State) : Host.Outcome State Fault Refusal := runOn s effBadKind

/-- TWIN_PRESENT_CHANGE: TWIN_PRESENT_N changes, which enables or stops driving port 16 lanes (R496). -/
def execTwinPresentChange (present : Bool) (s : State) : Host.Outcome State Fault Refusal :=
  run s (effTwinPresent present)

/-- REGISTER_WRITE: A write to a BAR0 register without a row of its own updates RW, RW1C or RWL fields or is ignored (R8). -/
def execRegisterWrite (space off len : Nat) (write : Bool) (value : Nat) (facts : WriteFacts) (s : State) : Host.Outcome State Fault Refusal :=
  runOn s (effRegisterWrite space off len write value facts)

end Sys2Proof.Machine
end

