-- ==== Sys2Proof/Machine/ExecImage.lean ====
section
/-!
DEFINITION. The meanings of the commands of images, arming and migration (R261 to R305): each the effect of its rule on the module,
nothing else of the state changed.
-/
namespace Sys2Proof.Machine

/-- SUBMIT_IMAGE: A FULL or DELTA image is submitted to a slot for validation (R269). -/
def execSubmitImage (slot k : Nat) (s : State) : Host.Outcome State Fault Refusal :=
  runOn s (tlp 0 (effSubmitImage slot k))

/-- STORE_PROFILE: An image is checked and written to a stored profile through the journal (R281). -/
def execStoreProfile (slot k : Nat) (s : State) : Host.Outcome State Fault Refusal :=
  runOn s (tlp 0 (effStoreProfile slot k))

/-- APPLY_PROFILE: The delta from the projected composition to a profile is computed and validated for its apply frame (R282). -/
def execApplyProfile (slot k : Nat) (s : State) : Host.Outcome State Fault Refusal :=
  runOn s (tlp 0 (effApplyProfile slot k))

/-- CANCEL: A VALIDATED slot goes to REJECTED with CANCELLED in step 6 of the window (R278). -/
def execCancel (slot k : Nat) (s : State) : Host.Outcome State Fault Refusal := runOn s (tlp 0 (effCancel slot k))

/-- VALIDATION_DONE: An image's checks finish, and the slot becomes VALIDATED or REJECTED, or a FULL image takes effect (R271). -/
def execValidationDone (slot : Nat) (ecdsa hss : Bool) (s : State) : Host.Outcome State Fault Refusal :=
  runOn s (effValidationDone slot ecdsa hss)

/-- PROFILE_COMMITTED: The PROFILE_COMMIT record commits, the profile changes, and the slot leaves STORING (R473). -/
def execProfileCommitted (slot : Nat) (s : State) : Host.Outcome State Fault Refusal :=
  runOn s (effProfileCommitted slot)

/-- SLOT_RELEASE: A write of COMP_SLOT.release returns an APPLIED or REJECTED slot to FREE (R285). -/
def execSlotRelease (slot : Nat) (s : State) : Host.Outcome State Fault Refusal := runOn s (effSlotRelease slot)

/-- ARM_FIRE: The module arms its own slots with the fire ID, and relays ARM messages when relay is set (R301). -/
def execArmFire (relay : Bool) (nDest : Nat) (s : State) : Host.Outcome State Fault Refusal :=
  runOn s (effArmFire relay nDest)

/-- ARM_RECEIVED: A received arming event arms a matching slot, or is counted as late or stray (R300). -/
def execArmReceived (id : Nat) (s : State) : Host.Outcome State Fault Refusal := runOn s (effArmReceived id)

/-- STATUS_RECEIVED: A collector counts a STATUS message whose arm_id matches the tally (R302). -/
def execStatusReceived (state code id : Nat) (s : State) : Host.Outcome State Fault Refusal :=
  runOn s (effStatusReceived state code id)

/-- TALLY_RESET: A write of COMP_ARM_TALLY_ID sets the four tally counts to 0 (R305). -/
def execTallyReset (id : Nat) (s : State) : Host.Outcome State Fault Refusal := runOn s (effTallyReset id)

/-- MIG_START: A migration is started, or resumed after a halt, at the next edge, or refused with a cause (R294). -/
def execMigStart (d i : Nat) (s : State) : Host.Outcome State Fault Refusal := runOn s (effMigStart d i)

/-- MIG_RELEASE: A DONE migration's redirect ends at the next edge, and the state becomes IDLE (R298). -/
def execMigRelease (d i : Nat) (s : State) : Host.Outcome State Fault Refusal := runOn s (effMigRelease d i)

/-- MIG_CANCEL: A PENDING migration start is withdrawn (R299). -/
def execMigCancel (d i : Nat) (s : State) : Host.Outcome State Fault Refusal := runOn s (effMigCancel d i)

/-- MIG_SLICE_DONE: A copy slice finishes, and the boundary advances at the next edge (R295). -/
def execMigSliceDone (d i : Nat) (errs : List (Nat × ReadErrs)) (s : State) : Host.Outcome State Fault Refusal :=
  runOn s (effMigSliceDone d i errs)

end Sys2Proof.Machine
end

