-- ==== Sys2Proof/Machine/ExecJournal.lean ====
section
/-!
DEFINITION. The meanings of the commands of the journal, firmware slots and DDR5 service (R468 to R485): each the effect of its rule on the module,
nothing else of the state changed.
-/
namespace Sys2Proof.Machine

/-- JOURNAL_COMMIT: A journal record is programmed in two programs and committed, or the commit fails (R470). -/
def execJournalCommit (s : State) : Host.Outcome State Fault Refusal := runOn s effJournalCommit

/-- FLASH_PROGRAM_DONE: A flash page program completes and is read back (R470). -/
def execFlashProgramDone (copy ok : Bool) (s : State) : Host.Outcome State Fault Refusal :=
  runOn s (effFlashProgramDone copy ok)

/-- FLASH_ERASE_DONE: A flash erase completes, and compaction moves to its next step (R474). -/
def execFlashEraseDone (s : State) : Host.Outcome State Fault Refusal := runOn s effFlashEraseDone

/-- FW_ACTIVATE: A valid slot is activated on trial by a SLOT_STATE record (R478). -/
def execFwActivate (part slot : Nat) (ecdsa hss : Bool) (s : State) : Host.Outcome State Fault Refusal :=
  runOn s (effFwCtrl part slot ecdsa hss)

/-- FW_READY: A part started from a trial slot reports ready, and trial is cleared (R478). -/
def execFwReady (part : Nat) (s : State) : Host.Outcome State Fault Refusal := runOn s (effFwReady part)

/-- FW_TRIAL_TIMEOUT: A trial part fails to report ready in its bound, and the other slot is restored with fw_revert (R478). -/
def execFwTrialTimeout (part : Nat) (ecdsa hss : Bool) (s : State) : Host.Outcome State Fault Refusal :=
  runOn s (effFwTrialTimeout part ecdsa hss)

/-- DDR_OFFLINE: A DDR5 channel is taken offline at the next edge and its DPWR_EN driven low, or the request is refused (R482). -/
def execDdrOffline (ch : Nat) (s : State) : Host.Outcome State Fault Refusal := runOn s (effDdrOffline ch)

/-- DDR_ONLINE: DPWR_EN is driven high for a channel and its bring-in begins, or the request is refused (R483). -/
def execDdrOnline (ch : Nat) (s : State) : Host.Outcome State Fault Refusal := runOn s (effDdrOnline ch)

/-- DIMM_POWER_WAIT_DONE: After 20 ms the SPD is read; the DIMM is refused, or its moraine entry removed and training begun (R483). -/
def execDimmPowerWaitDone (gib speed : Nat) (x8 : Bool) (serial : Nat) (s : State) : Host.Outcome State Fault Refusal :=
  runOn s (effDimmPowerWait gib speed x8 serial)

/-- DDR_TRAINING_DONE: Channel training ends and zeroing begins, or the channel is refused with TRAIN_FAIL (R483). -/
def execDdrTrainingDone (ok : Bool) (s : State) : Host.Outcome State Fault Refusal := runOn s (effDdrTrainingDone ok)

/-- DDR_INIT_DONE: Zeroing ends, the channel becomes ONLINE, and a DIMM record is committed (R483). -/
def execDdrInitDone (s : State) : Host.Outcome State Fault Refusal := runOn s effDdrInitDone

end Sys2Proof.Machine
end

