-- ==== Sys2Proof/Machine/ExecLink.lean ====
section
/-!
DEFINITION. The meanings of the commands of seams, links and messages (R192 to R240): each the effect of its rule on the module,
nothing else of the state changed.
-/
namespace Sys2Proof.Machine

/-- SEAM_CRC_FAIL: A seam flit fails its CRC and is replayed, which may fail its lane group (R202). -/
def execSeamCrcFail (d k dir g : Nat) (again : Bool) (s : State) : Host.Outcome State Fault Refusal :=
  runOn s (effSeamCrcFail d k dir g again)

/-- SEAM_INJ_CRC: The next flit in each direction of a seam fails its CRC once (R205). -/
def execSeamInjCrc (d k : Nat) (s : State) : Host.Outcome State Fault Refusal := runOn s (effSeamInjCrc d k)

/-- RUN_RECEIVED: A run of 16 flits is received and verified, and its numbered flits are delivered, or it is discarded with nak (R217). -/
def execRunReceived (p sess skip : Nat) (resent : List Nat) (raws : List (List Byte)) (s : State) : Host.Outcome State Fault Refusal :=
  runOn s (effRunReceived p sess skip resent raws)

/-- NAK_RECEIVED: The sender resends everything from ack + 1 ahead of new flits (R214). -/
def execNakReceived (p sess ack : Nat) (s : State) : Host.Outcome State Fault Refusal :=
  runOn s (effNakReceived p sess ack)

/-- ACK_TIMEOUT: A numbered flit left unacknowledged for 20 µs is resent (R214). -/
def execAckTimeout (p sess : Nat) (s : State) : Host.Outcome State Fault Refusal := runOn s (effAckTimeout p sess)

/-- LANE_DROP_DONE: The retrain and delay measurement end, and the port resumes by replay (R209). -/
def execLaneDropDone (p : Nat) (trips : List (Nat × Nat × Nat × Nat)) (s : State) : Host.Outcome State Fault Refusal :=
  runOn s (effLaneDropDone p trips)

/-- LINK_TRAINED: PHY training and delay measurement complete, and the handshake begins (R238). -/
def execLinkTrained (p rate width : Nat) (trips : List (Nat × Nat × Nat × Nat)) (chal : List (List Byte)) (s : State) : Host.Outcome State Fault Refusal :=
  runOn s (effLinkTrained p rate width trips chal)

/-- TRAIN_FAIL: PHY training of a port fails, and it is tried once more or the port goes DOWN (R373). -/
def execTrainFail (p : Nat) (s : State) : Host.Outcome State Fault Refusal := runOn s (effTrainFail p)

/-- AUTH_RECEIVED: A peer's AUTH flit is received and recorded, and the PROOF is sent (R218). -/
def execAuthReceived (p sess mid port code : Nat) (serial : List Byte) (epoch : Nat) (challenge chal : List Byte) (s : State) : Host.Outcome State Fault Refusal :=
  runOn s (effAuthReceived p sess mid port code serial epoch challenge chal)

/-- PROOF_RECEIVED: A peer's PROOF is checked; the port becomes UP or enters AUTH_FAIL (R218). -/
def execProofReceived (p sess : Nat) (tag : List Byte) (s : State) : Host.Outcome State Fault Refusal :=
  runOn s (effProofReceived p sess tag)

/-- AUTH_RETRY: A port in AUTH_FAIL repeats the handshake with a fresh epoch once per second (R219). -/
def execAuthRetry (p sess : Nat) (chal : List Byte) (s : State) : Host.Outcome State Fault Refusal :=
  runOn s (effAuthRetry p sess chal)

/-- RUN_COUNTER_END: The run counter reaches its limit, and the sender advances its epoch and repeats the handshake (R221). -/
def execRunCounterEnd (p sess : Nat) (chal : List Byte) (s : State) : Host.Outcome State Fault Refusal :=
  runOn s (effRunCounterEnd p sess chal)

/-- SLOT_START: A slot begins and the sender sends TICK, resends, DATA, PTP, CTRL and IDLE in that order (R229). -/
def execSlotStart (p slot launch : Nat) (s : State) : Host.Outcome State Fault Refusal :=
  runOn s (effSlotStart p slot launch)

/-- MESSAGE_ROUTE: An unscheduled message is sent on a path chosen from src, dst and kind, or dropped as unroutable or TTL-expired (R233). -/
def execMessageRoute (s : State) : Host.Outcome State Fault Refusal := runOn s effMessageRoute

/-- ETH_FRAME_RECEIVED: An Ethernet frame is checked and its flits are passed to their session, or it is discarded (R223). -/
def execEthFrameReceived (p : Nat) (frame : List Byte) (s : State) : Host.Outcome State Fault Refusal :=
  runOn s (effEthFrameReceived p frame)

/-- ETH_FRAME_TIMEOUT: An Ethernet frame is sent 64 ns after its first flit, if n_max flits have not gathered before then (R225). -/
def execEthFrameTimeout (p sess : Nat) (s : State) : Host.Outcome State Fault Refusal :=
  runOn s (effEthFrameTimeout p sess)

/-- PORT_DOWN: A port goes DOWN: its replay buffer is discarded and unscheduled traffic moves to other paths (R235). -/
def execPortDown (p cause : Nat) (s : State) : Host.Outcome State Fault Refusal := runOn s (effPortDown p cause)

/-- LINK_ENABLE_WRITE: A write of LINK_CTRL.enable takes the port to DISABLED, or starts training it (R240). -/
def execLinkEnableWrite (p : Nat) (on : Bool) (s : State) : Host.Outcome State Fault Refusal :=
  runOn s (effLinkEnable p on)

/-- LINK_RETRAIN: The port trains again from the PHY up, with a fresh epoch (R240). -/
def execLinkRetrain (p : Nat) (s : State) : Host.Outcome State Fault Refusal := runOn s (effLinkRetrain p)

/-- LINK_INJ_CRC: Stripe 0 of the next numbered flit sent is corrupted (R240). -/
def execLinkInjCrc (p : Nat) (s : State) : Host.Outcome State Fault Refusal := runOn s (effLinkInjCrc p)

/-- LINK_INJ_TAG: The tag of the next run sent is corrupted (R240). -/
def execLinkInjTag (p : Nat) (s : State) : Host.Outcome State Fault Refusal := runOn s (effLinkInjTag p)

/-- RECALIBRATION_SLICE: An HBM stack or UP port recalibrates in the 1 µs slice before the edge, once every 256 frames (R481). -/
def execRecalibrationSlice (port : Bool) (k : Nat) (s : State) : Host.Outcome State Fault Refusal :=
  runOn s (effRecalibration port k)

end Sys2Proof.Machine
end

