-- ==== Sys2Proof/Machine/ExecManagement.lean ====
section
/-!
DEFINITION. The meanings of the commands of management (R410, R479, R486 to R489, R498): each the effect of its rule on the module,
nothing else of the state changed.
-/
namespace Sys2Proof.Machine

/-- SET_NUMERIC_EFFECTER_VALUE: PLDM sets the management power cap, or it completes with ERROR_INVALID_DATA (R486). -/
def execSetNumericEffecterValue (id value : Nat) (s : State) : Host.Outcome State Fault Refusal :=
  runOn s (effSetEffecter id value)

/-- GET_SENSOR_READING: PLDM reads a numeric sensor of power, voltage, current or die temperature (R486). -/
def execGetSensorReading (id : Nat) (s : State) : Host.Outcome State Fault Refusal := runOn s (effGetSensor id)

/-- GET_STATE_SENSOR_READINGS: PLDM reads the life-cycle state or bring-up step sensor (R486). -/
def execGetStateSensorReadings (id : Nat) (s : State) : Host.Outcome State Fault Refusal :=
  runOn s (effGetStateSensor id)

/-- REQUEST_UPDATE: PLDM Type 5 begins a firmware update (R479). -/
def execRequestUpdate (s : State) : Host.Outcome State Fault Refusal := runOn s effRequestUpdate

/-- PASS_COMPONENT_TABLE: PLDM Type 5 passes the component table of parts 0x0001 to 0x0004 (R479). -/
def execPassComponentTable (ids : List Nat) (s : State) : Host.Outcome State Fault Refusal :=
  runOn s (effPassComponentTable ids)

/-- UPDATE_COMPONENT: PLDM Type 5 starts writing a component into its unused slot (R479). -/
def execUpdateComponent (id : Nat) (s : State) : Host.Outcome State Fault Refusal := runOn s (effUpdateComponent id)

/-- TRANSFER_COMPLETE: The component transfer ends and the slot is checked (R479). -/
def execTransferComplete (data : List Byte) (ecdsa hss : Bool) (s : State) : Host.Outcome State Fault Refusal :=
  runOn s (effTransferComplete data ecdsa hss)

/-- VERIFY_COMPLETE: The written slot's verification result is reported (R479). -/
def execVerifyComplete (s : State) : Host.Outcome State Fault Refusal := runOn s effVerifyComplete

/-- APPLY_COMPLETE: The component's apply phase is reported complete (R479). -/
def execApplyComplete (s : State) : Host.Outcome State Fault Refusal := runOn s effApplyComplete

/-- ACTIVATE_FIRMWARE: Activation is committed, self-contained for part 0 and deferred for parts 1 to 3 (R479). -/
def execActivateFirmware (selfContained : Bool) (sigs : List (Nat × Bool × Bool)) (s : State) : Host.Outcome State Fault Refusal :=
  runOn s (effActivateFirmware selfContained sigs)

/-- GET_STATUS: Management reads RST_BRINGUP, LCS_STATE and NVJ_STATUS (R487). -/
def execGetStatus (tag : Nat) (s : State) : Host.Outcome State Fault Refusal := runOn s (effMgmt tag .getStatus)

/-- READ_REG: Management reads a BAR0 register (R487). -/
def execReadReg (tag off : Nat) (s : State) : Host.Outcome State Fault Refusal := runOn s (effMgmt tag (.readReg off))

/-- WRITE_REG: Management writes a BAR0 register (R487). -/
def execWriteReg (tag off value : Nat) (facts : WriteFacts) (s : State) : Host.Outcome State Fault Refusal :=
  runOn s (effMgmt tag (.writeReg off value facts))

/-- MGMT_MEM_READ: Management reads up to 1,024 bytes at a local offset, or is refused for a confidential partition (R487). -/
def execMgmtMemRead (tag off len : Nat) (s : State) : Host.Outcome State Fault Refusal :=
  runOn s (effMgmt tag (.memRead off len))

/-- MGMT_MEM_WRITE: Management writes up to 1,024 bytes at a local offset, or is refused for a confidential partition (R487). -/
def execMgmtMemWrite (tag off : Nat) (data : List Byte) (s : State) : Host.Outcome State Fault Refusal :=
  runOn s (effMgmt tag (.memWrite off data))

/-- MGMT_RESET: A management RESET command raises source MGMT (R453). -/
def execMgmtReset (tag : Nat) (s : State) : Host.Outcome State Fault Refusal := runOn s (effMgmt tag .reset)

/-- TOKEN: A token passed by management is checked as a token written to LCS_TOKEN_BUF (R444). -/
def execToken (tag : Nat) (bytes : List Byte) (ecdsa hss : Bool) (s : State) : Host.Outcome State Fault Refusal :=
  runOn s (effMgmt tag (.token bytes ecdsa hss))

/-- DEBUG: A RISC-V Debug Module abstract command is run on a steward core when a debug unlock is in force (R487). -/
def execDebugCommand (tag s0 : Nat) (cmd : DebugCmd) (s : State) : Host.Outcome State Fault Refusal :=
  runOn s (effMgmt tag (.debug s0 cmd))

/-- TRACE_READ: Core trace is read when a debug unlock is in force (R487). -/
def execTraceRead (tag core len : Nat) (s : State) : Host.Outcome State Fault Refusal :=
  runOn s (effMgmt tag (.traceRead core len))

/-- SET_PROFILE: The profile for the next reset is set, or a profile is emptied by PROFILE_CLEAR (R487). -/
def execSetProfile (tag k : Nat) (clear : Bool) (s : State) : Host.Outcome State Fault Refusal :=
  runOn s (effMgmt tag (.setProfile k clear))

/-- WRITE_SLOT: Firmware bytes are written into a slot, and the last write triggers the slot check (R488). -/
def execWriteSlot (tag part slot off : Nat) (data : List Byte) (last ecdsa hss : Bool) (s : State) : Host.Outcome State Fault Refusal :=
  runOn s (effMgmt tag (.writeSlot part slot off data last ecdsa hss))

/-- FORMAT_JOURNAL: Both journal halves are erased and fresh superblocks of generation 1 are written (R488). -/
def execFormatJournal (tag : Nat) (s : State) : Host.Outcome State Fault Refusal :=
  runOn s (effMgmt tag .formatJournal)

/-- MGMT_CTRL_RECEIVED: A MGMT CTRL message from another module is served as a management command and its response returned (R489). -/
def execMgmtCtrlReceived (src tag : Nat) (cmd : MgmtCmd) (s : State) : Host.Outcome State Fault Refusal :=
  runOn s (effMgmtCtrl src tag cmd)

/-- I3C_ENTDAA: The management controller takes a dynamic I3C address by ENTDAA (R498). -/
def execI3cEntdaa (addr : Nat) (s : State) : Host.Outcome State Fault Refusal := runOn s (effEntdaa addr)

/-- MCTP_CONTROL: The management controller, or the ROM responder, answers an MCTP control message over I3C or PCIe VDM (R486). -/
def execMctpControl (cmd : Nat) (data : List Byte) (s : State) : Host.Outcome State Fault Refusal :=
  runOn s (effMctpControl cmd data)

end Sys2Proof.Machine
end

