-- ==== Sys2Proof/Machine/ExecMemory.lean ====
section
/-!
DEFINITION. The meanings of the commands of device memory (R124 to R149): each the effect of its rule on the module,
nothing else of the state changed.
-/
namespace Sys2Proof.Machine

/-- MEM_REQUEST: A request reaches a memory-side die, is checked against its carve-out, and is performed, refused or redirected (R129). -/
def execMemRequest (write : Bool) (part off len cls : Nat) (req : Requester) (data : List Byte) (errs : ReadErrs) (at_ done : Nat) (s : State) : Host.Outcome State Fault Refusal :=
  runOn s (effMemRequest write part off len cls req data errs at_ done)

/-- ENLARGER_ENTRY_CLOSE: An enlarger entry closes to joiners at t0 + 64 ac (R141). -/
def execEnlargerEntryClose (die line : Nat) (s : State) : Host.Outcome State Fault Refusal :=
  runOn s (effEnlClose die line)

/-- MEM_READ_RETURN: Channel read data returns and is checked by ECC and tag, corrected, re-read, or found uncorrectable (R135). -/
def execMemReadReturn (line k : Nat) (errs : ReadErrs) (now : Nat) (s : State) : Host.Outcome State Fault Refusal :=
  runOn s (effMemReadReturn line k errs now)

/-- SCRUB_READ: Patrol scrub reads the next line of a channel and writes back corrected lines (R136). -/
def execScrubRead (ch : Nat) (errs : ReadErrs) (s : State) : Host.Outcome State Fault Refusal :=
  runOn s (effScrubRead ch errs)

/-- FILL_REPORT: Every 64 ac each channel reports its class fills, and the regulators set their bucket rates (R146). -/
def execFillReport (l : List (Nat × Nat × Nat)) (s : State) : Host.Outcome State Fault Refusal :=
  runOn s (effFillReport l)

/-- CLEARING_DONE: Released space has been overwritten with zeros and becomes unassigned (R131). -/
def execClearingDone (ch gib : Nat) (s : State) : Host.Outcome State Fault Refusal := runOn s (effClearingDone ch gib)

/-- CHANNEL_ZEROED: The zeroing of a trained channel completes with valid ECC and tags (R132). -/
def execChannelZeroed (ch : Nat) (s : State) : Host.Outcome State Fault Refusal := runOn s (effChannelZeroed ch)

/-- INJ_HBM_CE: The next HBM read on the die sees one symbol in error (R149). -/
def execInjHbmCe (d : Nat) (s : State) : Host.Outcome State Fault Refusal := runOn s (effInjHbmCe d)

/-- INJ_HBM_UE: The next HBM read on the die, and its re-read, see two symbols in error (R149). -/
def execInjHbmUe (d : Nat) (s : State) : Host.Outcome State Fault Refusal := runOn s (effInjHbmUe d)

/-- INJ_DDR_CE: The next DDR5 read sees a one-device error (R149). -/
def execInjDdrCe (d : Nat) (s : State) : Host.Outcome State Fault Refusal := runOn s (effInjDdrCe d)

/-- INJ_DDR_UE: The next DDR5 read on the die, and its re-read, see a two-device error (R149). -/
def execInjDdrUe (d : Nat) (s : State) : Host.Outcome State Fault Refusal := runOn s (effInjDdrUe d)

/-- INJ_DDR_MAC: The next two DDR5 tag checks fail (R149). -/
def execInjDdrMac (d : Nat) (s : State) : Host.Outcome State Fault Refusal := runOn s (effInjDdrMac d)

/-- MEM_LAT_RC_READ: A read of a latency monitor through its clearing alias returns max_clear and sets it to 0 (R149). -/
def execMemLatRcRead (die n cls : Nat) (s : State) : Host.Outcome State Fault Refusal :=
  runOn s (effMemLatRcRead die n cls)

end Sys2Proof.Machine
end

