-- ==== Sys2Proof/Machine/ExecPowerCtl.lean ====
section
/-!
DEFINITION. The meanings of the commands of power and temperature (R397 to R418): each the effect of its rule on the module,
nothing else of the state changed.
-/
namespace Sys2Proof.Machine

/-- POWER_ESTIMATE: Every 1 µs rail currents are estimated and the issue duty, fog floor, ramp and excess bucket are updated (R404). -/
def execPowerEstimate (x : PowerSample) (s : State) : Host.Outcome State Fault Refusal := runOn s (effPowerEstimate x)

/-- BE_RESUME: After 16 consecutive frames with duty at or above 32/64, BE admission resumes at the edge (R412). -/
def execBeResume (s : State) : Host.Outcome State Fault Refusal := runOn s effBeResume

/-- CALIBRATION: Every 100 ms each rail's gain is updated from measured current, or calib_drift is set (R405). -/
def execCalibration (l : List (Nat × Nat)) (s : State) : Host.Outcome State Fault Refusal := runOn s (effCalibration l)

/-- CLAMP_TRIP: A rail's measured current crosses its clamp, and all issue on its dies stops (R406). -/
def execClampTrip (rail : Nat) (s : State) : Host.Outcome State Fault Refusal := runOn s (effClampTrip rail)

/-- CLAMP_RELEASE: The rail's current falls below its limit, and issue resumes (R406). -/
def execClampRelease (rail held : Nat) (s : State) : Host.Outcome State Fault Refusal :=
  runOn s (effClampRelease rail held)

/-- RAIL_FAULT: A rail reaching 115% of its clamp is shut down, which removes power (R406). -/
def execRailFault (rail : Nat) (s : State) : Host.Outcome State Fault Refusal := run s (effRailFault rail)

/-- INPUT_OUT_OF_RANGE: The input stays outside 36 V to 62 V for 10 µs, and the converters stop (R397). -/
def execInputOutOfRange (removed : Bool) (s : State) : Host.Outcome State Fault Refusal :=
  run s (effInputOutOfRange removed)

/-- CONVERTER_FAIL: A 48 V converter fails, and the caps fall, or the module stops with fewer than two (R398). -/
def execConverterFail (conv : Nat) (s : State) : Host.Outcome State Fault Refusal := run s (effConverterFail conv)

/-- TEMP_SAMPLE: Every 1 µs each die's hottest sensor is read against the warn and throttle thresholds (R416). -/
def execTempSample (l : List (Nat × Nat)) (s : State) : Host.Outcome State Fault Refusal := runOn s (effTempSample l)

/-- THERMTRIP: A die at 115 °C for 100 µs drives THERMTRIP_N low and the converters stop (R416). -/
def execThermtrip (s : State) : Host.Outcome State Fault Refusal := run s effThermtrip

/-- PWR_CAP_WRITE: PF software sets the sustained cap, or the write is ignored when out of range (R410). -/
def execPwrCapWrite (w : Nat) (s : State) : Host.Outcome State Fault Refusal := runOn s (effPwrCap w)

/-- PWR_PEAK_WRITE: PF software sets the peak cap, or the write is ignored when out of range (R410). -/
def execPwrPeakWrite (w : Nat) (s : State) : Host.Outcome State Fault Refusal := runOn s (effPwrPeak w)

/-- CAP_IN_FORCE: 2 µs after a cap write the new cap is in force, and a lowered sustained cap empties the bucket (R411). -/
def execCapInForce (s : State) : Host.Outcome State Fault Refusal := runOn s effCapInForce

end Sys2Proof.Machine
end

