-- ==== Sys2Proof/Machine/ExecResetCtl.lean ====
section
/-!
DEFINITION. The meanings of the commands of resets and bring-up (R453 to R467): each the effect of its rule on the module,
nothing else of the state changed.
-/
namespace Sys2Proof.Machine

/-- POWER_ON: 48 V in range with PWR_EN high starts the converters (R466). -/
def execPowerOn (cleared : Bool) (s : State) : Host.Outcome State Fault Refusal := run s (effPowerOn cleared)

/-- RAILS_IN_REGULATION: Every rail is in regulation, and PWR_GOOD rises (R466). -/
def execRailsInRegulation (s : State) : Host.Outcome State Fault Refusal := run s effRailsInRegulation

/-- PWR_EN_LOW: PWR_EN goes low: after a hold-off the converters stop and PWR_GOOD falls (R466). -/
def execPwrEnLow (s : State) : Host.Outcome State Fault Refusal := run s effPwrEnLow

/-- RST_N_ASSERT: RST_N held low for 2 µs or more starts a MODULE reset hold-off (R453). -/
def execRstNAssert (s : State) : Host.Outcome State Fault Refusal := run s effRstNAssert

/-- PERST_ASSERT: PERST# is asserted, starting a MODULE or HOST reset by RST_CFG (R453). -/
def execPerstAssert (s : State) : Host.Outcome State Fault Refusal := run s effPerstAssert

/-- PERST_DEASSERT: PERST# is released, and link training may begin after step 6 (R457). -/
def execPerstDeassert (s : State) : Host.Outcome State Fault Refusal := run s effPerstDeassert

/-- HOT_RESET: A Hot Reset or Link Disable starts a MODULE or HOST reset by RST_CFG (R453). -/
def execHotReset (s : State) : Host.Outcome State Fault Refusal := runOn s effHotReset

/-- PF_FLR: A Function Level Reset of the PF performs a HOST-scope reset with the link kept up (R459). -/
def execPfFlr (s : State) : Host.Outcome State Fault Refusal := runOn s effPfFlr

/-- VF_FLR: A VF's requests stop, its partition's contexts are lost, its translations are flushed, and it completes at the edge (R458). -/
def execVfFlr (v : Nat) (s : State) : Host.Outcome State Fault Refusal := runOn s (effVfFlr v)

/-- HOST_RESET_COMPLETE: At the completing edge all object tables are freed, sequences closed, collectives destroyed and steward harts stopped (R459). -/
def execHostResetComplete (s : State) : Host.Outcome State Fault Refusal := runOn s effHostResetComplete

/-- MODULE_RESET: RST_CTRL.module_reset with its key raises source SOFTWARE (R464). -/
def execModuleReset (w : Nat) (s : State) : Host.Outcome State Fault Refusal := runOn s (effModuleReset w)

/-- HOLDOFF_START: A held-off source drives RST_N low, stops new work and flash or fuse operations, and sends FAILED (R455). -/
def execHoldoffStart (program : Bool) (s : State) : Host.Outcome State Fault Refusal := run s (effHoldoffStart program)

/-- INTERNAL_RESET_ASSERT: The hold-off ends after 2 µs and any pulse or page program, and the internal reset is asserted (R455). -/
def execInternalResetAssert (us : Nat) (s : State) : Host.Outcome State Fault Refusal :=
  run s (effInternalResetAssert us)

/-- INTERNAL_RESET_RELEASE: The internal reset ends after 1 ms and RST_N is free, and the release order begins (R457). -/
def execInternalResetRelease (slot : Nat) (s : State) : Host.Outcome State Fault Refusal :=
  run s (effInternalResetRelease slot)

/-- BRINGUP_STEP_END: A release-order step ends, or fails, and the next step begins (R460). -/
def execBringupStepEnd (f : StepFacts) (s : State) : Host.Outcome State Fault Refusal := runOn s (effBringupStepEnd f)

/-- WATCHDOG_EXPIRY: The watchdog expires, or a bring-up step passes twice its bound, raising source WATCHDOG (R463). -/
def execWatchdogExpiry (s : State) : Host.Outcome State Fault Refusal := runOn s effWatchdogExpiry

/-- SWRST_COUNTERS: The counters and event registers of the named block return to their reset values (R464). -/
def execSwrstCounters (blk i : Nat) (s : State) : Host.Outcome State Fault Refusal := runOn s (effSwrstCounters blk i)

/-- SWRST_UNIT: A unit reset of an unbound core, steward core or disabled port is scheduled for the next edge, or refused (R464). -/
def execSwrstUnit (blk i : Nat) (s : State) : Host.Outcome State Fault Refusal := runOn s (effSwrstUnit blk i)

/-- SWRST_UNIT_DONE: A unit software reset completes, and swrst_done is set (R464). -/
def execSwrstUnitDone (s : State) : Host.Outcome State Fault Refusal := runOn s effSwrstUnitDone

end Sys2Proof.Machine
end

