-- ==== Sys2Proof/Machine/ExecSequence.lean ====
section
/-!
DEFINITION. The meanings of the commands of sequences and leases (R150 to R171): each the effect of its rule on the module,
nothing else of the state changed.
-/
namespace Sys2Proof.Machine

/-- OPEN: A sequence record is opened on a die, held or adopted, and its seq_id is returned (R154). -/
def execSeqOpen (s : State) : Host.Outcome State Fault Refusal := runOn s (effSeqCmd 1)

/-- APPEND: n page entries are adopted into the sequence, optionally sealing the former last page (R154). -/
def execSeqAppend (s : State) : Host.Outcome State Fault Refusal := runOn s (effSeqCmd 2)

/-- PULL: Pulls of the named pages into the HBM pool are started (R156). -/
def execSeqPull (s : State) : Host.Outcome State Fault Refusal := runOn s (effSeqCmd 3)

/-- DEMOTE: The named pages are moved to the DDR5 pool, or become ABSENT with drop (R154). -/
def execSeqDemote (s : State) : Host.Outcome State Fault Refusal := runOn s (effSeqCmd 4)

/-- REMAP: Software's replacement entries are adopted for the named pages (R154). -/
def execSeqRemap (s : State) : Host.Outcome State Fault Refusal := runOn s (effSeqCmd 5)

/-- TRUNCATE: The page count is cut, pool pages beyond it are returned, and the sequence is made ACTIVE again (R165). -/
def execSeqTruncate (s : State) : Host.Outcome State Fault Refusal := runOn s (effSeqCmd 6)

/-- CLOSE: Every pool page of the sequence is returned and the record is set FREE (R154). -/
def execSeqClose (s : State) : Host.Outcome State Fault Refusal := runOn s (effSeqCmd 7)

/-- OFFER: The holder sets its lease OFFERED, stops serving, and sends OFFER with the next epoch (R168). -/
def execSeqOffer (s : State) : Host.Outcome State Fault Refusal := runOn s (effSeqCmd 8)

/-- RENEW: The expiry of a HELD lease is extended (R154). -/
def execSeqRenew (s : State) : Host.Outcome State Fault Refusal := runOn s (effSeqCmd 9)

/-- RECLAIM: A copy takes the lease at a new epoch and sends EPOCH to the module named (R169). -/
def execSeqReclaim (s : State) : Host.Outcome State Fault Refusal := runOn s (effSeqCmd 10)

/-- PULL_COMPLETE: A page copy to the HBM pool completes, and the entry becomes tier 0 at the edge (R157). -/
def execPullComplete (id page : Nat) (s : State) : Host.Outcome State Fault Refusal :=
  runOn s (effCopyComplete false id page)

/-- DEMOTE_COMPLETE: A demotion copy to the DDR5 pool completes, and the entry changes tier at the edge (R157). -/
def execDemoteComplete (id page : Nat) (s : State) : Host.Outcome State Fault Refusal :=
  runOn s (effCopyComplete true id page)

/-- HOLD_LIMIT: A tile held for 16 frames either makes its sequence STATE_LOST or joins and is served from the lower tier (R159). -/
def execHoldLimit (uid : Nat) (s : State) : Host.Outcome State Fault Refusal := runOn s (effHoldLimit uid)

/-- TIER2_READ_FAIL: A host or twin page read of a GATHER fails, which ends the attempt and makes the sequence STATE_LOST (R163). -/
def execTier2ReadFail (x : PageReader) (s : State) : Host.Outcome State Fault Refusal := runOn s (effTier2ReadFail x)

/-- LEASE_EXPIRY: A lease becomes ORPHANED at the edge ending its expiry frame (R166). -/
def execLeaseExpiry (id : Nat) (s : State) : Host.Outcome State Fault Refusal := runOn s (effLeaseExpiry id)

/-- LEASE_OFFER_RECEIVED: A received OFFER is accepted, making the lease HELD and sending ACCEPT, or is counted as ignored (R168). -/
def execLeaseOfferReceived (sender seg epoch commitSeq expiry : Nat) (s : State) : Host.Outcome State Fault Refusal :=
  runOn s (effLeaseReceived 1 sender seg epoch commitSeq expiry)

/-- LEASE_ACCEPT_RECEIVED: An OFFERED holder receives ACCEPT, sets its lease OTHER, sends RELEASE and closes with move (R168). -/
def execLeaseAcceptReceived (sender seg epoch commitSeq expiry : Nat) (s : State) : Host.Outcome State Fault Refusal :=
  runOn s (effLeaseReceived 2 sender seg epoch commitSeq expiry)

/-- LEASE_RELEASE_RECEIVED: A received RELEASE sets the released flag (R168). -/
def execLeaseReleaseReceived (sender seg epoch commitSeq expiry : Nat) (s : State) : Host.Outcome State Fault Refusal :=
  runOn s (effLeaseReceived 3 sender seg epoch commitSeq expiry)

/-- LEASE_EPOCH_RECEIVED: A received EPOCH raises max_epoch and may make a stale HELD lease OTHER (R166). -/
def execLeaseEpochReceived (sender seg epoch commitSeq expiry : Nat) (s : State) : Host.Outcome State Fault Refusal :=
  runOn s (effLeaseReceived 4 sender seg epoch commitSeq expiry)

/-- SEQ_POOL_WRITE: A pool base or size write takes effect unless pages are allocated, and a pool outside the carve-out reads 0 (R171). -/
def execSeqPoolWrite (k : Nat) (pages : Bool) (value : Nat) (s : State) : Host.Outcome State Fault Refusal :=
  runOn s (effSeqPoolWrite k pages value)

end Sys2Proof.Machine
end

