-- ==== Sys2Proof/Machine/ExecSteward.lean ====
section
/-!
DEFINITION. The meanings of the commands of steward cores (R111 to R123): each the effect of its rule on the module,
nothing else of the state changed.
-/
namespace Sys2Proof.Machine

/-- STEWARD_INSTRUCTION: A steward hart issues one RV64GCV instruction in barrel order (R111). -/
def execStewardInstruction (s0 h : Nat) (e : StwEffect) (fetch : ReadCheck) (s : State) : Host.Outcome State Fault Refusal :=
  runOn s (effStewardInstruction s0 h e fetch)

/-- TLCOMMIT: A hart commits n ring entries to the module, for the next frame or the one after, depending on the cutoff (R117). -/
def execTlcommit (s0 h rd n ns : Nat) (s : State) : Host.Outcome State Fault Refusal :=
  runOn s (effTlcommit s0 h rd n ns)

/-- EDGEWAIT: A hart reads edgewait and blocks until the next shutter edge (R120). -/
def execEdgewait (s0 h rd : Nat) (s : State) : Host.Outcome State Fault Refusal := runOn s (effEdgewait s0 h rd)

/-- EDGEWAIT_RESUME: At the shutter edge a blocked hart resumes with the new frame number (R120). -/
def execEdgewaitResume (s0 h : Nat) (s : State) : Host.Outcome State Fault Refusal := runOn s (effEdgewaitResume s0 h)

/-- STEWARD_READ_DONE: A steward read outside TCM returns, and the blocked hart resumes (R111). -/
def execStewardReadDone (s0 h : Nat) (s : State) : Host.Outcome State Fault Refusal :=
  runOn s (effStewardReadDone s0 h)

/-- INJ_TCM: The next TCM read of the steward core is made to see a correctable error (R123). -/
def execInjTcm (s0 : Nat) (s : State) : Host.Outcome State Fault Refusal := runOn s (effInjTcm s0)

end Sys2Proof.Machine
end

