-- ==== Sys2Proof/Machine/ExecTick.lean ====
section
/-!
DEFINITION. The meanings of the commands of the tick (R32 to R43, R237): each the effect of its rule on the module,
nothing else of the state changed.
-/
namespace Sys2Proof.Machine

/-- TICK_MARK_RECEIVED: A verified TICK flit sets the module's edge from its arrival time, delay and launch (R237). -/
def execTickMarkReceived (p frame root tree hop launch : Nat) (arrival : Int) (s : State) : Host.Outcome State Fault Refusal :=
  runOn s (effTickMarkReceived p frame root tree hop launch arrival)

/-- TICK_MARK_TIMEOUT: No valid primary mark for 4 frames moves a follower to the backup tree or makes the backup master root (R34). -/
def execTickMarkTimeout (s : State) : Host.Outcome State Fault Refusal := runOn s effTickMarkTimeout

/-- HOLDOVER_ENTER: The tick source is lost and the module runs from its own oscillator in HOLDOVER (R38). -/
def execHoldoverEnter (s : State) : Host.Outcome State Fault Refusal := runOn s effHoldoverEnter

/-- SLOTS_HELD: Holdover error exceeds half the window, and sending in scheduled slots stops (R39). -/
def execSlotsHeld (s : State) : Host.Outcome State Fault Refusal := runOn s effSlotsHeld

/-- RELOCK: The source returns within 1 s and the module corrects its phase back to LOCKED (R40). -/
def execRelock (s : State) : Host.Outcome State Fault Refusal := runOn s effRelock

/-- TICK_ORPHAN: After 1 s in HOLDOVER the module raises TICK_ORPHAN and enters ORPHAN (R41). -/
def execTickOrphan (s : State) : Host.Outcome State Fault Refusal := runOn s effTickOrphan

/-- TICK_RELOCK_REQUEST: A write of TICK_CTRL.relock re-locks the module to its upstream, or is refused with relock_refused (R41). -/
def execTickRelockRequest (up : Nat) (s : State) : Host.Outcome State Fault Refusal :=
  runOn s (effTickRelockRequest up)

/-- SKEW_EXCEEDED: The measured offset stays beyond this module's share for 16 frames (R37). -/
def execSkewExceeded (s : State) : Host.Outcome State Fault Refusal := runOn s effSkewExceeded

/-- TICK_REF_PULSE: A reference pulse on TICK_REF_P/N aligns the tick master's shutter edge (R499). -/
def execTickRefPulse (off : Int) (s : State) : Host.Outcome State Fault Refusal := runOn s (effTickRefPulse off)

/-- TICK_REF_LOST: Four frames without a reference pulse make the master continue in holdover without a phase step (R35). -/
def execTickRefLost (s : State) : Host.Outcome State Fault Refusal := runOn s effTickRefLost

/-- PTP_SYNC_RECEIVED: A pod root takes a one-step or two-step Sync as a slave (R36). -/
def execPtpSyncReceived (p domain seqNo : Nat) (twoStep : Bool) (origin corr rx : Int) (s : State) : Host.Outcome State Fault Refusal :=
  runOn s (effPtpSyncReceived p domain seqNo twoStep origin corr rx)

/-- PTP_FOLLOW_UP_RECEIVED: A Follow_Up completes a two-step Sync (R36). -/
def execPtpFollowUpReceived (p domain seqNo : Nat) (origin corr : Int) (s : State) : Host.Outcome State Fault Refusal :=
  runOn s (effPtpFollowUpReceived p domain seqNo origin corr)

/-- PTP_DELAY_REQ_RECEIVED: The master answers a Delay_Req with a Delay_Resp (R36). -/
def execPtpDelayReqReceived (p domain seqNo ident : Nat) (corr rx : Int) (s : State) : Host.Outcome State Fault Refusal :=
  runOn s (effPtpDelayReqReceived p domain seqNo ident corr rx)

/-- PTP_DELAY_RESP_RECEIVED: A slave takes the Delay_Resp for its end-to-end delay (R36). -/
def execPtpDelayRespReceived (p domain seqNo : Nat) (t4 corr : Int) (s : State) : Host.Outcome State Fault Refusal :=
  runOn s (effPtpDelayRespReceived p domain seqNo t4 corr)

/-- PTP_SYNC_SEND: The grandmaster sends a two-step Sync at 128 per second (R36). -/
def execPtpSyncSend (p : Nat) (s : State) : Host.Outcome State Fault Refusal := runOn s (effPtpSyncSend p)

/-- PTP_DELAY_REQ_SEND: A slave sends a Delay_Req at 16 per second (R36). -/
def execPtpDelayReqSend (p : Nat) (tx : Int) (s : State) : Host.Outcome State Fault Refusal :=
  runOn s (effPtpDelayReqSend p tx)

/-- PTP_SYNC_TIMEOUT: No valid Sync for 62.5 ms in Ethernet mode makes the tick source lost (R38). -/
def execPtpSyncTimeout (s : State) : Host.Outcome State Fault Refusal := runOn s effPtpSyncTimeout

end Sys2Proof.Machine
end

