-- ==== Sys2Proof/Machine/ExecTile.lean ====
section
/-!
DEFINITION. The meanings of the commands of tile ops and core injections (R73 to R110): each the effect of its rule on the module,
nothing else of the state changed.
-/
namespace Sys2Proof.Machine

/-- NOP: The sequencer waits a fixed number of ac (R94). -/
def execNop (c : Nat) (s : State) : Host.Outcome State Fault Refusal := runOn s (effNop c)

/-- END: The tile ends after every earlier op, and publishes its signals, posts and status to its command (R95). -/
def execTileEnd (c : Nat) (s : State) : Host.Outcome State Fault Refusal := runOn s (effEnd c)

/-- ANCHOR: The accumulator's anchor is set, explicitly or automatically over the named ranges, and the accumulator is cleared (R84). -/
def execAnchor (c : Nat) (s : State) : Host.Outcome State Fault Refusal := runOn s (effAnchor c)

/-- ACC_CLEAR: The whole accumulator, or a region of it, is cleared, and the anchor is set when the whole array is cleared (R84). -/
def execAccClear (c : Nat) (s : State) : Host.Outcome State Fault Refusal := runOn s (effAccClear c)

/-- MMA: A × B is added into an accumulator region, rounding each term to the anchor grid and combining special classes (R86). -/
def execMma (c : Nat) (s : State) : Host.Outcome State Fault Refusal := runOn s (effMma c)

/-- ACC_READ: An accumulator region is converted once into the plate, in floating-point, MX, AFX64 or raw form (R87). -/
def execAccRead (c : Nat) (s : State) : Host.Outcome State Fault Refusal := runOn s (effAccRead c)

/-- VOP: An element-wise FP32 vector function is computed and written in the output format (R88). -/
def execVop (c : Nat) (s : State) : Host.Outcome State Fault Refusal := runOn s (effVop c)

/-- VRED: Groups of elements are reduced to one FP32 sum, maximum or minimum each (R89). -/
def execVred (c : Nat) (s : State) : Host.Outcome State Fault Refusal := runOn s (effVred c)

/-- CONVERT: Plate elements are converted between formats, including MX and AFX64 (R90). -/
def execConvert (c : Nat) (s : State) : Host.Outcome State Fault Refusal := runOn s (effConvert c)

/-- COPY: Plate lines are copied to a region that does not overlap them (R94). -/
def execCopy (c : Nat) (s : State) : Host.Outcome State Fault Refusal := runOn s (effCopy c)

/-- FILL: A 32-bit pattern is written into every word of a plate region (R94). -/
def execFill (c : Nat) (s : State) : Host.Outcome State Fault Refusal := runOn s (effFill c)

/-- XFER_IN: Rows of lines move from a memory object into the plate, and a residency tag may be recorded (R91). -/
def execXferIn (c : Nat) (s : State) : Host.Outcome State Fault Refusal := runOn s (effXferIn c)

/-- XFER_OUT: Rows of lines move from the plate to a memory object (R91). -/
def execXferOut (c : Nat) (s : State) : Host.Outcome State Fault Refusal := runOn s (effXferOut c)

/-- PEER_PUSH: Lines are copied from this plate to the plate of another core over XB or a transfer engine (R92). -/
def execPeerPush (c : Nat) (s : State) : Host.Outcome State Fault Refusal := runOn s (effPeerPush c)

/-- GATHER: Pieces of sequence pages are brought into the plate from whatever tier each page lies in (R93). -/
def execGather (c : Nat) (s : State) : Host.Outcome State Fault Refusal := runOn s (effGather c)

/-- REDUCE_POST: Plate lines are copied into a port's reduction staging as one chunk, visible at END (R94). -/
def execReducePost (c : Nat) (s : State) : Host.Outcome State Fault Refusal := runOn s (effReducePost c)

/-- POST_STAGING_FREE: A REDUCE_POST that waited for its staging slot proceeds once the slot is freed (R247). -/
def execPostStagingFree (c : Nat) (s : State) : Host.Outcome State Fault Refusal := runOn s (effPostStagingFree c)

/-- WAIT: Issue stops until a timeline reaches its value (R100). -/
def execWait (c : Nat) (s : State) : Host.Outcome State Fault Refusal := runOn s (effWait c)

/-- WAIT_RESUME: A waiting WAIT ends because its timeline reaches the value or is lost, and issue resumes (R100). -/
def execWaitResume (c : Nat) (s : State) : Host.Outcome State Fault Refusal := runOn s (effWaitResume c)

/-- SIGNAL: A timeline signal is staged, to be published at END (R95). -/
def execSignal (c : Nat) (s : State) : Host.Outcome State Fault Refusal := runOn s (effSignalOp c)

/-- PRED: A predicate is computed from the status, a plate word comparison or other predicates (R95). -/
def execPred (c : Nat) (s : State) : Host.Outcome State Fault Refusal := runOn s (effPred c)

/-- SRSET: The seed, index base and row stride for stochastic rounding are set (R94). -/
def execSrset (c : Nat) (s : State) : Host.Outcome State Fault Refusal := runOn s (effSrset c)

/-- FENCE: Issue waits until every earlier op of the tile has ended (R100). -/
def execFence (c : Nat) (s : State) : Host.Outcome State Fault Refusal := runOn s (effFence c)

/-- OP_COMPLETE: An issued op reaches its end after its occupancy and latency, releasing its hazards and ORing in its flags (R98). -/
def execOpComplete (c k held : Nat) (s : State) : Host.Outcome State Fault Refusal := runOn s (effOpComplete c k held)

/-- INJ_RESIDUE: The next MMA or VOP on the core is made to fail its residue check (R110). -/
def execInjResidue (c : Nat) (s : State) : Host.Outcome State Fault Refusal := runOn s (effInjResidue c)

/-- INJ_PLATE_CE: The next plate read on the core is made to see a correctable error (R110). -/
def execInjPlateCe (c : Nat) (s : State) : Host.Outcome State Fault Refusal := runOn s (effInjPlateCe c)

/-- INJ_PLATE_UE: The next plate read on the core is made to see an uncorrectable error (R110). -/
def execInjPlateUe (c : Nat) (s : State) : Host.Outcome State Fault Refusal := runOn s (effInjPlateUe c)

/-- INJ_ACC_PARITY: The next accumulator store read on the core is made to see a parity error (R110). -/
def execInjAccParity (c : Nat) (s : State) : Host.Outcome State Fault Refusal := runOn s (effInjAccParity c)

/-- TAG_FLUSH: Every residency entry of the core's plate is removed (R110). -/
def execTagFlush (c : Nat) (s : State) : Host.Outcome State Fault Refusal := runOn s (effTagFlush c)

end Sys2Proof.Machine
end

