-- ==== Sys2Proof/Machine/ExecTranslation.lean ====
section
/-!
DEFINITION. The meanings of the commands of address translation (R172 to R191): each the effect of its rule on the module,
nothing else of the state changed.
-/
namespace Sys2Proof.Machine

/-- TRANSLATION_COMPLETION: An ATS completion arrives and is installed, discarded and re-sent, or leads to a Page Request; stalled engines resume (R180). -/
def execTranslationCompletion (fn pasid page : Nat) (ok : Bool) (pa sizeLog : Nat) (rd wr : Bool) (s : State) : Host.Outcome State Fault Refusal :=
  runOn s (fun m => (tlp fn (effTranslationCompletion fn pasid page ok pa sizeLog rd wr) m).afterXlat)

/-- PRG_RESPONSE: A PRG Response arrives, and its joiners retry the translation or fail (R185). -/
def execPrgResponse (fn prg code : Nat) (s : State) : Host.Outcome State Fault Refusal :=
  runOn s (fun m => (tlp fn (effPrgResponse fn prg code) m).afterXlat)

/-- PRI_TIMEOUT: A Page Request is unanswered after XLAT_PRI_TIMEOUT, and every joiner fails (R186). -/
def execPriTimeout (fn pasid page : Nat) (s : State) : Host.Outcome State Fault Refusal :=
  runOn s (fun m => (effPriTimeout fn pasid page m).afterXlat)

/-- INVALIDATE_REQUEST: An ATS Invalidate Request is received and scheduled for step 5 of this or the next window (R187). -/
def execInvalidateRequest (fn : Nat) (pasid : Option Nat) (base size tag : Nat) (s : State) : Host.Outcome State Fault Refusal :=
  runOn s (tlp fn (effInvalidateRequest fn pasid base size tag))

/-- XLAT_FLUSH: A flush of the named function and PASID is queued as an invalidation received now (R189). -/
def execXlatFlush (value : Nat) (s : State) : Host.Outcome State Fault Refusal := runOn s (effXlatFlush value)

/-- PRI_ENABLE_WRITE: Software clears and sets the PRI Enable bit of a function, which ends the state in which its translation needs fail at once after a Response Failure (R185). -/
def execPriEnableWrite (fn alloc : Nat) (s : State) : Host.Outcome State Fault Refusal :=
  runOn s (cfgWrite (effPriEnable fn alloc))

end Sys2Proof.Machine
end

