-- ==== Sys2Proof/Machine/ExecTrust.lean ====
section
/-!
DEFINITION. The meanings of the commands of the root of trust (R419 to R452): each the effect of its rule on the module,
nothing else of the state changed.
-/
namespace Sys2Proof.Machine

/-- REVOCATION_SUBMIT: A revocation record is checked and its slot's revocation word burned, or it is rejected (R427). -/
def execRevocationSubmit (ecdsa hss : Bool) (s : State) : Host.Outcome State Fault Refusal :=
  runOn s (effRevocation ecdsa hss)

/-- GET_VERSION: An SPDM requester learns that version 1.3 is supported (R430). -/
def execGetVersion (tr : Nat) (s : State) : Host.Outcome State Fault Refusal := runOn s (effGetVersion tr)

/-- GET_CAPABILITIES: An SPDM requester receives the supported capabilities (R430). -/
def execGetCapabilities (tr : Nat) (s : State) : Host.Outcome State Fault Refusal := runOn s (effGetCapabilities tr)

/-- NEGOTIATE_ALGORITHMS: SPDM algorithms are negotiated to P-384, SHA-384, secp384r1 and AES-256-GCM (R430). -/
def execNegotiateAlgorithms (tr : Nat) (offer : SpdmAlgs) (s : State) : Host.Outcome State Fault Refusal :=
  runOn s (effNegotiate tr offer)

/-- GET_DIGESTS: An SPDM requester receives the digest of certificate slot 0 (R430). -/
def execGetDigests (tr : Nat) (sess : Option Nat) (s : State) : Host.Outcome State Fault Refusal :=
  runOn s (effGetDigests tr sess)

/-- GET_CERTIFICATE: An SPDM requester reads the certificate chain of slot 0 (R430). -/
def execGetCertificate (tr : Nat) (sess : Option Nat) (slot off len : Nat) (s : State) : Host.Outcome State Fault Refusal :=
  runOn s (effGetCertificate tr sess slot off len)

/-- CHALLENGE: The module answers CHALLENGE_AUTH signed with its ECDSA identity key (R430). -/
def execChallenge (tr slot : Nat) (s : State) : Host.Outcome State Fault Refusal := runOn s (effChallenge tr slot)

/-- GET_MEASUREMENTS: The module returns measurement blocks from one frame, with a signature when asked (R431). -/
def execGetMeasurements (tr : Nat) (sess : Option Nat) (idx : Nat) (sign : Bool) (s : State) : Host.Outcome State Fault Refusal :=
  runOn s (effGetMeasurements tr sess idx sign)

/-- KEY_EXCHANGE: A secured SPDM session is started, if fewer than 4 are open (R430). -/
def execKeyExchange (tr : Nat) (s : State) : Host.Outcome State Fault Refusal := runOn s (effKeyExchange tr)

/-- FINISH: The SPDM session handshake completes and spdm_session is set (R430). -/
def execFinish (k : Nat) (ok : Bool) (s : State) : Host.Outcome State Fault Refusal := runOn s (effFinish k ok)

/-- KEY_UPDATE: The keys of a secured SPDM session are updated (R430). -/
def execKeyUpdate (k : Nat) (s : State) : Host.Outcome State Fault Refusal := runOn s (effKeyUpdate k)

/-- END_SESSION: A secured SPDM session is ended (R430). -/
def execEndSession (k : Nat) (s : State) : Host.Outcome State Fault Refusal := runOn s (effEndSession k)

/-- GET_HSS_ENDORSEMENT: The module returns its public keys with the vendor's HSS endorsement (R432). -/
def execGetHssEndorsement (tr : Nat) (sess : Option Nat) (s : State) : Host.Outcome State Fault Refusal :=
  runOn s (effHssEndorsement tr sess)

/-- GET_HSS_SIGNATURE: The module HSS-signs the hash of the last signed response, reserving leaves as needed (R432). -/
def execGetHssSignature (tr : Nat) (sess : Option Nat) (s : State) : Host.Outcome State Fault Refusal :=
  runOn s (effHssSignature tr sess)

/-- IDE_KM_QUERY: IDE_KM queries the module's IDE streams (R343). -/
def execIdeKmQuery (sess : Nat) (s : State) : Host.Outcome State Fault Refusal := runOn s (effIdeQuery sess)

/-- IDE_KM_KEY_PROG: IDE_KM programs a key set into an IDE stream (R343). -/
def execIdeKmKeyProg (sess stream set lo hi : Nat) (s : State) : Host.Outcome State Fault Refusal :=
  runOn s (effIdeKeyProg sess stream set lo hi)

/-- IDE_KM_K_SET_GO: IDE_KM switches a stream to a programmed key set (R343). -/
def execIdeKmKSetGo (sess stream set : Nat) (s : State) : Host.Outcome State Fault Refusal :=
  runOn s (effIdeSetGo sess stream set)

/-- IDE_KM_K_SET_STOP: IDE_KM stops a key set of a stream (R343). -/
def execIdeKmKSetStop (sess stream set : Nat) (s : State) : Host.Outcome State Fault Refusal :=
  runOn s (effIdeSetStop sess stream set)

/-- LCS_TOKEN_GO: A token is checked and either starts a transition burn, grants a debug unlock, or is rejected (R444). -/
def execLcsTokenGo (ecdsa hss : Bool) (s : State) : Host.Outcome State Fault Refusal :=
  runOn s (effLcsTokenGo ecdsa hss)

/-- NEW_CHALLENGE: The root of trust draws a fresh 16-byte challenge (R445). -/
def execNewChallenge (rnd : List Byte) (s : State) : Host.Outcome State Fault Refusal := runOn s (effNewChallenge rnd)

/-- DEBUG_RELOCK: The debug unlock in force ends (R450). -/
def execDebugRelock (s : State) : Host.Outcome State Fault Refusal := runOn s effDebugRelock

/-- FUSE_PULSE_DONE: A programming pulse ends, the word is read back, and progress is journaled or the bit is pulsed again (R446). -/
def execFusePulseDone (rev ok : Bool) (s : State) : Host.Outcome State Fault Refusal :=
  if s.m.rst.inReset then .next s else .next (effFusePulse rev ok s)

end Sys2Proof.Machine
end

