-- ==== Sys2Proof/Machine/ExecTwinning.lean ====
section
/-!
DEFINITION. The meanings of the commands of the twin (R306 to R328): each the effect of its rule on the module,
nothing else of the state changed.
-/
namespace Sys2Proof.Machine

/-- HELLO: A received HELLO is checked for pairing, and it returns a PAIRED module to WAIT (R306). -/
def execHello (frame mid claimed : Nat) (serial claimedSerial : List Byte) (period : Nat) (digest : List Byte) (s : State) : Host.Outcome State Fault Refusal :=
  runOn s (effHello frame mid claimed serial claimedSerial period digest)

/-- JOIN: A received JOIN is echoed when J is far enough ahead, or an echo completes the join (R307). -/
def execJoin (j : Nat) (echo : Bool) (s : State) : Host.Outcome State Fault Refusal := runOn s (effJoin j echo)

/-- BEAT: A received BEAT keeps the pair alive (R308). -/
def execBeat (s : State) : Host.Outcome State Fault Refusal := runOn s effBeat

/-- NEG: A received NEG part is stored, and the last part commits the negative when its counts are met (R316). -/
def execNeg (vd f : Nat) (recs : List NegRec) (trailer : Option NegTrailer) (s : State) : Host.Outcome State Fault Refusal :=
  runOn s (effNeg vd f recs trailer)

/-- MWRITE: A precious write from the twin is stored in the mirror ring, or discarded when the ring is full (R316). -/
def execMwrite (vd f off : Nat) (data : List Byte) (s : State) : Host.Outcome State Fault Refusal :=
  runOn s (effMwrite vd f off data)

/-- PRINT: The twin's contact print and flags are received for comparison (R322). -/
def execPrint (vd f print flags tiles : Nat) (s : State) : Host.Outcome State Fault Refusal :=
  runOn s (effPrint vd f print flags tiles)

/-- SYNC: The twin's queue and hart counts are received for lockstep agreement (R321). -/
def execSync (vd : Nat) (digest : List Byte) (counts : List (Nat × Nat)) (s : State) : Host.Outcome State Fault Refusal :=
  runOn s (effSync vd digest counts)

/-- FAILED: A FAILED message from the twin leads to ALONE in the next window (R309). -/
def execFailed (s : State) : Host.Outcome State Fault Refusal := runOn s effFailed

/-- DETACH: A received DETACH sends the module to ALONE at the next edge (R327). -/
def execDetach (s : State) : Host.Outcome State Fault Refusal := runOn s effDetach

/-- RESET_REQ: A RESET_REQ triggers a twin-request reset when this module was found faulty, and is counted otherwise (R326). -/
def execResetReq (s : State) : Host.Outcome State Fault Refusal := runOn s effResetReq

/-- SWAP: A SWAP message names frame S, after which the roles change (R319). -/
def execSwap (vd f : Nat) (s : State) : Host.Outcome State Fault Refusal := runOn s (effSwap vd f)

/-- SEED_COPY_DONE: The seeding copy ends, and the device becomes PROTECTED at the next edge (R317). -/
def execSeedCopyDone (vd : Nat) (s : State) : Host.Outcome State Fault Refusal := runOn s (effSeedCopyDone vd)

/-- TWIN_VD_SWAP: A write of swap moves a PROTECTED MIRROR device to the twin by sending SWAP (R319). -/
def execTwinVdSwap (vd : Nat) (s : State) : Host.Outcome State Fault Refusal := runOn s (effTwinVdSwap vd)

/-- TWIN_VD_CLEAR: A DIVERGENT device's print is cleared and the device made PROTECTED at the edge ending C (R324). -/
def execTwinVdClear (vd f : Nat) (s : State) : Host.Outcome State Fault Refusal := runOn s (effTwinVdClear vd f)

/-- TWIN_INJ_PRINT: 1 is added to the next contact print that is sent (R328). -/
def execTwinInjPrint (s : State) : Host.Outcome State Fault Refusal := runOn s effTwinInjPrint

/-- TWIN_INJ_BEAT_STOP: No TWIN message is sent for one frame (R328). -/
def execTwinInjBeatStop (s : State) : Host.Outcome State Fault Refusal := runOn s effTwinInjBeatStop

end Sys2Proof.Machine
end

