-- ==== Sys2Proof/Machine/Dispatch.lean ====
section
/-!
DEFINITION. The dispatcher: one arm per command, each one call of its meaning.
-/
namespace Sys2Proof.Machine

/-- A command's effect on everything but the queue of waiting commands. -/
def exec (i : Instr) (s : State) : Host.Outcome State Fault Refusal :=
  match i with
  | .shutterWindow visits bad => Sys2Proof.Machine.execShutterWindow visits bad s
  | .pickupCutoff => Sys2Proof.Machine.execPickupCutoff s
  | .shutterEdge => Sys2Proof.Machine.execShutterEdge s
  | .tileReady c ac => Sys2Proof.Machine.execTileReady c ac s
  | .budgetOverrun c ac => Sys2Proof.Machine.execBudgetOverrun c ac s
  | .nop c => Sys2Proof.Machine.execNop c s
  | .tileEnd c => Sys2Proof.Machine.execTileEnd c s
  | .anchor c => Sys2Proof.Machine.execAnchor c s
  | .accClear c => Sys2Proof.Machine.execAccClear c s
  | .mma c => Sys2Proof.Machine.execMma c s
  | .accRead c => Sys2Proof.Machine.execAccRead c s
  | .vop c => Sys2Proof.Machine.execVop c s
  | .vred c => Sys2Proof.Machine.execVred c s
  | .convert c => Sys2Proof.Machine.execConvert c s
  | .copy c => Sys2Proof.Machine.execCopy c s
  | .fill c => Sys2Proof.Machine.execFill c s
  | .xferIn c => Sys2Proof.Machine.execXferIn c s
  | .xferOut c => Sys2Proof.Machine.execXferOut c s
  | .peerPush c => Sys2Proof.Machine.execPeerPush c s
  | .gather c => Sys2Proof.Machine.execGather c s
  | .reducePost c => Sys2Proof.Machine.execReducePost c s
  | .postStagingFree c => Sys2Proof.Machine.execPostStagingFree c s
  | .wait c => Sys2Proof.Machine.execWait c s
  | .waitResume c => Sys2Proof.Machine.execWaitResume c s
  | .signal c => Sys2Proof.Machine.execSignal c s
  | .pred c => Sys2Proof.Machine.execPred c s
  | .srset c => Sys2Proof.Machine.execSrset c s
  | .fence c => Sys2Proof.Machine.execFence c s
  | .opComplete c k held => Sys2Proof.Machine.execOpComplete c k held s
  | .injResidue c => Sys2Proof.Machine.execInjResidue c s
  | .injPlateCe c => Sys2Proof.Machine.execInjPlateCe c s
  | .injPlateUe c => Sys2Proof.Machine.execInjPlateUe c s
  | .injAccParity c => Sys2Proof.Machine.execInjAccParity c s
  | .tagFlush c => Sys2Proof.Machine.execTagFlush c s
  | .stewardInstruction s0 h e fetch => Sys2Proof.Machine.execStewardInstruction s0 h e fetch s
  | .tlcommit s0 h rd n ns => Sys2Proof.Machine.execTlcommit s0 h rd n ns s
  | .edgewait s0 h rd => Sys2Proof.Machine.execEdgewait s0 h rd s
  | .edgewaitResume s0 h => Sys2Proof.Machine.execEdgewaitResume s0 h s
  | .stewardReadDone s0 h => Sys2Proof.Machine.execStewardReadDone s0 h s
  | .injTcm s0 => Sys2Proof.Machine.execInjTcm s0 s
  | .memRequest write part off len cls req data errs at_ done => Sys2Proof.Machine.execMemRequest write part off len cls req data errs at_ done s
  | .enlargerEntryClose die line => Sys2Proof.Machine.execEnlargerEntryClose die line s
  | .memReadReturn line k errs now => Sys2Proof.Machine.execMemReadReturn line k errs now s
  | .scrubRead ch errs => Sys2Proof.Machine.execScrubRead ch errs s
  | .fillReport l => Sys2Proof.Machine.execFillReport l s
  | .clearingDone ch gib => Sys2Proof.Machine.execClearingDone ch gib s
  | .channelZeroed ch => Sys2Proof.Machine.execChannelZeroed ch s
  | .injHbmCe d => Sys2Proof.Machine.execInjHbmCe d s
  | .injHbmUe d => Sys2Proof.Machine.execInjHbmUe d s
  | .injDdrCe d => Sys2Proof.Machine.execInjDdrCe d s
  | .injDdrUe d => Sys2Proof.Machine.execInjDdrUe d s
  | .injDdrMac d => Sys2Proof.Machine.execInjDdrMac d s
  | .memLatRcRead die n cls => Sys2Proof.Machine.execMemLatRcRead die n cls s
  | .seqOpen => Sys2Proof.Machine.execSeqOpen s
  | .seqAppend => Sys2Proof.Machine.execSeqAppend s
  | .seqPull => Sys2Proof.Machine.execSeqPull s
  | .seqDemote => Sys2Proof.Machine.execSeqDemote s
  | .seqRemap => Sys2Proof.Machine.execSeqRemap s
  | .seqTruncate => Sys2Proof.Machine.execSeqTruncate s
  | .seqClose => Sys2Proof.Machine.execSeqClose s
  | .seqOffer => Sys2Proof.Machine.execSeqOffer s
  | .seqRenew => Sys2Proof.Machine.execSeqRenew s
  | .seqReclaim => Sys2Proof.Machine.execSeqReclaim s
  | .pullComplete id page => Sys2Proof.Machine.execPullComplete id page s
  | .demoteComplete id page => Sys2Proof.Machine.execDemoteComplete id page s
  | .holdLimit uid => Sys2Proof.Machine.execHoldLimit uid s
  | .tier2ReadFail x => Sys2Proof.Machine.execTier2ReadFail x s
  | .leaseExpiry id => Sys2Proof.Machine.execLeaseExpiry id s
  | .leaseOfferReceived sender seg epoch commitSeq expiry => Sys2Proof.Machine.execLeaseOfferReceived sender seg epoch commitSeq expiry s
  | .leaseAcceptReceived sender seg epoch commitSeq expiry => Sys2Proof.Machine.execLeaseAcceptReceived sender seg epoch commitSeq expiry s
  | .leaseReleaseReceived sender seg epoch commitSeq expiry => Sys2Proof.Machine.execLeaseReleaseReceived sender seg epoch commitSeq expiry s
  | .leaseEpochReceived sender seg epoch commitSeq expiry => Sys2Proof.Machine.execLeaseEpochReceived sender seg epoch commitSeq expiry s
  | .seqPoolWrite k pages value => Sys2Proof.Machine.execSeqPoolWrite k pages value s
  | .translationCompletion fn pasid page ok pa sizeLog rd wr => Sys2Proof.Machine.execTranslationCompletion fn pasid page ok pa sizeLog rd wr s
  | .prgResponse fn prg code => Sys2Proof.Machine.execPrgResponse fn prg code s
  | .priTimeout fn pasid page => Sys2Proof.Machine.execPriTimeout fn pasid page s
  | .invalidateRequest fn pasid base size tag => Sys2Proof.Machine.execInvalidateRequest fn pasid base size tag s
  | .xlatFlush value => Sys2Proof.Machine.execXlatFlush value s
  | .seamCrcFail d k dir g again => Sys2Proof.Machine.execSeamCrcFail d k dir g again s
  | .seamInjCrc d k => Sys2Proof.Machine.execSeamInjCrc d k s
  | .runReceived p sess skip resent raws => Sys2Proof.Machine.execRunReceived p sess skip resent raws s
  | .nakReceived p sess ack => Sys2Proof.Machine.execNakReceived p sess ack s
  | .ackTimeout p sess => Sys2Proof.Machine.execAckTimeout p sess s
  | .laneDropDone p trips => Sys2Proof.Machine.execLaneDropDone p trips s
  | .linkTrained p rate width trips chal => Sys2Proof.Machine.execLinkTrained p rate width trips chal s
  | .trainFail p => Sys2Proof.Machine.execTrainFail p s
  | .authReceived p sess mid port code serial epoch challenge chal => Sys2Proof.Machine.execAuthReceived p sess mid port code serial epoch challenge chal s
  | .proofReceived p sess tag => Sys2Proof.Machine.execProofReceived p sess tag s
  | .authRetry p sess chal => Sys2Proof.Machine.execAuthRetry p sess chal s
  | .runCounterEnd p sess chal => Sys2Proof.Machine.execRunCounterEnd p sess chal s
  | .tickMarkReceived p frame root tree hop launch arrival => Sys2Proof.Machine.execTickMarkReceived p frame root tree hop launch arrival s
  | .tickMarkTimeout => Sys2Proof.Machine.execTickMarkTimeout s
  | .holdoverEnter => Sys2Proof.Machine.execHoldoverEnter s
  | .slotsHeld => Sys2Proof.Machine.execSlotsHeld s
  | .relock => Sys2Proof.Machine.execRelock s
  | .tickOrphan => Sys2Proof.Machine.execTickOrphan s
  | .tickRelockRequest up => Sys2Proof.Machine.execTickRelockRequest up s
  | .skewExceeded => Sys2Proof.Machine.execSkewExceeded s
  | .tickRefPulse off => Sys2Proof.Machine.execTickRefPulse off s
  | .tickRefLost => Sys2Proof.Machine.execTickRefLost s
  | .ptpSyncReceived p domain seqNo twoStep origin corr rx => Sys2Proof.Machine.execPtpSyncReceived p domain seqNo twoStep origin corr rx s
  | .ptpFollowUpReceived p domain seqNo origin corr => Sys2Proof.Machine.execPtpFollowUpReceived p domain seqNo origin corr s
  | .ptpDelayReqReceived p domain seqNo ident corr rx => Sys2Proof.Machine.execPtpDelayReqReceived p domain seqNo ident corr rx s
  | .ptpDelayRespReceived p domain seqNo t4 corr => Sys2Proof.Machine.execPtpDelayRespReceived p domain seqNo t4 corr s
  | .ptpSyncSend p => Sys2Proof.Machine.execPtpSyncSend p s
  | .ptpDelayReqSend p tx => Sys2Proof.Machine.execPtpDelayReqSend p tx s
  | .ptpSyncTimeout => Sys2Proof.Machine.execPtpSyncTimeout s
  | .slotStart p slot launch => Sys2Proof.Machine.execSlotStart p slot launch s
  | .messageRoute => Sys2Proof.Machine.execMessageRoute s
  | .ethFrameReceived p frame => Sys2Proof.Machine.execEthFrameReceived p frame s
  | .ethFrameTimeout p sess => Sys2Proof.Machine.execEthFrameTimeout p sess s
  | .portDown p cause => Sys2Proof.Machine.execPortDown p cause s
  | .linkEnableWrite p on => Sys2Proof.Machine.execLinkEnableWrite p on s
  | .linkRetrain p => Sys2Proof.Machine.execLinkRetrain p s
  | .linkInjCrc p => Sys2Proof.Machine.execLinkInjCrc p s
  | .linkInjTag p => Sys2Proof.Machine.execLinkInjTag p s
  | .recalibrationSlice port k => Sys2Proof.Machine.execRecalibrationSlice port k s
  | .collDefine => Sys2Proof.Machine.execCollDefine s
  | .collDestroy => Sys2Proof.Machine.execCollDestroy s
  | .chunkReceived port entry src => Sys2Proof.Machine.execChunkReceived port entry src s
  | .instanceComplete port id => Sys2Proof.Machine.execInstanceComplete port id s
  | .collTimeout port id => Sys2Proof.Machine.execCollTimeout port id s
  | .collAbortReceived src id inst => Sys2Proof.Machine.execCollAbortReceived src id inst s
  | .submitImage slot k => Sys2Proof.Machine.execSubmitImage slot k s
  | .storeProfile slot k => Sys2Proof.Machine.execStoreProfile slot k s
  | .applyProfile slot k => Sys2Proof.Machine.execApplyProfile slot k s
  | .cancel slot k => Sys2Proof.Machine.execCancel slot k s
  | .validationDone slot ecdsa hss => Sys2Proof.Machine.execValidationDone slot ecdsa hss s
  | .profileCommitted slot => Sys2Proof.Machine.execProfileCommitted slot s
  | .slotRelease slot => Sys2Proof.Machine.execSlotRelease slot s
  | .armFire relay nDest => Sys2Proof.Machine.execArmFire relay nDest s
  | .armReceived id => Sys2Proof.Machine.execArmReceived id s
  | .statusReceived state code id => Sys2Proof.Machine.execStatusReceived state code id s
  | .tallyReset id => Sys2Proof.Machine.execTallyReset id s
  | .migStart d i0 => Sys2Proof.Machine.execMigStart d i0 s
  | .migRelease d i0 => Sys2Proof.Machine.execMigRelease d i0 s
  | .migCancel d i0 => Sys2Proof.Machine.execMigCancel d i0 s
  | .migSliceDone d i0 errs => Sys2Proof.Machine.execMigSliceDone d i0 errs s
  | .hello frame mid claimed serial claimedSerial period digest => Sys2Proof.Machine.execHello frame mid claimed serial claimedSerial period digest s
  | .join j echo => Sys2Proof.Machine.execJoin j echo s
  | .beat => Sys2Proof.Machine.execBeat s
  | .neg vd f recs trailer => Sys2Proof.Machine.execNeg vd f recs trailer s
  | .mwrite vd f off data => Sys2Proof.Machine.execMwrite vd f off data s
  | .print vd f print flags tiles => Sys2Proof.Machine.execPrint vd f print flags tiles s
  | .sync vd digest counts => Sys2Proof.Machine.execSync vd digest counts s
  | .failed => Sys2Proof.Machine.execFailed s
  | .detach => Sys2Proof.Machine.execDetach s
  | .resetReq => Sys2Proof.Machine.execResetReq s
  | .swap vd f => Sys2Proof.Machine.execSwap vd f s
  | .seedCopyDone vd => Sys2Proof.Machine.execSeedCopyDone vd s
  | .twinVdSwap vd => Sys2Proof.Machine.execTwinVdSwap vd s
  | .twinVdClear vd f => Sys2Proof.Machine.execTwinVdClear vd f s
  | .twinInjPrint => Sys2Proof.Machine.execTwinInjPrint s
  | .twinInjBeatStop => Sys2Proof.Machine.execTwinInjBeatStop s
  | .pcieLinkChange gen lanes => Sys2Proof.Machine.execPcieLinkChange gen lanes s
  | .vfEnableWrite en ari numVfs bar => Sys2Proof.Machine.execVfEnableWrite en ari numVfs bar s
  | .vfMboxSend v => Sys2Proof.Machine.execVfMboxSend v s
  | .vfMboxInAck v => Sys2Proof.Machine.execVfMboxInAck v s
  | .pfMboxAck => Sys2Proof.Machine.execPfMboxAck s
  | .pfMboxSend => Sys2Proof.Machine.execPfMboxSend s
  | .windowAccess fn write off len data => Sys2Proof.Machine.execWindowAccess fn write off len data s
  | .atomicOpReceived => Sys2Proof.Machine.execAtomicOpReceived s
  | .msixUnmask fn w => Sys2Proof.Machine.execMsixUnmask fn w s
  | .ideInsecure stream => Sys2Proof.Machine.execIdeInsecure stream s
  | .tail fn slot v upper => Sys2Proof.Machine.execTail fn slot v upper s
  | .ref fn slot value upper => Sys2Proof.Machine.execRef fn slot value upper s
  | .unref fn slot value upper => Sys2Proof.Machine.execUnref fn slot value upper s
  | .abort fn slot i0 upper => Sys2Proof.Machine.execAbort fn slot i0 upper s
  | .qcHead fn slot v => Sys2Proof.Machine.execQcHead fn slot v s
  | .hostRefWrite value upper => Sys2Proof.Machine.execHostRefWrite value upper s
  | .hostEnable => Sys2Proof.Machine.execHostEnable s
  | .hostLock => Sys2Proof.Machine.execHostLock s
  | .execCommand => Sys2Proof.Machine.execExecCommand s
  | .signalCommand => Sys2Proof.Machine.execSignalCommand s
  | .create => Sys2Proof.Machine.execCreate s
  | .moveCtx => Sys2Proof.Machine.execMoveCtx s
  | .loseCtx => Sys2Proof.Machine.execLoseCtx s
  | .badKindCommand => Sys2Proof.Machine.execBadKindCommand s
  | .errorLogRecord e => Sys2Proof.Machine.execErrorLogRecord e s
  | .logDrain die => Sys2Proof.Machine.execLogDrain die s
  | .ringHeadWrite v => Sys2Proof.Machine.execRingHeadWrite v s
  | .historyWindowClose row unit => Sys2Proof.Machine.execHistoryWindowClose row unit s
  | .moraineRemove => Sys2Proof.Machine.execMoraineRemove s
  | .faultReportSend => Sys2Proof.Machine.execFaultReportSend s
  | .faultReportReceived cls cause ut unit subject frame reporter => Sys2Proof.Machine.execFaultReportReceived cls cause ut unit subject frame reporter s
  | .damperUpdate cls ut unit subject => Sys2Proof.Machine.execDamperUpdate cls ut unit subject s
  | .damperEntryClose cls ut unit subject => Sys2Proof.Machine.execDamperEntryClose cls ut unit subject s
  | .damperOverflowReport => Sys2Proof.Machine.execDamperOverflowReport s
  | .powerEstimate x => Sys2Proof.Machine.execPowerEstimate x s
  | .beResume => Sys2Proof.Machine.execBeResume s
  | .calibration l => Sys2Proof.Machine.execCalibration l s
  | .clampTrip rail => Sys2Proof.Machine.execClampTrip rail s
  | .clampRelease rail held => Sys2Proof.Machine.execClampRelease rail held s
  | .railFault rail => Sys2Proof.Machine.execRailFault rail s
  | .inputOutOfRange removed => Sys2Proof.Machine.execInputOutOfRange removed s
  | .converterFail conv => Sys2Proof.Machine.execConverterFail conv s
  | .tempSample l => Sys2Proof.Machine.execTempSample l s
  | .thermtrip => Sys2Proof.Machine.execThermtrip s
  | .pwrCapWrite w => Sys2Proof.Machine.execPwrCapWrite w s
  | .pwrPeakWrite w => Sys2Proof.Machine.execPwrPeakWrite w s
  | .capInForce => Sys2Proof.Machine.execCapInForce s
  | .setNumericEffecterValue id value => Sys2Proof.Machine.execSetNumericEffecterValue id value s
  | .getSensorReading id => Sys2Proof.Machine.execGetSensorReading id s
  | .getStateSensorReadings id => Sys2Proof.Machine.execGetStateSensorReadings id s
  | .revocationSubmit ecdsa hss => Sys2Proof.Machine.execRevocationSubmit ecdsa hss s
  | .getVersion tr => Sys2Proof.Machine.execGetVersion tr s
  | .getCapabilities tr => Sys2Proof.Machine.execGetCapabilities tr s
  | .negotiateAlgorithms tr offer => Sys2Proof.Machine.execNegotiateAlgorithms tr offer s
  | .getDigests tr sess => Sys2Proof.Machine.execGetDigests tr sess s
  | .getCertificate tr sess slot off len => Sys2Proof.Machine.execGetCertificate tr sess slot off len s
  | .challenge tr slot => Sys2Proof.Machine.execChallenge tr slot s
  | .getMeasurements tr sess idx sign => Sys2Proof.Machine.execGetMeasurements tr sess idx sign s
  | .keyExchange tr => Sys2Proof.Machine.execKeyExchange tr s
  | .finish k ok => Sys2Proof.Machine.execFinish k ok s
  | .keyUpdate k => Sys2Proof.Machine.execKeyUpdate k s
  | .endSession k => Sys2Proof.Machine.execEndSession k s
  | .getHssEndorsement tr sess => Sys2Proof.Machine.execGetHssEndorsement tr sess s
  | .getHssSignature tr sess => Sys2Proof.Machine.execGetHssSignature tr sess s
  | .ideKmQuery sess => Sys2Proof.Machine.execIdeKmQuery sess s
  | .ideKmKeyProg sess stream set lo hi => Sys2Proof.Machine.execIdeKmKeyProg sess stream set lo hi s
  | .ideKmKSetGo sess stream set => Sys2Proof.Machine.execIdeKmKSetGo sess stream set s
  | .ideKmKSetStop sess stream set => Sys2Proof.Machine.execIdeKmKSetStop sess stream set s
  | .lcsTokenGo ecdsa hss => Sys2Proof.Machine.execLcsTokenGo ecdsa hss s
  | .newChallenge rnd => Sys2Proof.Machine.execNewChallenge rnd s
  | .debugRelock => Sys2Proof.Machine.execDebugRelock s
  | .fusePulseDone rev ok => Sys2Proof.Machine.execFusePulseDone rev ok s
  | .powerOn cleared => Sys2Proof.Machine.execPowerOn cleared s
  | .railsInRegulation => Sys2Proof.Machine.execRailsInRegulation s
  | .pwrEnLow => Sys2Proof.Machine.execPwrEnLow s
  | .rstNAssert => Sys2Proof.Machine.execRstNAssert s
  | .perstAssert => Sys2Proof.Machine.execPerstAssert s
  | .perstDeassert => Sys2Proof.Machine.execPerstDeassert s
  | .hotReset => Sys2Proof.Machine.execHotReset s
  | .pfFlr => Sys2Proof.Machine.execPfFlr s
  | .vfFlr v => Sys2Proof.Machine.execVfFlr v s
  | .hostResetComplete => Sys2Proof.Machine.execHostResetComplete s
  | .moduleReset w => Sys2Proof.Machine.execModuleReset w s
  | .holdoffStart program => Sys2Proof.Machine.execHoldoffStart program s
  | .internalResetAssert us => Sys2Proof.Machine.execInternalResetAssert us s
  | .internalResetRelease slot => Sys2Proof.Machine.execInternalResetRelease slot s
  | .bringupStepEnd f => Sys2Proof.Machine.execBringupStepEnd f s
  | .watchdogExpiry => Sys2Proof.Machine.execWatchdogExpiry s
  | .swrstCounters blk i0 => Sys2Proof.Machine.execSwrstCounters blk i0 s
  | .swrstUnit blk i0 => Sys2Proof.Machine.execSwrstUnit blk i0 s
  | .swrstUnitDone => Sys2Proof.Machine.execSwrstUnitDone s
  | .journalCommit => Sys2Proof.Machine.execJournalCommit s
  | .flashProgramDone copy ok => Sys2Proof.Machine.execFlashProgramDone copy ok s
  | .flashEraseDone => Sys2Proof.Machine.execFlashEraseDone s
  | .fwActivate part slot ecdsa hss => Sys2Proof.Machine.execFwActivate part slot ecdsa hss s
  | .fwReady part => Sys2Proof.Machine.execFwReady part s
  | .fwTrialTimeout part ecdsa hss => Sys2Proof.Machine.execFwTrialTimeout part ecdsa hss s
  | .requestUpdate => Sys2Proof.Machine.execRequestUpdate s
  | .passComponentTable ids => Sys2Proof.Machine.execPassComponentTable ids s
  | .updateComponent id => Sys2Proof.Machine.execUpdateComponent id s
  | .transferComplete data ecdsa hss => Sys2Proof.Machine.execTransferComplete data ecdsa hss s
  | .verifyComplete => Sys2Proof.Machine.execVerifyComplete s
  | .applyComplete => Sys2Proof.Machine.execApplyComplete s
  | .activateFirmware selfContained sigs => Sys2Proof.Machine.execActivateFirmware selfContained sigs s
  | .ddrOffline ch => Sys2Proof.Machine.execDdrOffline ch s
  | .ddrOnline ch => Sys2Proof.Machine.execDdrOnline ch s
  | .dimmPowerWaitDone gib speed x8 serial => Sys2Proof.Machine.execDimmPowerWaitDone gib speed x8 serial s
  | .ddrTrainingDone ok => Sys2Proof.Machine.execDdrTrainingDone ok s
  | .ddrInitDone => Sys2Proof.Machine.execDdrInitDone s
  | .getStatus tag => Sys2Proof.Machine.execGetStatus tag s
  | .readReg tag off => Sys2Proof.Machine.execReadReg tag off s
  | .writeReg tag off value facts => Sys2Proof.Machine.execWriteReg tag off value facts s
  | .mgmtMemRead tag off len => Sys2Proof.Machine.execMgmtMemRead tag off len s
  | .mgmtMemWrite tag off data => Sys2Proof.Machine.execMgmtMemWrite tag off data s
  | .mgmtReset tag => Sys2Proof.Machine.execMgmtReset tag s
  | .token tag bytes ecdsa hss => Sys2Proof.Machine.execToken tag bytes ecdsa hss s
  | .debugCommand tag s0 cmd => Sys2Proof.Machine.execDebugCommand tag s0 cmd s
  | .traceRead tag core len => Sys2Proof.Machine.execTraceRead tag core len s
  | .setProfile tag k clear => Sys2Proof.Machine.execSetProfile tag k clear s
  | .writeSlot tag part slot off data last ecdsa hss => Sys2Proof.Machine.execWriteSlot tag part slot off data last ecdsa hss s
  | .formatJournal tag => Sys2Proof.Machine.execFormatJournal tag s
  | .mgmtCtrlReceived src tag cmd => Sys2Proof.Machine.execMgmtCtrlReceived src tag cmd s
  | .i3cEntdaa addr => Sys2Proof.Machine.execI3cEntdaa addr s
  | .twinPresentChange present => Sys2Proof.Machine.execTwinPresentChange present s
  | .registerWrite space off len write value facts => Sys2Proof.Machine.execRegisterWrite space off len write value facts s
  | .priEnableWrite fn alloc => Sys2Proof.Machine.execPriEnableWrite fn alloc s
  | .mctpControl cmd data => Sys2Proof.Machine.execMctpControl cmd data s

end Sys2Proof.Machine
end

