-- ==== Sys2Proof/Safety.lean ====
section
/-!
DEFINITION. The terms in which claims speak: that a command completes, which commands act while the internal reset is
asserted, which tile the sequencer starts, that the fuses keep what was programmed, and that memory and the sparse maps
hold their canonical form.
-/
namespace Sys2Proof.Machine

/-- The command completes in `t`: a next state, no stop. -/
def Completes (i : Instr) (s t : State) : Prop := exec i s = .next t

/-- The internal reset is not asserted. -/
def Live (s : State) : Prop := s.m.rst.inReset = false

/-- The state after an effect on the module: the fuses and the waiting commands are as they were. -/
def State.after (s : State) (f : Module → Module) : State := { s with m := f s.m }

/-- The commands that act while the internal reset is asserted: those of the input power, the pins and the reset itself. -/
def actsInReset : Instr → Bool
  | .railFault _ => true
  | .inputOutOfRange _ => true
  | .converterFail _ => true
  | .thermtrip => true
  | .powerOn _ => true
  | .railsInRegulation => true
  | .pwrEnLow => true
  | .rstNAssert => true
  | .perstAssert => true
  | .perstDeassert => true
  | .holdoffStart _ => true
  | .internalResetAssert _ => true
  | .internalResetRelease _ => true
  | .twinPresentChange _ => true
  | _ => false

/-- The command by which core `c` issues an op. -/
def opCommand (c : Nat) : OpBody → Instr
  | .nop _ => .nop c
  | .endOp => .tileEnd c
  | .anchor _ => .anchor c
  | .accClear _ => .accClear c
  | .mma _ => .mma c
  | .accRead _ => .accRead c
  | .vop _ => .vop c
  | .vred _ => .vred c
  | .convert _ => .convert c
  | .copy .. => .copy c
  | .fill .. => .fill c
  | .xferIn _ => .xferIn c
  | .xferOut _ => .xferOut c
  | .peerPush _ => .peerPush c
  | .gather _ => .gather c
  | .reducePost _ => .reducePost c
  | .wait .. => .wait c
  | .signal .. => .signal c
  | .pred _ => .pred c
  | .srset .. => .srset c
  | .fence => .fence c

/-- Tile `t`, behind the tiles `before` in the lists, is on core `c`'s list of class `be`, ready, and fits at cycle `ac`
(R15); its command is picked up and its device runs here. -/
def CanStart (m : Module) (c ac : Nat) (be : Bool) (before : List Tile) (t : Tile) : Prop :=
  t.core = c ∧ t.be = be ∧ t.joined = true ∧ m.depsMet t = true ∧
  (∀ b ∈ before, b.sameStream t = true → b.joined = false) ∧
  ac + t.hdr.declared ≤ m.limitAc c ∧ m.runsVd t.vd = true ∧
  ∀ q i, t.cmdKey = some (q, i) → m.wordState q i = cswPICKED

/-- Tile `t` is the first of its class that can start on core `c` at cycle `ac`. -/
def FirstStart (m : Module) (c ac : Nat) (be : Bool) (t : Tile) : Prop :=
  ∃ pre post : List Tile, m.lists = pre ++ t :: post ∧ CanStart m c ac be pre t ∧
    ∀ (p q : List Tile) (u : Tile), pre = p ++ u :: q → ¬ CanStart m c ac be p u

/-- No tile of a class can start on core `c` at cycle `ac`. -/
def NoneStarts (m : Module) (c ac : Nat) (be : Bool) : Prop :=
  ∀ (p q : List Tile) (u : Tile), m.lists = p ++ u :: q → ¬ CanStart m c ac be p u

/-- The word at a place of the fuses. -/
def State.fuseAt (s : State) (w : Nat) : Nat := SMap.get (fun _ => 0) s.otp.words w

/-- Every fuse bit of `base` is programmed in `s`. -/
def FusesHold (base s : State) : Prop := ∀ w b : Nat, (base.fuseAt w).testBit b = true → (s.fuseAt w).testBit b = true

/-- The fuse words are in their canonical form. -/
def State.fusesWf (s : State) : Bool := SMap.wf (fun _ => 0) s.otp.words

/-- The module's memory, the host's and the twin's are in canonical form. -/
def State.memWf (s : State) : Bool := s.m.mem.bytes.wf && s.m.hostMem.wf && s.m.twinMem.wf

/-- What the module and the fuses are, without the queue of waiting commands. -/
def State.sameBlock (s t : State) : Prop := s.m = t.m ∧ s.otp = t.otp

end Sys2Proof.Machine
end

