-- ==== Sys2Proof/Certificates/Slice0/Obligations.lean ====
section
/-!
DEFINITION. The statements for the provers: what the commands do, family by family, and what every command and every step
leaves as it was.
-/
open Sys2Proof Sys2Proof.Machine

/-- For every command c and state s, a step of s with c put at the front of its queue is exec c on s, whose queue is the
rest. -/
def Obligations.FrontCommandActs : Prop :=
  ∀ (c : Instr) (s : State), step { s with pending := c :: s.pending } = exec c s

/-- For every command with any operands and every state there is a next state that exec answers, and the waiting commands
in it are those of the state: no command ends in a fault or a refusal (the model's choice, DEDUCED in log entry 14),
and none waits, adds or drops a command. -/
def Obligations.EveryCommandAnswersNext : Prop :=
  ∀ (c : Instr) (s : State), ∃ t : State, exec c s = .next t ∧ t.pending = s.pending

/-- If a command acts from a state to t, then from the same state with any other queue it acts to t with that other queue:
the block behaves the same whatever commands wait. A step of a state whose queue is empty answers that state itself
(the model's choice, log entry 1). -/
def Obligations.WaitingCommandsDoNotMatter : Prop :=
  (∀ (c : Instr) (s t : State) (q : List Instr), exec c s = .next t →
      exec c { s with pending := q } = .next { t with pending := q }) ∧
    ∀ s : State, s.pending = [] → step s = .next s

/-- While the internal reset is asserted, every domain but management, root of trust and tick is stopped: every command
other than those of the input power, the pins and the reset itself leaves the whole state as it is. (That those other
domains take no command then is the model's reading.) -/
def Obligations.InternalResetStopsTheBlock : Prop :=
  ∀ (c : Instr) (s : State), s.m.rst.inReset = true → actsInReset c = false → exec c s = .next s

/-- Every command but FUSE_PULSE_DONE leaves every fuse word as it is, resets included; and, with the fuse words in
canonical form, FUSE_PULSE_DONE changes only the word whose burn is under way, and only when the pulsed bit
programmed, to its value with that one bit set. -/
def Obligations.OnlyFusePulsesProgramFuses : Prop :=
  (∀ (c : Instr) (s t : State), exec c s = .next t → (∀ rev ok, c ≠ .fusePulseDone rev ok) → t.otp = s.otp) ∧
    ∀ (rev ok : Bool) (s t : State), s.fusesWf = true → exec (.fusePulseDone rev ok) s = .next t → t.otp ≠ s.otp →
      ∃ (b : Burn) (n : Nat), (if rev then s.m.sec.revBurn else s.m.sec.burn) = some b ∧ b.pulse = some n ∧ ok = true ∧
        t.otp = { s.otp with words := SMap.set (fun _ => 0) s.otp.words b.word (s.fuseAt b.word ||| 2 ^ n) }

/-- For every state whose fuse words are in canonical form and hold every bit that a base state has programmed, and every
step to a next state, the fuse words of the next state are in canonical form and still hold every one of those bits:
fuses only ever turn from 0 to 1, whatever is commanded, resets and power loss included. -/
def Obligations.ProgrammedFusesStay : Prop :=
  ∀ base s t : State, s.fusesWf = true → FusesHold base s → step s = .next t → t.fusesWf = true ∧ FusesHold base t

/-- At State.reset the fuse words are in canonical form, and each life-cycle word reads 0x00 or 0xA5, so that the life-
cycle state decodes as a state other than INVALID. Which state the modelled part is in is the model's choice (log
entry 8). -/
def Obligations.ResetFusesInForm : Prop :=
  State.reset.fusesWf = true ∧ (∀ w < 7, State.reset.fuseAt w = 0 ∨ State.reset.fuseAt w = 0xA5) ∧
    lcDecode State.reset.fuseAt ≠ 7

/-- After reset no command waits and no memory byte is listed, the tick runs free at frame 0, no context, queue, memory
object or timeline exists, no composition is in force, and registers read their reset values: RST_CAUSE.first 1,
RST_SOURCES 0x0002, hotrst_scope 1, perst_scope 0, RST_BRINGUP.step 1, RST_WDT.timeout_s 4, RST_HOLDOFF 0, PWR_THERM
warn 100 and throttle 105, HOST_CTRL 0. -/
def Obligations.ResetState : Prop :=
  State.reset.pending = [] ∧ State.reset.m.mem.bytes = [] ∧ State.reset.m.tick.frame = 0 ∧
    State.reset.m.tick.state = .freeRun ∧ State.reset.m.obj = Objects.init ∧ State.reset.m.comp.recs = [] ∧
    State.reset.m.fld RST_CAUSE_first = 1 ∧ State.reset.m.reg RST_SOURCES = 2 ∧
    State.reset.m.fld RST_CFG_hotrst_scope = 1 ∧ State.reset.m.fld RST_CFG_perst_scope = 0 ∧
    State.reset.m.fld RST_BRINGUP_step = 1 ∧ State.reset.m.fld RST_WDT_timeout_s = 4 ∧ State.reset.m.reg RST_HOLDOFF = 0 ∧
    State.reset.m.fld PWR_THERM_warn_c = 100 ∧ State.reset.m.fld PWR_THERM_throttle_c = 105 ∧ State.reset.m.reg HOST_CTRL = 0

/-- A 32-bit write to any of GLB_EVENT, TICK_EVENT, COMP_EVENT, COMP_ARM_EVENT, HOST_EVENT, XLAT_EVENT, RAS_EVENT,
PWR_EVENT, SEC_EVENT, LCS_EVENT, RST_EVENT, NVJ_EVENT, TWIN_EVENT and SEQ_EVENT completes: bits written 1 in the event
fields clear, event bits written 0 and reserved bits keep, every other register reads as before, and nothing but the
registers changes; while the traffic of the PF is not accepted (R344) the write changes nothing. A write that is not
an aligned access of 32 or of 64 bits, to any space and offset of a function whose traffic is accepted, changes
nothing. -/
def Obligations.EventBitsClearByWritingOne : Prop :=
  (∀ (s : State) (sp off len v : Nat) (f : WriteFacts), Live s → s.m.trafficOk (if sp = 65 then 0 else sp) = true → ¬ (len = 4 ∧ off % 4 = 0) → ¬ (len = 8 ∧ off % 8 = 0) →
    exec (.registerWrite sp off len true v f) s = .next s) ∧
  ∀ (s : State) (off v : Nat) (f : WriteFacts), Live s → SMap.wf regReset s.m.regs = true → v < 2 ^ 32 →
    (s.m.trafficOk 0 = false → exec (.registerWrite 0 off 4 true v f) s = .next s) ∧
    (s.m.trafficOk 0 = true → off ∈ [GLB_EVENT, TICK_EVENT, COMP_EVENT, COMP_ARM_EVENT, HOST_EVENT, XLAT_EVENT, RAS_EVENT, PWR_EVENT, SEC_EVENT,
      LCS_EVENT, RST_EVENT, NVJ_EVENT, TWIN_EVENT, SEQ_EVENT] →
    ∃ (d : RegDesc) (t : State), descOf off = some d ∧ exec (.registerWrite 0 off 4 true v f) s = .next t ∧
      t = { s with m := { s.m with regs := t.m.regs } } ∧
      (∀ i < 32, (t.m.reg off).testBit i = ((s.m.reg off).testBit i && !(v.testBit i && d.w1c.testBit i))) ∧
      ∀ other, other ≠ off → t.m.reg other = s.m.reg other)

/-- READ_REG of GLB_BOARD (offset 0x100), once the management firmware answers, completes with status OK and a word that
holds SLOT_ID in bits 5 to 0, 1 in bit 6 while TWIN_PRESENT_N is low, in bit 7 while ALERT_N reads low (driven by the
module, or by another driver, of which the model knows a free value alone), in bit 8 while RST_N reads low from any
driver, and 0 in bits 31 to 9; nothing else changes but the count of free values. SLOT_ID is sampled when the internal
reset ends and step 1 begins, and twin_present follows its pin at any time. -/
def Obligations.BoardRegisterShowsThePins : Prop :=
  (∀ (s : State) (tag : Nat), s.m.mgmtUp = true → s.m.pins.slotId < 64 →
    exec (.readReg tag 0x100) s = .next (s.after (fun m => ({ m with free := m.free + 1 } : Module).emit (.response 0
      (leBytes 1 0x82 ++ leBytes 1 tag ++ [0, 0] ++ leBytes 4
        (m.pins.slotId + 2 ^ 6 * b2n m.pins.twinPresent + 2 ^ 7 * b2n (m.pins.alert || Config.freeNat m.free 0 % 2 == 1) +
          2 ^ 8 * b2n (m.pins.rstExt || m.pins.rstOwn))))))) ∧
    (∀ (s : State) (slot : Nat), slot < 64 → s.m.rst.good = true → s.m.rst.inReset = true →
      ∃ t : State, exec (.internalResetRelease slot) s = .next t ∧ t.m.pins.slotId = slot ∧ t.m.rst.stepNo = 1 ∧ Live t) ∧
    ∀ (s : State) (b : Bool), ∃ t : State, exec (.twinPresentChange b) s = .next t ∧
      t.m.pins = { s.m.pins with twinPresent := b }

/-- With the frame open and core c idle and not clearing, TILE_READY at cycle ac completes: the first tile of the core's
LC list that is ready and fits starts at ac with its op index, flags, predicates and SRSET values zero and leaves the
lists, and the fog of its core stops; when no LC tile can start, and BE is not suspended on the die, the first such BE
tile starts; when neither can, the core stays idle. The other tiles keep their order, every other core and device
memory are unchanged. -/
def Obligations.SequencerStartsFirstThatFits : Prop :=
  ∀ (s : State) (c ac : Nat), Live s → s.m.rst.hold = none → s.m.tick.phase = .open_ → (s.m.core c).run = none →
    (s.m.core c).clearing = false →
    let m := s.m.setTick (fun t => { t with ns := ac * 1000 / s.m.blockMHz c })
    (∀ t, FirstStart s.m c ac false t ∨
        (NoneStarts s.m c ac false ∧ s.m.flag (PWR_DIE_be_suspended (c / 128)) = false ∧ FirstStart s.m c ac true t) →
      exec (.tileReady c ac) s = .next (s.after (fun _ =>
        (({ m with lists := m.lists.filter (fun x => x.uid != t.uid) } : Module).modCore c
          (fun k => { k with run := some (runInit t ac), acc := none, lastCtx := some t.ctx })).fogStop c))) ∧
    (NoneStarts s.m c ac false →
      (s.m.flag (PWR_DIE_be_suspended (c / 128)) = true ∨ NoneStarts s.m c ac true) →
      exec (.tileReady c ac) s = .next (s.after (fun _ => m)))

/-- When the op next to issue on a core meets no hazard and its predicate control selects it off, the command that issues
it completes with the op in flight as an empty op without flags and the op index one on, and nothing else changes but
the count of cycles that a core gated by its duty has used (END, FENCE and WAIT have no predicate and are not in this
case). When it is selected, NOP and FENCE change nothing more than the op index and the ops in flight, SIGNAL adds its
timeline and value to the signals kept until END, SRSET sets the seed and the index base and stride, and PRED sets its
destination predicate to its result; the plate, the accumulator, tags, posts, device memory and every other core are
unchanged. -/
def Obligations.OpsIssueInOrder : Prop :=
  ∀ (s : State) (c : Nat) (r : Running) (op : TileOp), Live s → (s.m.core c).run = some r → r.nextOp = some op →
    s.m.canIssue c r op = true →
    let issued (on : Bool) (f : Running → Running) : State := s.after (fun m => (m.noteIssue c).modRun c (fun r =>
      { f r with next := r.next + 1,
                 inflight := r.inflight ++ [{ idx := r.next, on := on, flags := flags0, moved := true }] }))
    (op.selected r.preds = false →
      (match op.body with | .endOp => False | .fence => False | .wait _ _ _ => False | _ => True) →
      exec (opCommand c op.body) s = .next (issued false id)) ∧
    (op.selected r.preds = true → op.readsPlate = false →
      (∀ k, op.body = .nop k → exec (.nop c) s = .next (issued true id)) ∧
      (op.body = .fence → exec (.fence c) s = .next (issued true id)) ∧
      (∀ tl v, op.body = .signal tl v → exec (.signal c) s =
        .next (issued true (fun r => { r with signals := r.signals ++ [(tl, v)] }))) ∧
      (∀ seed base stride, op.body = .srset seed base stride → exec (.srset c) s =
        .next (issued true (fun r => { r with seed := seed, idxBase := base, idxStride := stride }))) ∧
      (∀ o, op.body = .pred o → exec (.pred c) s = .next (issued true (fun x =>
        { x with preds := putField x.preds o.pdst 1 (b2n ((s.m.core c).predResult o r.status r.preds)) }))))

/-- On a core with no injected error, when the op next to issue meets no hazard and is selected, its command completes.
COPY, FILL, VOP, VRED and CONVERT write their result bytes to their destination lines; ANCHOR and ACC_CLEAR set the
accumulator; MMA adds its products to it; ACC_READ writes the rows of its region; a WAIT whose timeline has reached
its value goes on, and one whose timeline has not stalls the issue. In each case the op is in flight with its flags
and the op index is one on, and nothing else changes but the count of cycles that a core gated by its duty has used.
The transfer ops move their data and are in flight, or end the attempt, as their own movement decides. Where the
accumulator is undefined its contents are free values. -/
def Obligations.ComputeOpsGiveTheirResults : Prop :=
  ∀ (s : State) (c : Nat) (r : Running) (op : TileOp), Live s → (s.m.core c).run = some r → r.nextOp = some op →
    s.m.canIssue c r op = true → op.selected r.preds = true → (s.m.core c).injPlateUe = false →
    (s.m.core c).injPlateCe = false → (s.m.core c).injAccParity = false → (s.m.core c).injResidue = false →
    let m0 := s.m.noteIssue c
    let k := s.m.core c
    let acc := m0.accOf c
    let done (m : Module) (f : Flags) : State := s.after (fun _ => m.modRun c (fun x =>
      { x with next := r.next + 1, inflight := x.inflight ++ [{ idx := r.next, on := true, flags := f, moved := true }] }))
    (∀ a d n, op.body = .copy a d n →
      exec (.copy c) s = .next (done (m0.plateWrite c d (k.readPlate a (64 * n)) 0 0) flags0)) ∧
    (∀ d n p, op.body = .fill d n p → exec (.fill c) s =
      .next (done (m0.plateWrite c d ((List.replicate (16 * n) (leBytes 4 p)).flatten) 0 0) flags0)) ∧
    (∀ o, op.body = .vop o → let v := k.vop o r.seed r.idxBase r.idxStride
      exec (.vop c) s = .next (done (m0.plateWrite c o.dLine v.1 0 0) v.2)) ∧
    (∀ o, op.body = .vred o → exec (.vred c) s = .next (done (m0.plateWrite c o.dstLine (k.vred o).1 0 0) (k.vred o).2)) ∧
    (∀ o, op.body = .convert o → let v := k.convert o r.seed r.idxBase r.idxStride
      let m := m0.plateWrite c o.dstLine v.1 0 0
      exec (.convert c) s = .next (done (if v.2.1.isEmpty then m else m.plateWrite c o.scaleOut v.2.1 0 0) v.2.2)) ∧
    (∀ o, o.mode ≠ 2 →
      (op.body = .anchor o → exec (.anchor c) s = .next (done (m0.setAcc c (k.anchorOp o (accClean 0))) flags0)) ∧
      (op.body = .accClear o → exec (.accClear c) s = .next (done (m0.setAcc c (k.anchorOp o (accClean 0))) flags0))) ∧
    (∀ o, op.body = .mma o → exec (.mma c) s =
      .next (done (acc.1.setAcc c { (k.mma o acc.2).1 with bad := acc.2.bad }) (k.mma o acc.2).2)) ∧
    (∀ o, op.body = .accRead o → acc.2.bad = [] →
      let v := k.accRead o acc.2 r.seed r.idxBase r.idxStride
      let m := v.1.zipIdx.foldl (fun m x => m.plateWrite c (o.outLine + x.2 * ceilDiv (accReadRow o) 64) x.1 0 0) (acc.1.setAcc c acc.2)
      exec (.accRead c) s = .next (done (if v.2.1.isEmpty then m else m.plateWrite c o.auxLine v.2.1 0 0) v.2.2)) ∧
    (∀ tl v n t, op.body = .wait tl v n → s.m.obj.tls.get? tl = some t → t.lost = false →
      (t.reached v = true → exec (.wait c) s = .next (done m0 flags0)) ∧
      (t.reached v = false → exec (.wait c) s =
        .next (done (m0.modRun c (fun x => { x with stall := .timeline tl v })) flags0))) ∧
    ((match op.body with | .xferIn _ => True | .xferOut _ => True | .peerPush _ => True | .gather _ => True | .reducePost _ => True | _ => False) →
      exec (opCommand c op.body) s = .next (s.after (fun m => Module.settle c r.next ((m.noteIssue c).moveOp c r op))))

/-- Adding any list of terms to an accumulator element and adding any permutation of that list leave the same 144-bit
register, special class and afault: addition is modulo 2^144, associative and commutative. A finite term changes the
register to its sum with the rounded term modulo 2^144 in two's complement. -/
def Obligations.TermsAddInAnyOrder : Prop :=
  (∀ (a : Int) (c : AccCell) (sg : Bool) (n : Nat) (e : Int) (fl : Flags),
      ((addTerm a c (.fin sg n e, fl)).val - (c.val + rneScale (if sg then -(n : Int) else n) (e - (a - 111)))) % 2 ^ 144 = 0 ∧
      -2 ^ 143 ≤ (addTerm a c (.fin sg n e, fl)).val ∧ (addTerm a c (.fin sg n e, fl)).val < 2 ^ 143) ∧
    ∀ (a : Int) (c : AccCell) (l l' : List (Sys2Proof.Machine.Num × Flags)), l.Perm l' →
      (l.foldl (addTerm a) c).val = (l'.foldl (addTerm a) c).val ∧
      (l.foldl (addTerm a) c).cls = (l'.foldl (addTerm a) c).cls ∧
      (l.foldl (addTerm a) c).afault = (l'.foldl (addTerm a) c).afault

/-- On every 64-bit x, mix64 is the chain of xor-shifts and products modulo 2^64 that R68 gives; it maps 64-bit values to
64-bit values, no two to the same one, reaching every one; and mix64(0) = 0. -/
def Obligations.Mix64IsABijection : Prop :=
  (∀ x < 2 ^ 64,
      let x1 := (x ^^^ (x >>> 31)) * 0xA4C2_7F1B_93D6_5E07 % 2 ^ 64
      let x2 := (x1 ^^^ (x1 >>> 27)) * 0x6B1D_E85A_0F37_C2A5 % 2 ^ 64
      let x3 := (x2 ^^^ (x2 >>> 33)) * 0xC39E_4A71_D85B_16F3 % 2 ^ 64
      mix64 x = x3 ^^^ (x3 >>> 29)) ∧
    (∀ x < 2 ^ 64, mix64 x < 2 ^ 64) ∧ (∀ x < 2 ^ 64, ∀ y < 2 ^ 64, mix64 x = mix64 y → x = y) ∧
    (∀ y < 2 ^ 64, ∃ x < 2 ^ 64, mix64 x = y) ∧ mix64 0 = 0

/-- For a serving steward core whose turn is hart h, TLCOMMIT at ns into the frame (which does not go back) completes: the
hart's rd reads 0, its pc advances by 4 and the turn passes on; a count of 0 does nothing more; a count above the free
entries is ignored and counted in STW_LIST_DROP; another count adds that many entries to those due for the next
frame's lists when the frame is open and the first window on the core's own die has not opened yet, and otherwise to
those of the frame after, counted in STW_LIST_LATE. -/
def Obligations.CommitTakesRingEntries : Prop :=
  ∀ (s : State) (k h rd n ns : Nat), Live s → s.m.stwServes k = true → s.m.stwTurn k = some h →
    let now := max s.m.tick.ns ns
    let m := ((s.m.setTick (fun t => { t with ns := now })).modHart k h (fun t => { t.setReg rd 0 with pc := (t.pc + 4) % 2 ^ 64 })).passTurn k h
    let early : Prop := now < s.m.dieCutoffNs (k / 8) ∧ s.m.tick.phase = .open_
    (n = 0 → exec (.tlcommit k h rd n ns) s = .next (s.after (fun _ => m))) ∧
    (n ≠ 0 → (s.m.hart k h).free < n →
      exec (.tlcommit k h rd n ns) s = .next (s.after (fun _ => m.count (STW_LIST_DROP_count k) 1))) ∧
    (n ≠ 0 → n ≤ (s.m.hart k h).free → early →
      exec (.tlcommit k h rd n ns) s = .next (s.after (fun _ => m.modHart k h (fun t => { t with due := t.due + n })))) ∧
    (n ≠ 0 → n ≤ (s.m.hart k h).free → ¬ early →
      exec (.tlcommit k h rd n ns) s = .next (s.after (fun _ =>
        (m.modHart k h (fun t => { t with late := t.late + n })).count (STW_LIST_LATE_count k) 1)))

/-- MEM_REQUEST of a write by the host path of a partition, of 1 to 256 bytes within a 256-byte line of HBM that the
partition's carve-out allows, with tokens to take, no migration listed and its stack not in a recalibration slice,
completes: every byte of the range reads as written but for those in an object table while the HOST registers name one
(log entry 108 for a HOST_CTRL.enable of 0), whose write is discarded; every other byte of device memory reads as
before, memory stays in canonical form, and the host's and the twin's memory are unchanged. -/
def Obligations.HostRequestWritesExactlyItsBytes : Prop :=
  ∀ (s : State) (p off cls at_ done : Nat) (data : List Byte) (errs : ReadErrs) (mark : Bool) (m' : Module), Live s → s.memWf = true → data ≠ [] →
    off % 256 + data.length ≤ 256 → s.m.allowed p off data.length = true → chanOf off < 512 → s.m.mem.migs = [] →
    s.m.recalibrates off = false →
    s.m.takeTokens .host p (s.m.reqClass .host p cls) off (chargeOf true off data.length) at_ = (m', some mark) →
    let hidden (a : Nat) : Prop := s.m.tablesHeld = true ∧ ∃ r ∈ s.m.tables, r.1 ≤ a ∧ a < r.1 + r.2
    ∃ t : State, exec (.memRequest true p off 0 cls .host data errs at_ done) s = .next t ∧
      (∀ i < data.length, ¬ hidden (off + i) → t.m.mem.bytes.byte (off + i) = data.getD i 0) ∧
      (∀ a, (¬ (off ≤ a ∧ a < off + data.length) ∨ hidden a) → t.m.mem.bytes.byte a = s.m.mem.bytes.byte a) ∧
      t.memWf = true ∧ t.m.hostMem = s.m.hostMem ∧ t.m.twinMem = s.m.twinMem ∧ t.otp = s.otp

/-- Each lease message (OFFER, ACCEPT, RELEASE, EPOCH) completes by joining the received lease messages with its sender
and fields, marked to act at the next shutter edge when the window has not opened and one edge later otherwise; no
sequence record and nothing else changes before. -/
def Obligations.LeaseMessagesWaitForTheEdge : Prop :=
  ∀ (s : State) (src seg ep cs ex : Nat), Live s →
    let put (k : Nat) : State := s.after (·.setSeq (fun x => { x with msgs := x.msgs ++
      [{ kind := k, sender := src, seg := seg, epoch := ep, commitSeq := cs, expiry := ex, due := s.m.tick.phase == .open_ }] }))
    exec (.leaseOfferReceived src seg ep cs ex) s = .next (put 1) ∧
    exec (.leaseAcceptReceived src seg ep cs ex) s = .next (put 2) ∧
    exec (.leaseReleaseReceived src seg ep cs ex) s = .next (put 3) ∧
    exec (.leaseEpochReceived src seg ep cs ex) s = .next (put 4)

/-- INVALIDATE_REQUEST for a function whose traffic is accepted (R343, R344) completes by joining the invalidations that
wait for step 5 of the next window, and every translation request of that function that has been sent remembers it; no
cache entry changes yet. For a function whose traffic is not accepted it is discarded, and of a confidential function
counted as a refused access. Clearing and setting PRI Enable, with the link up, the functions ready (from the end of
step 8 on, log entry 112) and the PF's traffic accepted, takes the function out of those whose Page Requests fail at
once and records the allocation written; with no Page Request waiting to be sent it changes nothing else. Before the
functions are ready it is answered with Request Retry Status, and with the link down nothing arrives. -/
def Obligations.InvalidationsAndPriEnable : Prop :=
  ∀ (s : State) (fn alloc : Nat) (pasid : Option Nat) (base size tag : Nat), Live s →
    let i : Inval := { fn := fn, pasid := pasid, base := base, size := size, tag := tag, flush := false }
    (s.m.trafficOk fn = true →
      exec (.invalidateRequest fn pasid base size tag) s = .next (s.after (·.setXlat (fun x => { x with
        invals := x.invals ++ [i],
        ats := x.ats.map (fun r => if r.sent = true ∧ r.fn = fn then { r with after := r.after ++ [i] } else r) })))) ∧
    (s.m.trafficOk fn = false → exec (.invalidateRequest fn pasid base size tag) s =
      .next (if s.m.fnConf fn then s.after (·.confRefused) else s)) ∧
    (s.m.fld GLB_PCIE_gen ≠ 0 → 8 < s.m.rst.stepNo → s.m.trafficOk 0 = true → (∀ r ∈ s.m.xlat.pages, r.sent = true) →
      exec (.priEnableWrite fn alloc) s = .next (s.after (·.setXlat (fun x =>
        { x with failed := x.failed.filter (fun f => f != fn), alloc := x.alloc.put fn alloc })))) ∧
    (s.m.fld GLB_PCIE_gen ≠ 0 → s.m.rst.stepNo ≤ 8 →
      exec (.priEnableWrite fn alloc) s = .next (s.after (·.emit (.response 2 [])))) ∧
    (s.m.fld GLB_PCIE_gen = 0 → exec (.priEnableWrite fn alloc) s = .next s)

/-- On ACK_TIMEOUT the session's flits to resend become its whole replay buffer, oldest first. On NAK_RECEIVED the flits
that its ack covers leave the buffer first. Nothing else of the module changes. -/
def Obligations.UnacknowledgedFlitsAreResent : Prop :=
  ∀ (s : State) (p k ack : Nat), Live s →
    exec (.ackTimeout p k) s = .next (s.after (·.modSess p k (fun x => { x with resend := x.buf }))) ∧
    exec (.nakReceived p k ack) s = .next (s.after (·.modSess p k (fun x =>
      { x with buf := (x.acked ack).buf, resend := (x.acked ack).buf })))

/-- With g good lanes, a port has a width unless g is 0; the width is a permitted one (x1, x2, x4, x8, and x16 on port 16
alone), its lanes do not exceed g, and no permitted width with at most g lanes is larger. -/
def Obligations.PortWidthIsLargestPermitted : Prop :=
  ∀ p g : Nat,
    (widthFor p 0 4 = none) ∧
    (0 < g → ∃ w, widthFor p g 4 = some w ∧ widthLanes w ≤ g ∧ (p ≠ 16 → w ≤ 3) ∧ w ≤ 4 ∧
      ∀ v ≤ 4, (p ≠ 16 → v ≤ 3) → widthLanes v ≤ g → widthLanes v ≤ widthLanes w)

/-- Each core injection sets its own one-shot error on a core that no confidential partition holds, and leaves the whole
state as it is on one that does; TAG_FLUSH empties the residency tags of any core. INJ_HBM_CE, INJ_HBM_UE, INJ_DDR_CE
and INJ_DDR_UE arm their error on memory-side die d (once, however often it is written); INJ_DDR_MAC arms it for the
next access and its re-read; LINK_INJ_CRC and LINK_INJ_TAG arm one CRC or tag error on their port; SEAM_INJ_CRC arms
one error in each direction of its seam; TWIN_INJ_PRINT arms one altered contact print; TWIN_INJ_BEAT_STOP silences
the TWIN messages of the next frame. Nothing else changes. -/
def Obligations.InjectedErrorsArm : Prop :=
  ∀ (s : State) (c p d k : Nat), Live s →
    (s.m.coreOpen c = true →
      exec (.injResidue c) s = .next (s.after (fun m => m.setCore c { m.core c with injResidue := true })) ∧
      exec (.injPlateCe c) s = .next (s.after (fun m => m.setCore c { m.core c with injPlateCe := true })) ∧
      exec (.injPlateUe c) s = .next (s.after (fun m => m.setCore c { m.core c with injPlateUe := true })) ∧
      exec (.injAccParity c) s = .next (s.after (fun m => m.setCore c { m.core c with injAccParity := true }))) ∧
    (s.m.coreOpen c = false →
      exec (.injResidue c) s = .next s ∧ exec (.injPlateCe c) s = .next s ∧ exec (.injPlateUe c) s = .next s ∧
      exec (.injAccParity c) s = .next s) ∧
    exec (.tagFlush c) s = .next (s.after (fun m => m.setCore c { m.core c with tags := [] })) ∧
    exec (.injHbmCe d) s = .next (s.after (·.setMem (fun x => { x with injHbmCe := insertU x.injHbmCe d }))) ∧
    exec (.injHbmUe d) s = .next (s.after (·.setMem (fun x => { x with injHbmUe := insertU x.injHbmUe d }))) ∧
    exec (.injDdrCe d) s = .next (s.after (·.setMem (fun x => { x with injDdrCe := insertU x.injDdrCe d }))) ∧
    exec (.injDdrUe d) s = .next (s.after (·.setMem (fun x => { x with injDdrUe := insertU x.injDdrUe d }))) ∧
    exec (.injDdrMac d) s = .next (s.after (·.setMem (fun x =>
      { x with injDdrMac := x.injDdrMac.filter (fun e => e.1 != d) ++ [(d, 2)] }))) ∧
    exec (.linkInjCrc p) s = .next (s.after (·.modPort p (fun x => { x with injCrc := true }))) ∧
    exec (.linkInjTag p) s = .next (s.after (·.modPort p (fun x => { x with injTag := true }))) ∧
    exec (.seamInjCrc d k) s = .next (s.after (fun m =>
      { m with seams := { m.seams with
        inj := insertU (insertU m.seams.inj ((d * 5 + k) * 2)) ((d * 5 + k) * 2 + 1) } })) ∧
    exec .twinInjPrint s = .next (s.after (·.setTwin (fun t => { t with injPrint := true }))) ∧
    exec .twinInjBeatStop s = .next (s.after (fun m => m.setTwin (fun t => { t with muteFrom := some (frameAdd m.F 1) })))

/-- For every flit whose fields lie in their widths and whose body has at most 208 bytes, the header bytes and the body
padded to 208 bytes give the same flit back, every field at every value. The 256 bytes made of any header, body and
aux field have no stripe whose CRC fails; with an injected CRC error, exactly stripe 0 fails. -/
def Obligations.FlitLayoutReadsBack : Prop :=
  (∀ f : Flit, f.ty < 16 → f.pos < 16 → f.seqNo < 2 ^ 16 → f.ack < 2 ^ 16 → f.hops < 16 → f.slot < 64 → f.dst < 2 ^ 16 →
      f.src < 2 ^ 16 → f.entry < 2 ^ 16 → f.body.length ≤ 208 →
      f.header.length = 16 ∧ Flit.ofBytes f.header (padTo 208 f.body) = f) ∧
    ∀ (h body aux : List Byte), (flitBytes h body aux false).length = 256 ∧ badStripes (flitBytes h body aux false) = [] ∧
      badStripes (flitBytes h body aux true) = [0]

/-- SLOTS_HELD in HOLDOVER, once the skew bound plus 2 ns for every ms of holdover exceeds half the window at the slowest
block clock, stops sending in scheduled slots and changes nothing else; within the limit, or in another state, it
changes nothing. TICK_ORPHAN after 1 s or more in HOLDOVER enters ORPHAN with scheduled sending stopped and raises
TICK_ORPHAN (signalled when orphan_irq_en is 1); otherwise it changes nothing. -/
def Obligations.HoldoverEndsScheduledSlots : Prop :=
  ∀ s : State, Live s →
    (s.m.tick.state = .holdover →
      windowAc s.m.recs * 500 < (s.m.skewBound + 2 * (s.m.tick.holdoverUs / 1000)) * s.m.slowestMHz →
      exec .slotsHeld s = .next (s.after (·.setTick (fun t => { t with slotsHeld := true })))) ∧
    (s.m.tick.state ≠ .holdover ∨
        (s.m.skewBound + 2 * (s.m.tick.holdoverUs / 1000)) * s.m.slowestMHz ≤ windowAc s.m.recs * 500 →
      exec .slotsHeld s = .next s) ∧
    (s.m.tick.state = .holdover → 1000000 ≤ s.m.tick.holdoverUs →
      exec .tickOrphan s = .next (s.after (fun m =>
        (m.setTick (fun t => { t with state := .orphan, slotsHeld := true, nextShift := 0 })).raiseIf TICK_EVENT_orphan
          (m.flag TICK_CTRL_orphan_irq_en)))) ∧
    (s.m.tick.state ≠ .holdover ∨ s.m.tick.holdoverUs < 1000000 → exec .tickOrphan s = .next s)

/-- For a collective of n members and C chunks: chunk k is owned by rank r exactly when floor(r C / n) <= k < floor((r +
1) C / n); every chunk below C is owned by exactly one rank below n; and the chunks of ranks first to first + count -
1 of a child's subtree are those owned by some rank of them. -/
def Obligations.RanksShareTheChunks : Prop :=
  ∀ c : Coll, 0 < c.members →
    (∀ r k, k ∈ c.owned r (r + 1) ↔ r * c.nChunks / c.members ≤ k ∧ k < (r + 1) * c.nChunks / c.members) ∧
    (∀ k < c.nChunks, ∃ r < c.members, k ∈ c.owned r (r + 1) ∧ ∀ q < c.members, k ∈ c.owned q (q + 1) → q = r) ∧
    (∀ lo hi k, k ∈ c.owned lo hi ↔ ∃ r, lo ≤ r ∧ r < hi ∧ k ∈ c.owned r (r + 1))

/-- SLOT_RELEASE on an APPLIED or REJECTED slot makes it FREE and is ignored otherwise. A write of COMP_ARM_TALLY_ID sets
it and zeroes the four tallies. MIG_CANCEL on a PENDING migration ends it and is ignored in any other state;
MIG_RELEASE on a DONE migration marks it for the edge and is ignored otherwise. Nothing else changes. -/
def Obligations.SlotReleaseTallyAndMigrationControl : Prop :=
  ∀ (s : State) (k id d i : Nat), Live s →
    ((s.m.slot k).state = .applied ∨ (s.m.slot k).state = .rejected →
      exec (.slotRelease k) s = .next (s.after (·.setComp (fun c => { c with slots := c.slots.put k slotInit })))) ∧
    ((s.m.slot k).state ≠ .applied → (s.m.slot k).state ≠ .rejected → exec (.slotRelease k) s = .next s) ∧
    exec (.tallyReset id) s = .next (s.after (fun m => ((((m.setReg COMP_ARM_TALLY_ID id).setReg COMP_ARM_TALLY_VAL 0).setReg
      COMP_ARM_TALLY_REJ 0).setReg COMP_ARM_TALLY_APP 0).setReg COMP_ARM_TALLY_DROP 0)) ∧
    (s.m.migState d i = 1 → exec (.migCancel d i) s = .next (s.after (·.setMem (fun x => { x with migs := x.migs.del (d * 2 + i) })))) ∧
    (s.m.migState d i ≠ 1 → exec (.migCancel d i) s = .next s) ∧
    (s.m.migState d i = 4 → exec (.migRelease d i) s = .next (s.after (·.setMem (fun x =>
      { x with migs := x.migs.mod (d * 2 + i) (fun g => { g with release := true }) })))) ∧
    (s.m.migState d i ≠ 4 → exec (.migRelease d i) s = .next s)

/-- RESET_REQ counts as a sign of life of the twin and leaves the inbox. On a PAIRED module that its own latest verdict
names faulty, running and in no hold-off, it begins a hold-off of source TWIN_REQ (7), which RST_SOURCES shows alone;
on any other module it is ignored and counted in TWIN_BAD_MSG. -/
def Obligations.TwinResetRequest : Prop :=
  ∀ s : State, Live s →
    (s.m.twin.state = tsPAIRED → s.m.twin.faulty = true → s.m.rst.good = true → s.m.rst.hold = none →
      exec .resetReq s = .next (s.after (fun m =>
        ((m.twinHeard).setRst (fun r => { r with hold := some (7, 3) })).setReg RST_SOURCES (2 ^ 7)))) ∧
    (¬ (s.m.twin.state = tsPAIRED ∧ s.m.twin.faulty = true) →
      exec .resetReq s = .next (s.after (fun m => (m.twinHeard).count TWIN_BAD_MSG_count 1)))

/-- A TAIL with value v on a slot that serves queue q, of a served function and with no reserved bit, completes. When (v -
picked) mod 2^32 <= 2^n and (v - tail) mod 2^32 <= 2^n, the state word of every entry from the old tail to v - 1
becomes QUEUED, the tail becomes v, and the queue holds one device reference for each new entry (R366 holds it once
for each command from TAIL; that an entry counts as a command until it is fetched is the model's choice, log entry
55); the pick-up cutoff of the frame is as it was, so the time of receipt decides the window. Otherwise it is ignored,
counted in HOST_DB_BAD, and db_bad is raised. -/
def Obligations.TailIsAcceptedOrCounted : Prop :=
  ∀ (s : State) (fn slot v q : Nat) (k : Queue), Live s → s.m.servesFn fn = true → s.m.slotQueue fn slot = some (q, k) →
    v < 2 ^ 32 →
    (subMod 32 v k.picked ≤ 2 ^ k.log2 → subMod 32 v k.tail ≤ 2 ^ k.log2 →
      exec (.tail fn slot v 0) s = .next (s.after (fun m =>
        (((List.range (subMod 32 v k.tail)).foldl
            (fun m i => m.setWord q ((k.tail + i) % 2 ^ 32) cswQUEUED 0 0) m).modQueue q
          (fun k => { k with tail := v })).modQueue q (fun o => { o with devCount := o.devCount + subMod 32 v k.tail })))) ∧
    (2 ^ k.log2 < subMod 32 v k.picked ∨ 2 ^ k.log2 < subMod 32 v k.tail →
      exec (.tail fn slot v 0) s = .next (s.after (fun m => (m.count HOST_DB_BAD_count 1).raise HOST_EVENT_db_bad)))

/-- ABORT of index i on a slot serving queue q, whose device is not LOCKSTEP, completes. An index that is not valid, or
whose word is EMPTY, gets a REJECTED reply with detail 0xF3. A QUEUED word becomes ABORTED, without a reply. A PICKED
word becomes ABORTED and the command's own record with status ABORTED is due. A DONE or ABORTED word stays and gets an
ALREADY_DONE reply. With a reserved bit set, or on a slot that serves no queue, it is ignored and counted in
HOST_DB_BAD. -/
def Obligations.AbortOutcomes : Prop :=
  ∀ (s : State) (fn slot i : Nat), Live s → s.m.servesFn fn = true → i < 2 ^ 32 →
    (∀ upper, upper ≠ 0 ∨ s.m.slotQueue fn slot = none →
      exec (.abort fn slot i upper) s = .next (s.after (·.dbBad))) ∧
    ∀ (q : Nat) (k : Queue), s.m.slotQueue fn slot = some (q, k) → s.m.isLockstep (s.m.queueVd k) = false →
      let d := subMod 32 k.tail i
      let st := bits (s.m.csw (k.word i)) 0 3
      let valid := 1 ≤ d ∧ d ≤ 2 ^ k.log2
      (¬ valid ∨ st = cswEMPTY → exec (.abort fn slot i 0) s = .next (s.after (·.addReply q i stREJECTED 0xF3))) ∧
      (valid → st = cswQUEUED → exec (.abort fn slot i 0) s = .next (s.after (·.setWord q i cswABORTED stABORTED 0))) ∧
      (valid → st = cswPICKED → exec (.abort fn slot i 0) s = .next (s.after (fun m =>
        (m.setWord q i cswABORTED stABORTED 0).setObj (fun o =>
          { o with done := o.done ++ [{ queue := q, index := i, status := stABORTED, detail := 0 }] })))) ∧
      (valid → st = cswDONE ∨ st = cswABORTED → ∃ detail, exec (.abort fn slot i 0) s =
        .next (s.after (·.addReply q i stALREADY_DONE detail)))

/-- For a VF v that is there: a send with out_busy clear copies the 16 words to the PF side, sets the VF's pending bit and
out_busy, and signals PF vector 1; with out_busy set it is ignored and sets busy in VF_EVENT. With v selected and the
PF's traffic accepted (R344): PF ack while pending clears the pending bit and out_busy and sets out_acked; a PF send
with in_full clear copies the reply into VF_MBOX_IN, sets in_full and in_msg and signals VF vector 0, and with in_full
set it is ignored and sets mbox_busy in GLB_EVENT; while the PF's traffic is not accepted neither does anything. The
VF's in_ack clears in_full. -/
def Obligations.MailboxCarriesOneMessageEachWay : Prop :=
  ∀ (s : State) (v : Nat), Live s → s.m.vfThere v = true →
    (s.m.flag (VF_MBOX_CTRL_out_busy v) = false → exec (.vfMboxSend v) s = .next (s.after (fun m =>
      (((each (List.range 16) m (fun m i => m.setReg (mboxPf v i) (m.reg (VF_MBOX_OUT v i)))).setFld (mboxPend v) 1).setFld
        (VF_MBOX_CTRL_out_busy v) 1).signal 0 1))) ∧
    (s.m.flag (VF_MBOX_CTRL_out_busy v) = true → exec (.vfMboxSend v) s = .next (s.after (·.raiseVf v (VF_EVENT_busy v)))) ∧
    exec (.vfMboxInAck v) s = .next (s.after (·.setFld (VF_MBOX_CTRL_in_full v) 0)) ∧
    (s.m.trafficOk 0 = false → exec .pfMboxAck s = .next s ∧ exec .pfMboxSend s = .next s) ∧
    (s.m.trafficOk 0 = true → s.m.fld GLB_MBOX_SEL_vf = v →
      (s.m.flag (mboxPend v) = true → exec .pfMboxAck s = .next (s.after (fun m =>
        ((m.setFld (mboxPend v) 0).setFld (VF_MBOX_CTRL_out_busy v) 0).raiseVf v (VF_EVENT_out_acked v)))) ∧
      (s.m.flag (VF_MBOX_CTRL_in_full v) = false → exec .pfMboxSend s = .next (s.after (fun m =>
        (((each (List.range 16) m (fun m i => m.setReg (VF_MBOX_IN v i) (m.reg (mboxOut v i)))).setFld
          (VF_MBOX_CTRL_in_full v) 1).setFld (VF_EVENT_in_msg v) 1).signal v 0))) ∧
      (s.m.flag (VF_MBOX_CTRL_in_full v) = true → exec .pfMboxSend s = .next (s.after (·.raise GLB_EVENT_mbox_busy))))

/-- MSIX_UNMASK of a masked vector of a function that is there, not under reset, whose traffic is accepted and whose MSI-X
is enabled and not masked as a whole, outside a hold-off, with no other unmasked vector of it pending, completes with
the vector unmasked; when its pending bit was set, the message is sent at once and the bit cleared, and otherwise no
message is sent. The form that writes Message Control with MSI-X Enable clear or Function Mask set stores the two bits
and sends nothing. By either form a function that is not there changes nothing, and the write of one whose traffic is
not accepted is discarded, counted as a refused access when the function is a confidential partition's (R434). With
the PF's traffic accepted (R344), ATOMIC_OP_RECEIVED is answered with Unsupported Request and changes nothing, and
HOST_LOCK sets HOST_CTRL.lock and changes nothing else; while it is not accepted both do nothing. A write of
HOST_CTRL.enable while locked is ignored. -/
def Obligations.UnmaskedVectorSendsAtOnce : Prop :=
  ∀ (s : State) (fn vec : Nat) (en mask : Bool), Live s →
    (fn ≤ 64 → vec < 2048 → (fn, vec) ∉ s.m.unmasked → s.m.mayLeave fn = true → s.m.quiet = false → s.m.msixControl fn = (true, false) → s.m.msixPend.Nodup →
      (∀ v, (fn, v) ∈ s.m.msixPend → (fn, v) ∉ s.m.unmasked) →
      ((fn, vec) ∈ s.m.msixPend → exec (.msixUnmask fn (.vector vec)) s = .next (s.after (fun m =>
        { m with unmasked := (fn, vec) :: m.unmasked, msixPend := m.msixPend.filter (fun e => e != (fn, vec)),
                 out := m.out ++ [.msix fn vec] }))) ∧
      ((fn, vec) ∉ s.m.msixPend → exec (.msixUnmask fn (.vector vec)) s = .next (s.after (fun m =>
        { m with unmasked := (fn, vec) :: m.unmasked })))) ∧
    (fn ≤ 64 → s.m.fnNamed fn = true → s.m.trafficOk fn = true → en = false ∨ mask = true →
      exec (.msixUnmask fn (.control en mask)) s = .next (s.after (·.setPcie (fun p => { p with msix := p.msix.put fn (en, mask) })))) ∧
    (s.m.fnNamed fn = false → s.m.trafficOk fn = true →
      exec (.msixUnmask fn (.vector vec)) s = .next s ∧ exec (.msixUnmask fn (.control en mask)) s = .next s) ∧
    (s.m.trafficOk fn = false → ∀ w : MsixWrite, exec (.msixUnmask fn w) s = .next (if s.m.fnConf fn then s.after (·.confRefused) else s)) ∧
    (s.m.trafficOk 0 = true →
      exec .atomicOpReceived s = .next (s.after (fun m => { m with out := m.out ++ [.response 1 []] })) ∧
      exec .hostLock s = .next (s.after (·.setFld HOST_CTRL_lock 1))) ∧
    (s.m.trafficOk 0 = false → exec .atomicOpReceived s = .next s ∧ exec .hostLock s = .next s) ∧
    (s.m.flag HOST_CTRL_lock = true → exec .hostEnable s = .next s)

/-- PCIE_LINK_CHANGE of an armed PCIe port to a generation and width it supports completes with GLB_PCIE showing
generation, width and flit mode; when generation or width differ from before, GLB_EVENT.link_change is set; and
nothing but registers and MSI-X messages changes: the composition with its grants, the contexts, the lists with their
declared counts and every running tile are as before, so a tile whose transfers are slower overruns only by the rules
of its own. -/
def Obligations.LinkChangeIsShown : Prop :=
  ∀ (s : State) (gen lanes w : Nat), Live s → s.m.pcieArmed = true → 1 ≤ gen → gen ≤ 4 → widthCode lanes = some w →
    SMap.wf regReset s.m.regs = true →
    ∃ t : State, exec (.pcieLinkChange gen lanes) s = .next t ∧
      t.m.fld GLB_PCIE_gen = gen ∧ t.m.fld GLB_PCIE_width = w ∧ t.m.fld GLB_PCIE_flit = b2n (3 ≤ gen) ∧
      ((gen, w) ≠ (s.m.fld GLB_PCIE_gen, s.m.fld GLB_PCIE_width) → t.m.flag GLB_EVENT_link_change = true) ∧
      t = { s with m := { s.m with regs := t.m.regs, out := t.m.out, msixPend := t.m.msixPend } }

/-- The core promoted for a retired core is a RESERVE core that is not retired and not yet promised to another retired
core; if some such core lies in the same block it is the lowest of that block; failing that, if one lies on the same
die it is the lowest of that die; failing that it is the lowest of all; and there is none exactly when no such core is
left. -/
def Obligations.ReserveCoreNearestIsPromoted : Prop :=
  ∀ (m : Module) (core : Nat),
    let free (c : Nat) : Prop := c ∈ m.ras.reserve ∧ m.retired 1 c = false ∧ ∀ r ∈ m.ras.retire, r.promoted ≠ some c
    (m.promote core = none ↔ ∀ c, ¬ free c) ∧
    ∀ p, m.promote core = some p → free p ∧
      ((∃ c, free c ∧ c / 16 = core / 16) → p / 16 = core / 16 ∧ ∀ c, free c → c / 16 = core / 16 → p ≤ c) ∧
      ((∀ c, free c → c / 16 ≠ core / 16) → (∃ c, free c ∧ c / 128 = core / 128) →
        p / 128 = core / 128 ∧ ∀ c, free c → c / 128 = core / 128 → p ≤ c) ∧
      ((∀ c, free c → c / 16 ≠ core / 16 ∧ c / 128 ≠ core / 128) → ∀ c, free c → p ≤ c)

/-- RING_HEAD_WRITE of a value that the tail leads by at most 65,536 records completes with RAS_RING_HEAD set, after which
the LOST records that now have room are written; any other value is ignored. A history whose window has passed is
dropped by HISTORY_WINDOW_CLOSE; one whose window is open stays. -/
def Obligations.RingHeadWriteIsChecked : Prop :=
  ∀ (s : State) (v row unit : Nat), Live s → v < 2 ^ 32 →
    (subMod 32 (s.m.reg RAS_RING_TAIL) v ≤ 65536 →
      exec (.ringHeadWrite v) s = .next (s.after (fun m => (m.setReg RAS_RING_HEAD v).flushLost))) ∧
    (65536 < subMod 32 (s.m.reg RAS_RING_TAIL) v → exec (.ringHeadWrite v) s = .next s) ∧
    ∀ h, s.m.ras.hist.get? (row * 2 ^ 16 + unit) = some h →
      (s.m.histOpen h = true → exec (.historyWindowClose row unit) s = .next s) ∧
      (s.m.histOpen h = false → exec (.historyWindowClose row unit) s = .next (s.after (·.setRas (fun r =>
        { r with hist := r.hist.del (row * 2 ^ 16 + unit) }))))

/-- PWR_CAP_WRITE of 2,000 to 5,000 W sets PWR_CAP and any other value is ignored; PWR_PEAK_WRITE of at least PWR_CAP and
at most 6,500 W sets PWR_PEAK and any other is ignored. CAP_IN_FORCE completes with PWR_CAP_EFF.sustained the lowest
of PWR_CAP, the management cap, 125 A times the measured input voltage, and 1,000 W times at most five working
converters; and PWR_CAP_EFF.peak the lowest of PWR_PEAK, 162.5 A times that voltage, and 1,300 W times those
converters (voltage measured and not zero, caps within 13 bits). -/
def Obligations.CapsInForceAreTheLowest : Prop :=
  ∀ (s : State) (w : Nat), Live s → SMap.wf regReset s.m.regs = true →
    (2000 ≤ w ∧ w ≤ 5000 → exec (.pwrCapWrite w) s = .next (s.after (·.setReg PWR_CAP w))) ∧
    (¬ (2000 ≤ w ∧ w ≤ 5000) → exec (.pwrCapWrite w) s = .next s) ∧
    (s.m.fld PWR_CAP_watts ≤ w ∧ w ≤ 6500 → exec (.pwrPeakWrite w) s = .next (s.after (·.setReg PWR_PEAK w))) ∧
    (¬ (s.m.fld PWR_CAP_watts ≤ w ∧ w ≤ 6500) → exec (.pwrPeakWrite w) s = .next s) ∧
    (s.m.fld PWR_INPUT_volts ≠ 0 →
      let k := min 5 (6 - s.m.rst.failed.length)
      ∃ t : State, exec .capInForce s = .next t ∧
        t.m.fld PWR_CAP_EFF_sustained = min (min (s.m.fld PWR_CAP_watts) s.m.pwr.mgmtCap)
          (min (125 * s.m.fld PWR_INPUT_volts / 100) (1000 * k)) ∧
        t.m.fld PWR_CAP_EFF_peak = min (s.m.fld PWR_PEAK_watts) (min (1625 * s.m.fld PWR_INPUT_volts / 1000) (1300 * k)))

/-- With the management firmware up, SET_NUMERIC_EFFECTER_VALUE of effecter 0x80 within 2,000 to 5,000 sets the management
cap and answers success; other values are answered with ERROR_INVALID_DATA and change nothing. Until step 5 has ended
(a halted bring-up included), READ_REG, MEM_READ, MEM_WRITE, TRACE_READ, SET_PROFILE and WRITE_REG are answered with
NOT_READY and change nothing else, and GET_STATUS is answered OK with RST_BRINGUP, LCS_STATE and NVJ_STATUS. A
response gives the command code with 0x80 added, the tag of the command, the status, a reserved byte and the body. -/
def Obligations.ManagementCapAndRomResponder : Prop :=
  ∀ s : State, Live s →
    (s.m.mgmtUp = true →
      (∀ v, 2000 ≤ v → v ≤ 5000 → exec (.setNumericEffecterValue 0x80 v) s = .next (s.after (fun m =>
        (m.setPwr (fun p => { p with mgmtCap := v })).emit (.response 0 [])))) ∧
      (∀ v, v < 2000 ∨ 5000 < v → exec (.setNumericEffecterValue 0x80 v) s = .next (s.after (·.emit (.response 2 []))))) ∧
    (s.m.rst.stepNo ≤ 5 →
      ∀ tag : Nat,
      let answer (code status : Nat) (body : List Byte) : Out := .response status (leBytes 1 (code + 0x80) ++ leBytes 1 tag ++ leBytes 1 status ++ [0] ++ body)
      let notReady (code : Nat) : State := s.after (·.emit (answer code 2 []))
      (∀ off, exec (.readReg tag off) s = .next (notReady 2)) ∧ (∀ off v f, exec (.writeReg tag off v f) s = .next (notReady 3)) ∧
      (∀ off n, exec (.mgmtMemRead tag off n) s = .next (notReady 4)) ∧ (∀ off bs, exec (.mgmtMemWrite tag off bs) s = .next (notReady 5)) ∧
      (∀ c n, exec (.traceRead tag c n) s = .next (notReady 9)) ∧ (∀ k cl, exec (.setProfile tag k cl) s = .next (notReady 10)) ∧
      exec (.getStatus tag) s = .next (s.after (fun m => m.emit (answer 1 0
        (leBytes 4 (m.regShows RST_BRINGUP) ++ leBytes 4 (m.regShows LCS_STATE) ++ leBytes 4 (m.regShows NVJ_STATUS))))))

/-- With every word 0 to 3 at 0x00 or 0xA5, the state is the number of consecutive 0xA5 words counted from word 0 when no
0xA5 word follows a 0x00 word, and INVALID (7) when one does. A word that is neither 0x00 nor 0xA5 decodes as INVALID,
be it a partial word (set bits a subset of 0xA5) or a foreign one. -/
def Obligations.LifeCycleStateDecodes : Prop :=
  ∀ w : Nat → Nat,
    ((∃ i < 4, w i ≠ 0 ∧ w i ≠ 0xA5) → lcDecode w = 7) ∧
    ((∀ i < 4, w i = 0 ∨ w i = 0xA5) →
      ((∃ i < 4, ∃ j < 4, i < j ∧ w i = 0 ∧ w j = 0xA5) → lcDecode w = 7) ∧
      ∀ n ≤ 4, (∀ i < n, w i = 0xA5) → (∀ i < 4, n ≤ i → w i = 0) → lcDecode w = n)

/-- NEW_CHALLENGE with 16 random bytes makes them the challenge, in place of any other, and changes nothing else.
DEBUG_RELOCK ends the debug unlock in force when the life-cycle state is not MAKER, and changes nothing else. -/
def Obligations.ChallengeAndRelock : Prop :=
  ∀ s : State, Live s →
    (∀ r : List Byte, r.length = 16 → exec (.newChallenge r) s = .next (s.after (·.setSec (fun x => { x with challenge := some r })))) ∧
    (s.m.lcState ≠ 0 → exec .debugRelock s = .next (s.after (·.setSec (fun x => { x with debugSlot := none })))) ∧
    (s.m.lcState = 0 → exec .debugRelock s = .next s)

/-- For a powered module that is live: RST_N (2), PERST# in MODULE scope (3), Hot Reset in MODULE scope (4), the watchdog
(8) and RST_CTRL.module_reset with its key 0xD2 (10) each begin a hold-off of their code, with RST_SOURCES showing
that source alone; when a hold-off is in progress the source joins it, its bit is added to RST_SOURCES, and the hold-
off does not restart. RST_CTRL without the key or without module_reset is ignored. -/
def Obligations.HeldOffSourcesBeginOneHoldOff : Prop :=
  ∀ (s : State) (w : Nat), Live s → s.m.rst.good = true →
    let src (m : Module) (n : Nat) : Module := if s.m.rst.hold = none
      then (m.setRst (fun r => { r with hold := some (n, 3) })).setReg RST_SOURCES (2 ^ n)
      else m.setReg RST_SOURCES (m.reg RST_SOURCES ||| 2 ^ n)
    exec .rstNAssert s = .next (s.after (fun m => src (m.setPins (fun p => { p with rstExt := true })) 2)) ∧
    (s.m.flag RST_CFG_perst_scope = false →
      exec .perstAssert s = .next (s.after (fun m => src (m.setPins (fun p => { p with perst := true })) 3))) ∧
    (s.m.flag RST_CFG_hotrst_scope = false → exec .hotReset s = .next (s.after (src · 4))) ∧
    exec .watchdogExpiry s = .next (s.after (src · 8)) ∧
    (w % 256 = 0xD2 → bit w 8 = true → exec (.moduleReset w) s = .next (s.after (src · 10))) ∧
    (w % 256 ≠ 0xD2 ∨ bit w 8 = false → exec (.moduleReset w) s = .next s)

/-- INTERNAL_RESET_ASSERT at the end of a hold-off with no fuse pulse under way and no power-off to follow completes: the
internal reset is asserted with RST_N driven low; RST_CFG and RST_LAST_HOST, the fuses, firmware slots, superblocks
and the host's memory are kept; device memory, composition, contexts and all objects, translations, sequences,
collectives, links, twin state, tick, error histories and the tile lists are as after power-on; resets are counted and
RST_CAUSE.first shows the source. -/
def Obligations.ModuleResetClearsAllButWhatLasts : Prop :=
  ∀ (s : State) (us src : Nat), SMap.wf regReset s.m.regs = true → s.m.rst.hold = some (src, 0) → s.m.pulseBusy = false →
    s.m.rst.holdOff = false → src < 32 →
    ∃ t : State, exec (.internalResetAssert us) s = .next t ∧ t.pending = s.pending ∧ t.otp = s.otp ∧
      t.m.rst.inReset = true ∧ t.m.rst.hold = none ∧ t.m.pins.rstOwn = true ∧
      t.m.reg RST_CFG = s.m.reg RST_CFG ∧ t.m.reg RST_LAST_HOST = s.m.reg RST_LAST_HOST ∧ t.m.fld RST_CAUSE_first = src ∧
      t.m.fld RST_COUNT_resets = min (s.m.fld RST_COUNT_resets + 1) (2 ^ 32 - 1) ∧
      t.m.nvj.slots = s.m.nvj.slots ∧ t.m.nvj.sbs = s.m.nvj.sbs ∧ t.m.hostMem = s.m.hostMem ∧
      t.m.mem.bytes = [] ∧ t.m.comp = Compose.init ∧ t.m.obj = Objects.init ∧ t.m.xlat = Xlat.init ∧ t.m.seq = SeqSys.init ∧
      t.m.coll = [] ∧ t.m.links = [] ∧ t.m.twin = Twin.init ∧ t.m.tick = Tick.init ∧ t.m.ras.hist = [] ∧ t.m.lists = [] ∧
      t.m.nextLists = [] ∧ t.m.cores = []

/-- A copy is valid when its bytes hold the magic, the version and the right CRC. With two valid copies the active half
and the generation are those of the copy with the higher generation, with one valid copy those of that copy. At every
end of an erase or a program of a compaction some copy stays valid if one of the two was, except that no copy is
erased while the other is not valid: an erase in step 3 needs copy 1 valid, one in step 5 copy 0. The 64 bytes of a
superblock give back its active half and generation, and the bytes of a record, of the size that R469 gives, count as
committed exactly when its commit word was programmed. -/
def Obligations.SuperblockNamesTheActiveHalf : Prop :=
  (∀ (j : Nvj) (a b : Nat × Nat), j.sb 0 = some a → j.sb 1 = some b → b.2 ≤ a.2 → j.active = a.1 ∧ j.gen = a.2) ∧
    (∀ (j : Nvj) (a b : Nat × Nat), j.sb 0 = some a → j.sb 1 = some b → a.2 < b.2 → j.active = b.1 ∧ j.gen = b.2) ∧
    (∀ (j : Nvj) (a : Nat × Nat), (j.sb 0 = some a ∧ j.sb 1 = none) ∨ (j.sb 0 = none ∧ j.sb 1 = some a) → j.active = a.1 ∧ j.gen = a.2) ∧
    (∀ (j : Nvj) (e : Nat), e = (if j.resuming = 0 then j.compact else j.resuming) → (e = 3 → (j.sb 1).isSome) → (e = 5 → (j.sb 0).isSome) →
      j.super.isSome → j.erased.super.isSome) ∧
    (∀ j : Nvj, j.active < 2 → j.gen + 1 < 2 ^ 64 → (j.compact = 6 → (j.sb 0).isSome) → j.super.isSome → j.copyStep.super.isSome) ∧
    (∀ h g : Nat, h < 256 → g < 2 ^ 64 → (superBytes h g).length = 64 ∧ superOf (superBytes h g) = some (h, g)) ∧
    ∀ r : JRec, r.bytes.length = r.size ∧ recCommittedBytes r.bytes = r.ok

/-- DDR_OFFLINE of channel c (0 to 11) leaves channel c and operation 0 in NVJ_DDR_CTRL, whatever it does more. With no
request busy: in a state other than ONLINE and RETIRED it ends refused with code STATE and ddr_done is raised; with
the channel ONLINE or RETIRED, no carve-out holding any of it and no migration naming it, it reads busy with code 0
and waits for the next edge. While a request is busy it does nothing more. -/
def Obligations.OfflineRequestIsRefusedByName : Prop :=
  ∀ (s : State) (c : Nat), Live s → SMap.wf regReset s.m.regs = true → c < 12 →
    let m := (s.m.setFld NVJ_DDR_CTRL_channel c).setFld NVJ_DDR_CTRL_op 0
    (s.m.fld NVJ_DDR_STATUS_status = 1 → exec (.ddrOffline c) s = .next (s.after (fun _ => m))) ∧
    (s.m.fld NVJ_DDR_STATUS_status ≠ 1 → s.m.ddrState c ≠ .online → s.m.ddrState c ≠ .retired →
      exec (.ddrOffline c) s = .next (s.after (fun _ =>
        ((m.setFld NVJ_DDR_STATUS_status 3).setFld NVJ_DDR_STATUS_code 1).raise NVJ_EVENT_ddr_done))) ∧
    (s.m.fld NVJ_DDR_STATUS_status ≠ 1 → s.m.ddrState c = .online ∨ s.m.ddrState c = .retired →
      (∀ e ∈ recsOf s.m.recs 0x0301, ∀ x ∈ coRanges e.2, x.1 ≠ c) →
      (∀ e ∈ s.m.mem.migs, 1 ≤ e.2.state → chanOf e.2.src ≠ 512 + c ∧ chanOf e.2.dst ≠ 512 + c) →
      exec (.ddrOffline c) s = .next (s.after (fun _ =>
        ((m.setFld NVJ_DDR_STATUS_status 1).setFld NVJ_DDR_STATUS_code 0).setNvj (fun j => { j with offline := j.offline ++ [c] }))))

/-- Each command of frames and the shutter (01_frames_and_shutter.md) completes: its effect acts on the module, and the
waiting commands and the fuses stay. -/
def Obligations.FrameCommandsComplete : Prop :=
  ∀ s : State, Live s →
    (∀ (visits : Nat) (bad : List Nat), exec (.shutterWindow visits bad) s = .next (s.after (effShutterWindow visits bad))) ∧
    exec .pickupCutoff s = .next (s.after effCutoff) ∧
    exec .shutterEdge s = .next (s.after effShutterEdge) ∧
    (∀ (c ac : Nat), exec (.tileReady c ac) s = .next (s.after (effTileReady c ac))) ∧
    (∀ (c ac : Nat), exec (.budgetOverrun c ac) s = .next (s.after (effBudgetOverrun c ac)))

/-- Each command of tile ops and core injections (03_core_and_tile_ops.md) completes: its effect acts on the module, and
the waiting commands and the fuses stay. -/
def Obligations.TileCommandsComplete : Prop :=
  ∀ s : State, Live s →
    (∀ (c : Nat), exec (.nop c) s = .next (s.after (effNop c))) ∧
    (∀ (c : Nat), exec (.tileEnd c) s = .next (s.after (effEnd c))) ∧
    (∀ (c : Nat), exec (.anchor c) s = .next (s.after (effAnchor c))) ∧
    (∀ (c : Nat), exec (.accClear c) s = .next (s.after (effAccClear c))) ∧
    (∀ (c : Nat), exec (.mma c) s = .next (s.after (effMma c))) ∧
    (∀ (c : Nat), exec (.accRead c) s = .next (s.after (effAccRead c))) ∧
    (∀ (c : Nat), exec (.vop c) s = .next (s.after (effVop c))) ∧
    (∀ (c : Nat), exec (.vred c) s = .next (s.after (effVred c))) ∧
    (∀ (c : Nat), exec (.convert c) s = .next (s.after (effConvert c))) ∧
    (∀ (c : Nat), exec (.copy c) s = .next (s.after (effCopy c))) ∧
    (∀ (c : Nat), exec (.fill c) s = .next (s.after (effFill c))) ∧
    (∀ (c : Nat), exec (.xferIn c) s = .next (s.after (effXferIn c))) ∧
    (∀ (c : Nat), exec (.xferOut c) s = .next (s.after (effXferOut c))) ∧
    (∀ (c : Nat), exec (.peerPush c) s = .next (s.after (effPeerPush c))) ∧
    (∀ (c : Nat), exec (.gather c) s = .next (s.after (effGather c))) ∧
    (∀ (c : Nat), exec (.reducePost c) s = .next (s.after (effReducePost c))) ∧
    (∀ (c : Nat), exec (.postStagingFree c) s = .next (s.after (effPostStagingFree c))) ∧
    (∀ (c : Nat), exec (.wait c) s = .next (s.after (effWait c))) ∧
    (∀ (c : Nat), exec (.waitResume c) s = .next (s.after (effWaitResume c))) ∧
    (∀ (c : Nat), exec (.signal c) s = .next (s.after (effSignalOp c))) ∧
    (∀ (c : Nat), exec (.pred c) s = .next (s.after (effPred c))) ∧
    (∀ (c : Nat), exec (.srset c) s = .next (s.after (effSrset c))) ∧
    (∀ (c : Nat), exec (.fence c) s = .next (s.after (effFence c))) ∧
    (∀ (c k held : Nat), exec (.opComplete c k held) s = .next (s.after (effOpComplete c k held))) ∧
    (∀ (c : Nat), exec (.injResidue c) s = .next (s.after (effInjResidue c))) ∧
    (∀ (c : Nat), exec (.injPlateCe c) s = .next (s.after (effInjPlateCe c))) ∧
    (∀ (c : Nat), exec (.injPlateUe c) s = .next (s.after (effInjPlateUe c))) ∧
    (∀ (c : Nat), exec (.injAccParity c) s = .next (s.after (effInjAccParity c))) ∧
    (∀ (c : Nat), exec (.tagFlush c) s = .next (s.after (effTagFlush c)))

/-- Each command of the steward cores (04_steward_cores.md) completes: its effect acts on the module, and the waiting
commands and the fuses stay. -/
def Obligations.StewardCommandsComplete : Prop :=
  ∀ s : State, Live s →
    (∀ (s0 h : Nat) (e : StwEffect) (fetch : ReadCheck), exec (.stewardInstruction s0 h e fetch) s = .next (s.after (effStewardInstruction s0 h e fetch))) ∧
    (∀ (s0 h rd n ns : Nat), exec (.tlcommit s0 h rd n ns) s = .next (s.after (effTlcommit s0 h rd n ns))) ∧
    (∀ (s0 h rd : Nat), exec (.edgewait s0 h rd) s = .next (s.after (effEdgewait s0 h rd))) ∧
    (∀ (s0 h : Nat), exec (.edgewaitResume s0 h) s = .next (s.after (effEdgewaitResume s0 h))) ∧
    (∀ (s0 h : Nat), exec (.stewardReadDone s0 h) s = .next (s.after (effStewardReadDone s0 h))) ∧
    (∀ (s0 : Nat), exec (.injTcm s0) s = .next (s.after (effInjTcm s0)))

/-- Each command of device memory (05_memory_and_carveouts.md) completes: its effect acts on the module, and the waiting
commands and the fuses stay. -/
def Obligations.MemoryCommandsComplete : Prop :=
  ∀ s : State, Live s →
    (∀ (write : Bool) (part off len cls : Nat) (req : Requester) (data : List Byte) (errs : ReadErrs) (at_ done : Nat), exec (.memRequest write part off len cls req data errs at_ done) s = .next (s.after (effMemRequest write part off len cls req data errs at_ done))) ∧
    (∀ (die line : Nat), exec (.enlargerEntryClose die line) s = .next (s.after (effEnlClose die line))) ∧
    (∀ (line k : Nat) (errs : ReadErrs) (now : Nat), exec (.memReadReturn line k errs now) s = .next (s.after (effMemReadReturn line k errs now))) ∧
    (∀ (ch : Nat) (errs : ReadErrs), exec (.scrubRead ch errs) s = .next (s.after (effScrubRead ch errs))) ∧
    (∀ (l : List (Nat × Nat × Nat)), exec (.fillReport l) s = .next (s.after (effFillReport l))) ∧
    (∀ (ch gib : Nat), exec (.clearingDone ch gib) s = .next (s.after (effClearingDone ch gib))) ∧
    (∀ (ch : Nat), exec (.channelZeroed ch) s = .next (s.after (effChannelZeroed ch))) ∧
    (∀ (d : Nat), exec (.injHbmCe d) s = .next (s.after (effInjHbmCe d))) ∧
    (∀ (d : Nat), exec (.injHbmUe d) s = .next (s.after (effInjHbmUe d))) ∧
    (∀ (d : Nat), exec (.injDdrCe d) s = .next (s.after (effInjDdrCe d))) ∧
    (∀ (d : Nat), exec (.injDdrUe d) s = .next (s.after (effInjDdrUe d))) ∧
    (∀ (d : Nat), exec (.injDdrMac d) s = .next (s.after (effInjDdrMac d))) ∧
    (∀ (die n cls : Nat), exec (.memLatRcRead die n cls) s = .next (s.after (effMemLatRcRead die n cls)))

/-- Each command of sequence state and leases (06_sequence_state.md) completes: its effect acts on the module, and the
waiting commands and the fuses stay. -/
def Obligations.SequenceCommandsComplete : Prop :=
  ∀ s : State, Live s →
    exec .seqOpen s = .next (s.after (effSeqCmd 1)) ∧
    exec .seqAppend s = .next (s.after (effSeqCmd 2)) ∧
    exec .seqPull s = .next (s.after (effSeqCmd 3)) ∧
    exec .seqDemote s = .next (s.after (effSeqCmd 4)) ∧
    exec .seqRemap s = .next (s.after (effSeqCmd 5)) ∧
    exec .seqTruncate s = .next (s.after (effSeqCmd 6)) ∧
    exec .seqClose s = .next (s.after (effSeqCmd 7)) ∧
    exec .seqOffer s = .next (s.after (effSeqCmd 8)) ∧
    exec .seqRenew s = .next (s.after (effSeqCmd 9)) ∧
    exec .seqReclaim s = .next (s.after (effSeqCmd 10)) ∧
    (∀ (id page : Nat), exec (.pullComplete id page) s = .next (s.after (effCopyComplete false id page))) ∧
    (∀ (id page : Nat), exec (.demoteComplete id page) s = .next (s.after (effCopyComplete true id page))) ∧
    (∀ (uid : Nat), exec (.holdLimit uid) s = .next (s.after (effHoldLimit uid))) ∧
    (∀ (x : PageReader), exec (.tier2ReadFail x) s = .next (s.after (effTier2ReadFail x))) ∧
    (∀ (id : Nat), exec (.leaseExpiry id) s = .next (s.after (effLeaseExpiry id))) ∧
    (∀ (sender seg epoch commitSeq expiry : Nat), exec (.leaseOfferReceived sender seg epoch commitSeq expiry) s = .next (s.after (effLeaseReceived 1 sender seg epoch commitSeq expiry))) ∧
    (∀ (sender seg epoch commitSeq expiry : Nat), exec (.leaseAcceptReceived sender seg epoch commitSeq expiry) s = .next (s.after (effLeaseReceived 2 sender seg epoch commitSeq expiry))) ∧
    (∀ (sender seg epoch commitSeq expiry : Nat), exec (.leaseReleaseReceived sender seg epoch commitSeq expiry) s = .next (s.after (effLeaseReceived 3 sender seg epoch commitSeq expiry))) ∧
    (∀ (sender seg epoch commitSeq expiry : Nat), exec (.leaseEpochReceived sender seg epoch commitSeq expiry) s = .next (s.after (effLeaseReceived 4 sender seg epoch commitSeq expiry))) ∧
    (∀ (k : Nat) (pages : Bool) (value : Nat), exec (.seqPoolWrite k pages value) s = .next (s.after (effSeqPoolWrite k pages value)))

/-- Each command of address translation (07_address_translation.md) completes: its effect acts on the module, and the
waiting commands and the fuses stay. -/
def Obligations.TranslationCommandsComplete : Prop :=
  ∀ s : State, Live s →
    (∀ (fn pasid page : Nat) (ok : Bool) (pa sizeLog : Nat) (rd wr : Bool), exec (.translationCompletion fn pasid page ok pa sizeLog rd wr) s = .next (s.after (fun m => (tlp fn (effTranslationCompletion fn pasid page ok pa sizeLog rd wr) m).afterXlat))) ∧
    (∀ (fn prg code : Nat), exec (.prgResponse fn prg code) s = .next (s.after (fun m => (tlp fn (effPrgResponse fn prg code) m).afterXlat))) ∧
    (∀ (fn pasid page : Nat), exec (.priTimeout fn pasid page) s = .next (s.after (fun m => (effPriTimeout fn pasid page m).afterXlat))) ∧
    (∀ (fn : Nat) (pasid : Option Nat) (base size tag : Nat), exec (.invalidateRequest fn pasid base size tag) s = .next (s.after (tlp fn (effInvalidateRequest fn pasid base size tag)))) ∧
    (∀ (value : Nat), exec (.xlatFlush value) s = .next (s.after (effXlatFlush value))) ∧
    (∀ (fn alloc : Nat), exec (.priEnableWrite fn alloc) s = .next (s.after (cfgWrite (effPriEnable fn alloc))))

/-- Each command of seams and links (08_module_fabric.md, 09_mehrusk_links.md) completes: its effect acts on the module,
and the waiting commands and the fuses stay. -/
def Obligations.LinkCommandsComplete : Prop :=
  ∀ s : State, Live s →
    (∀ (d k dir g : Nat) (again : Bool), exec (.seamCrcFail d k dir g again) s = .next (s.after (effSeamCrcFail d k dir g again))) ∧
    (∀ (d k : Nat), exec (.seamInjCrc d k) s = .next (s.after (effSeamInjCrc d k))) ∧
    (∀ (p sess skip : Nat) (resent : List Nat) (raws : List (List Byte)), exec (.runReceived p sess skip resent raws) s = .next (s.after (effRunReceived p sess skip resent raws))) ∧
    (∀ (p sess ack : Nat), exec (.nakReceived p sess ack) s = .next (s.after (effNakReceived p sess ack))) ∧
    (∀ (p sess : Nat), exec (.ackTimeout p sess) s = .next (s.after (effAckTimeout p sess))) ∧
    (∀ (p : Nat) (trips : List (Nat × Nat × Nat × Nat)), exec (.laneDropDone p trips) s = .next (s.after (effLaneDropDone p trips))) ∧
    (∀ (p rate width : Nat) (trips : List (Nat × Nat × Nat × Nat)) (chal : List (List Byte)), exec (.linkTrained p rate width trips chal) s = .next (s.after (effLinkTrained p rate width trips chal))) ∧
    (∀ (p : Nat), exec (.trainFail p) s = .next (s.after (effTrainFail p))) ∧
    (∀ (p sess mid port code : Nat) (serial : List Byte) (epoch : Nat) (challenge chal : List Byte), exec (.authReceived p sess mid port code serial epoch challenge chal) s = .next (s.after (effAuthReceived p sess mid port code serial epoch challenge chal))) ∧
    (∀ (p sess : Nat) (tag : List Byte), exec (.proofReceived p sess tag) s = .next (s.after (effProofReceived p sess tag))) ∧
    (∀ (p sess : Nat) (chal : List Byte), exec (.authRetry p sess chal) s = .next (s.after (effAuthRetry p sess chal))) ∧
    (∀ (p sess : Nat) (chal : List Byte), exec (.runCounterEnd p sess chal) s = .next (s.after (effRunCounterEnd p sess chal))) ∧
    (∀ (p slot launch : Nat), exec (.slotStart p slot launch) s = .next (s.after (effSlotStart p slot launch))) ∧
    exec .messageRoute s = .next (s.after effMessageRoute) ∧
    (∀ (p : Nat) (frame : List Byte), exec (.ethFrameReceived p frame) s = .next (s.after (effEthFrameReceived p frame))) ∧
    (∀ (p sess : Nat), exec (.ethFrameTimeout p sess) s = .next (s.after (effEthFrameTimeout p sess))) ∧
    (∀ (p cause : Nat), exec (.portDown p cause) s = .next (s.after (effPortDown p cause))) ∧
    (∀ (p : Nat) (on : Bool), exec (.linkEnableWrite p on) s = .next (s.after (effLinkEnable p on))) ∧
    (∀ (p : Nat), exec (.linkRetrain p) s = .next (s.after (effLinkRetrain p))) ∧
    (∀ (p : Nat), exec (.linkInjCrc p) s = .next (s.after (effLinkInjCrc p))) ∧
    (∀ (p : Nat), exec (.linkInjTag p) s = .next (s.after (effLinkInjTag p))) ∧
    (∀ (port : Bool) (k : Nat), exec (.recalibrationSlice port k) s = .next (s.after (effRecalibration port k)))

/-- Each command of the tick (01_frames_and_shutter.md) completes: its effect acts on the module, and the waiting commands
and the fuses stay. -/
def Obligations.TickCommandsComplete : Prop :=
  ∀ s : State, Live s →
    (∀ (p frame root tree hop launch : Nat) (arrival : Int), exec (.tickMarkReceived p frame root tree hop launch arrival) s = .next (s.after (effTickMarkReceived p frame root tree hop launch arrival))) ∧
    exec .tickMarkTimeout s = .next (s.after effTickMarkTimeout) ∧
    exec .holdoverEnter s = .next (s.after effHoldoverEnter) ∧
    exec .slotsHeld s = .next (s.after effSlotsHeld) ∧
    exec .relock s = .next (s.after effRelock) ∧
    exec .tickOrphan s = .next (s.after effTickOrphan) ∧
    (∀ (up : Nat), exec (.tickRelockRequest up) s = .next (s.after (effTickRelockRequest up))) ∧
    exec .skewExceeded s = .next (s.after effSkewExceeded) ∧
    (∀ (off : Int), exec (.tickRefPulse off) s = .next (s.after (effTickRefPulse off))) ∧
    exec .tickRefLost s = .next (s.after effTickRefLost) ∧
    (∀ (p domain seqNo : Nat) (twoStep : Bool) (origin corr rx : Int), exec (.ptpSyncReceived p domain seqNo twoStep origin corr rx) s = .next (s.after (effPtpSyncReceived p domain seqNo twoStep origin corr rx))) ∧
    (∀ (p domain seqNo : Nat) (origin corr : Int), exec (.ptpFollowUpReceived p domain seqNo origin corr) s = .next (s.after (effPtpFollowUpReceived p domain seqNo origin corr))) ∧
    (∀ (p domain seqNo ident : Nat) (corr rx : Int), exec (.ptpDelayReqReceived p domain seqNo ident corr rx) s = .next (s.after (effPtpDelayReqReceived p domain seqNo ident corr rx))) ∧
    (∀ (p domain seqNo : Nat) (t4 corr : Int), exec (.ptpDelayRespReceived p domain seqNo t4 corr) s = .next (s.after (effPtpDelayRespReceived p domain seqNo t4 corr))) ∧
    (∀ (p : Nat), exec (.ptpSyncSend p) s = .next (s.after (effPtpSyncSend p))) ∧
    (∀ (p : Nat) (tx : Int), exec (.ptpDelayReqSend p tx) s = .next (s.after (effPtpDelayReqSend p tx))) ∧
    exec .ptpSyncTimeout s = .next (s.after effPtpSyncTimeout)

/-- Each command of collectives (10_collectives.md) completes: its effect acts on the module, and the waiting commands and
the fuses stay. -/
def Obligations.CollectiveCommandsComplete : Prop :=
  ∀ s : State, Live s →
    exec .collDefine s = .next (s.after (effCollCmd 1)) ∧
    exec .collDestroy s = .next (s.after (effCollCmd 2)) ∧
    (∀ (port entry src : Nat), exec (.chunkReceived port entry src) s = .next (s.after (effChunkReceived port entry src))) ∧
    (∀ (port id : Nat), exec (.instanceComplete port id) s = .next (s.after (effInstanceComplete port id))) ∧
    (∀ (port id : Nat), exec (.collTimeout port id) s = .next (s.after (effCollTimeout port id))) ∧
    (∀ (src id inst : Nat), exec (.collAbortReceived src id inst) s = .next (s.after (effCollAbortReceived src id inst)))

/-- Each command of composition images, migration and arming (11_yuhar_images.md, 12_live_rebinding.md) completes: its
effect acts on the module, and the waiting commands and the fuses stay. -/
def Obligations.ImageCommandsComplete : Prop :=
  ∀ s : State, Live s →
    (∀ (slot k : Nat), exec (.submitImage slot k) s = .next (s.after (tlp 0 (effSubmitImage slot k)))) ∧
    (∀ (slot k : Nat), exec (.storeProfile slot k) s = .next (s.after (tlp 0 (effStoreProfile slot k)))) ∧
    (∀ (slot k : Nat), exec (.applyProfile slot k) s = .next (s.after (tlp 0 (effApplyProfile slot k)))) ∧
    (∀ (slot k : Nat), exec (.cancel slot k) s = .next (s.after (tlp 0 (effCancel slot k)))) ∧
    (∀ (slot : Nat) (ecdsa hss : Bool), exec (.validationDone slot ecdsa hss) s = .next (s.after (effValidationDone slot ecdsa hss))) ∧
    (∀ (slot : Nat), exec (.profileCommitted slot) s = .next (s.after (effProfileCommitted slot))) ∧
    (∀ (slot : Nat), exec (.slotRelease slot) s = .next (s.after (effSlotRelease slot))) ∧
    (∀ (relay : Bool) (nDest : Nat), exec (.armFire relay nDest) s = .next (s.after (effArmFire relay nDest))) ∧
    (∀ (id : Nat), exec (.armReceived id) s = .next (s.after (effArmReceived id))) ∧
    (∀ (state code id : Nat), exec (.statusReceived state code id) s = .next (s.after (effStatusReceived state code id))) ∧
    (∀ (id : Nat), exec (.tallyReset id) s = .next (s.after (effTallyReset id))) ∧
    (∀ (d i : Nat), exec (.migStart d i) s = .next (s.after (effMigStart d i))) ∧
    (∀ (d i : Nat), exec (.migRelease d i) s = .next (s.after (effMigRelease d i))) ∧
    (∀ (d i : Nat), exec (.migCancel d i) s = .next (s.after (effMigCancel d i))) ∧
    (∀ (d i : Nat) (errs : List (Nat × ReadErrs)), exec (.migSliceDone d i errs) s = .next (s.after (effMigSliceDone d i errs)))

/-- Each command of twin pairing (13_twin_pairing.md) completes: its effect acts on the module, and the waiting commands
and the fuses stay. -/
def Obligations.TwinningCommandsComplete : Prop :=
  ∀ s : State, Live s →
    (∀ (frame mid claimed : Nat) (serial claimedSerial : List Byte) (period : Nat) (digest : List Byte), exec (.hello frame mid claimed serial claimedSerial period digest) s = .next (s.after (effHello frame mid claimed serial claimedSerial period digest))) ∧
    (∀ (j : Nat) (echo : Bool), exec (.join j echo) s = .next (s.after (effJoin j echo))) ∧
    exec .beat s = .next (s.after effBeat) ∧
    (∀ (vd f : Nat) (recs : List NegRec) (trailer : Option NegTrailer), exec (.neg vd f recs trailer) s = .next (s.after (effNeg vd f recs trailer))) ∧
    (∀ (vd f off : Nat) (data : List Byte), exec (.mwrite vd f off data) s = .next (s.after (effMwrite vd f off data))) ∧
    (∀ (vd f print flags tiles : Nat), exec (.print vd f print flags tiles) s = .next (s.after (effPrint vd f print flags tiles))) ∧
    (∀ (vd : Nat) (digest : List Byte) (counts : List (Nat × Nat)), exec (.sync vd digest counts) s = .next (s.after (effSync vd digest counts))) ∧
    exec .failed s = .next (s.after effFailed) ∧
    exec .detach s = .next (s.after effDetach) ∧
    exec .resetReq s = .next (s.after effResetReq) ∧
    (∀ (vd f : Nat), exec (.swap vd f) s = .next (s.after (effSwap vd f))) ∧
    (∀ (vd : Nat), exec (.seedCopyDone vd) s = .next (s.after (effSeedCopyDone vd))) ∧
    (∀ (vd : Nat), exec (.twinVdSwap vd) s = .next (s.after (effTwinVdSwap vd))) ∧
    (∀ (vd f : Nat), exec (.twinVdClear vd f) s = .next (s.after (effTwinVdClear vd f))) ∧
    exec .twinInjPrint s = .next (s.after effTwinInjPrint) ∧
    exec .twinInjBeatStop s = .next (s.after effTwinInjBeatStop)

/-- Each command of the host interface (14_host_attachment.md, 15_host_objects.md) completes: its effect acts on the
module, and the waiting commands and the fuses stay. -/
def Obligations.HostCommandsComplete : Prop :=
  ∀ s : State, Live s →
    (∀ (gen lanes : Nat), exec (.pcieLinkChange gen lanes) s = .next (s.after (effPcieLink gen lanes))) ∧
    (∀ (en ari : Bool) (numVfs bar : Nat), exec (.vfEnableWrite en ari numVfs bar) s = .next (s.after (effVfEnable en ari numVfs bar))) ∧
    (∀ (v : Nat), exec (.vfMboxSend v) s = .next (s.after (tlp v (effVfMboxSend v)))) ∧
    (∀ (v : Nat), exec (.vfMboxInAck v) s = .next (s.after (tlp v (effVfMboxInAck v)))) ∧
    exec .pfMboxAck s = .next (s.after (tlp 0 effPfMboxAck)) ∧
    exec .pfMboxSend s = .next (s.after (tlp 0 effPfMboxSend)) ∧
    (∀ (fn : Nat) (write : Bool) (off len : Nat) (data : List Byte), exec (.windowAccess fn write off len data) s = .next (s.after (effWindowAccess fn write off len data))) ∧
    exec .atomicOpReceived s = .next (s.after (tlp 0 effAtomicOp)) ∧
    (∀ (fn : Nat) (w : MsixWrite), exec (.msixUnmask fn w) s = .next (s.after (tlp fn (effMsixUnmask fn w)))) ∧
    (∀ (stream : Nat), exec (.ideInsecure stream) s = .next (s.after (effIdeInsecure stream))) ∧
    (∀ (fn slot v upper : Nat), exec (.tail fn slot v upper) s = .next (s.after (tlp fn (effTail fn slot v upper)))) ∧
    (∀ (fn slot value upper : Nat), exec (.ref fn slot value upper) s = .next (s.after (tlp fn (effRef fn slot value upper)))) ∧
    (∀ (fn slot value upper : Nat), exec (.unref fn slot value upper) s = .next (s.after (tlp fn (effUnref fn slot value upper)))) ∧
    (∀ (fn slot i upper : Nat), exec (.abort fn slot i upper) s = .next (s.after (tlp fn (effAbort fn slot i upper)))) ∧
    (∀ (fn slot v : Nat), exec (.qcHead fn slot v) s = .next (s.after (tlp fn (effQcHead fn slot v)))) ∧
    (∀ (value upper : Nat), exec (.hostRefWrite value upper) s = .next (s.after (tlp 0 (effHostRef value upper)))) ∧
    exec .hostEnable s = .next (s.after (tlp 0 effHostEnable)) ∧
    exec .hostLock s = .next (s.after (tlp 0 effHostLock)) ∧
    exec .execCommand s = .next (s.after effExec) ∧
    exec .signalCommand s = .next (s.after effSignalCmd) ∧
    exec .create s = .next (s.after effCreate) ∧
    exec .moveCtx s = .next (s.after effMoveCtx) ∧
    exec .loseCtx s = .next (s.after effLoseCtx) ∧
    exec .badKindCommand s = .next (s.after effBadKind) ∧
    (∀ (present : Bool), exec (.twinPresentChange present) s = .next (s.after (effTwinPresent present))) ∧
    (∀ (space off len : Nat) (write : Bool) (value : Nat) (facts : WriteFacts), exec (.registerWrite space off len write value facts) s = .next (s.after (effRegisterWrite space off len write value facts)))

/-- Each command of fault handling (16_faults_and_retirement.md) completes: its effect acts on the module, and the waiting
commands and the fuses stay. -/
def Obligations.FaultCommandsComplete : Prop :=
  ∀ s : State, Live s →
    (∀ (e : Detected), exec (.errorLogRecord e) s = .next (s.after (effErrorLog e))) ∧
    (∀ (die : Nat), exec (.logDrain die) s = .next (s.after (effLogDrain die))) ∧
    (∀ (v : Nat), exec (.ringHeadWrite v) s = .next (s.after (effRingHead v))) ∧
    (∀ (row unit : Nat), exec (.historyWindowClose row unit) s = .next (s.after (effHistoryClose row unit))) ∧
    exec .moraineRemove s = .next (s.after effMoraineRemove) ∧
    exec .faultReportSend s = .next (s.after effFaultSend) ∧
    (∀ (cls cause ut unit subject frame reporter : Nat), exec (.faultReportReceived cls cause ut unit subject frame reporter) s = .next (s.after (effFaultReceived cls cause ut unit subject frame reporter))) ∧
    (∀ (cls ut unit subject : Nat), exec (.damperUpdate cls ut unit subject) s = .next (s.after (effDamperUpdate cls ut unit subject))) ∧
    (∀ (cls ut unit subject : Nat), exec (.damperEntryClose cls ut unit subject) s = .next (s.after (effDamperClose cls ut unit subject))) ∧
    exec .damperOverflowReport s = .next (s.after effDamperOverflow)

/-- Each command of power and current (17_power_and_current.md) completes: its effect acts on the module, and the waiting
commands and the fuses stay. -/
def Obligations.PowerCommandsComplete : Prop :=
  ∀ s : State, Live s →
    (∀ (x : PowerSample), exec (.powerEstimate x) s = .next (s.after (effPowerEstimate x))) ∧
    exec .beResume s = .next (s.after effBeResume) ∧
    (∀ (l : List (Nat × Nat)), exec (.calibration l) s = .next (s.after (effCalibration l))) ∧
    (∀ (rail : Nat), exec (.clampTrip rail) s = .next (s.after (effClampTrip rail))) ∧
    (∀ (rail held : Nat), exec (.clampRelease rail held) s = .next (s.after (effClampRelease rail held))) ∧
    (∀ (rail : Nat), exec (.railFault rail) s = .next (s.after (effRailFault rail))) ∧
    (∀ (removed : Bool), exec (.inputOutOfRange removed) s = .next (s.after (effInputOutOfRange removed))) ∧
    (∀ (conv : Nat), exec (.converterFail conv) s = .next (s.after (effConverterFail conv))) ∧
    (∀ (l : List (Nat × Nat)), exec (.tempSample l) s = .next (s.after (effTempSample l))) ∧
    exec .thermtrip s = .next (s.after effThermtrip) ∧
    (∀ (w : Nat), exec (.pwrCapWrite w) s = .next (s.after (effPwrCap w))) ∧
    (∀ (w : Nat), exec (.pwrPeakWrite w) s = .next (s.after (effPwrPeak w))) ∧
    exec .capInForce s = .next (s.after effCapInForce)

/-- Each command of management (21_journal_and_service.md) completes: its effect acts on the module, and the waiting
commands and the fuses stay. -/
def Obligations.ManagementCommandsComplete : Prop :=
  ∀ s : State, Live s →
    (∀ (id value : Nat), exec (.setNumericEffecterValue id value) s = .next (s.after (effSetEffecter id value))) ∧
    (∀ (id : Nat), exec (.getSensorReading id) s = .next (s.after (effGetSensor id))) ∧
    (∀ (id : Nat), exec (.getStateSensorReadings id) s = .next (s.after (effGetStateSensor id))) ∧
    exec .requestUpdate s = .next (s.after effRequestUpdate) ∧
    (∀ (ids : List Nat), exec (.passComponentTable ids) s = .next (s.after (effPassComponentTable ids))) ∧
    (∀ (id : Nat), exec (.updateComponent id) s = .next (s.after (effUpdateComponent id))) ∧
    (∀ (data : List Byte) (ecdsa hss : Bool), exec (.transferComplete data ecdsa hss) s = .next (s.after (effTransferComplete data ecdsa hss))) ∧
    exec .verifyComplete s = .next (s.after effVerifyComplete) ∧
    exec .applyComplete s = .next (s.after effApplyComplete) ∧
    (∀ (selfContained : Bool) (sigs : List (Nat × Bool × Bool)), exec (.activateFirmware selfContained sigs) s = .next (s.after (effActivateFirmware selfContained sigs))) ∧
    (∀ (tag : Nat), exec (.getStatus tag) s = .next (s.after (effMgmt tag .getStatus))) ∧
    (∀ (tag off : Nat), exec (.readReg tag off) s = .next (s.after (effMgmt tag (.readReg off)))) ∧
    (∀ (tag off value : Nat) (facts : WriteFacts), exec (.writeReg tag off value facts) s = .next (s.after (effMgmt tag (.writeReg off value facts)))) ∧
    (∀ (tag off len : Nat), exec (.mgmtMemRead tag off len) s = .next (s.after (effMgmt tag (.memRead off len)))) ∧
    (∀ (tag off : Nat) (data : List Byte), exec (.mgmtMemWrite tag off data) s = .next (s.after (effMgmt tag (.memWrite off data)))) ∧
    (∀ (tag : Nat), exec (.mgmtReset tag) s = .next (s.after (effMgmt tag .reset))) ∧
    (∀ (tag : Nat) (bytes : List Byte) (ecdsa hss : Bool), exec (.token tag bytes ecdsa hss) s = .next (s.after (effMgmt tag (.token bytes ecdsa hss)))) ∧
    (∀ (tag s0 : Nat) (cmd : DebugCmd), exec (.debugCommand tag s0 cmd) s = .next (s.after (effMgmt tag (.debug s0 cmd)))) ∧
    (∀ (tag core len : Nat), exec (.traceRead tag core len) s = .next (s.after (effMgmt tag (.traceRead core len)))) ∧
    (∀ (tag k : Nat) (clear : Bool), exec (.setProfile tag k clear) s = .next (s.after (effMgmt tag (.setProfile k clear)))) ∧
    (∀ (tag part slot off : Nat) (data : List Byte) (last ecdsa hss : Bool), exec (.writeSlot tag part slot off data last ecdsa hss) s = .next (s.after (effMgmt tag (.writeSlot part slot off data last ecdsa hss)))) ∧
    (∀ (tag : Nat), exec (.formatJournal tag) s = .next (s.after (effMgmt tag .formatJournal))) ∧
    (∀ (src tag : Nat) (cmd : MgmtCmd), exec (.mgmtCtrlReceived src tag cmd) s = .next (s.after (effMgmtCtrl src tag cmd))) ∧
    (∀ (addr : Nat), exec (.i3cEntdaa addr) s = .next (s.after (effEntdaa addr))) ∧
    (∀ (cmd : Nat) (data : List Byte), exec (.mctpControl cmd data) s = .next (s.after (effMctpControl cmd data)))

/-- Each command of security and the life cycle (18_security.md, 19_life_cycle.md) completes: its effect acts on the
module, and the waiting commands and the fuses stay but for the one fuse word of FUSE_PULSE_DONE. -/
def Obligations.TrustCommandsComplete : Prop :=
  ∀ s : State, Live s →
    (∀ (ecdsa hss : Bool), exec (.revocationSubmit ecdsa hss) s = .next (s.after (effRevocation ecdsa hss))) ∧
    (∀ (tr : Nat), exec (.getVersion tr) s = .next (s.after (effGetVersion tr))) ∧
    (∀ (tr : Nat), exec (.getCapabilities tr) s = .next (s.after (effGetCapabilities tr))) ∧
    (∀ (tr : Nat) (offer : SpdmAlgs), exec (.negotiateAlgorithms tr offer) s = .next (s.after (effNegotiate tr offer))) ∧
    (∀ (tr : Nat) (sess : Option Nat), exec (.getDigests tr sess) s = .next (s.after (effGetDigests tr sess))) ∧
    (∀ (tr : Nat) (sess : Option Nat) (slot off len : Nat), exec (.getCertificate tr sess slot off len) s = .next (s.after (effGetCertificate tr sess slot off len))) ∧
    (∀ (tr slot : Nat), exec (.challenge tr slot) s = .next (s.after (effChallenge tr slot))) ∧
    (∀ (tr : Nat) (sess : Option Nat) (idx : Nat) (sign : Bool), exec (.getMeasurements tr sess idx sign) s = .next (s.after (effGetMeasurements tr sess idx sign))) ∧
    (∀ (tr : Nat), exec (.keyExchange tr) s = .next (s.after (effKeyExchange tr))) ∧
    (∀ (k : Nat) (ok : Bool), exec (.finish k ok) s = .next (s.after (effFinish k ok))) ∧
    (∀ (k : Nat), exec (.keyUpdate k) s = .next (s.after (effKeyUpdate k))) ∧
    (∀ (k : Nat), exec (.endSession k) s = .next (s.after (effEndSession k))) ∧
    (∀ (tr : Nat) (sess : Option Nat), exec (.getHssEndorsement tr sess) s = .next (s.after (effHssEndorsement tr sess))) ∧
    (∀ (tr : Nat) (sess : Option Nat), exec (.getHssSignature tr sess) s = .next (s.after (effHssSignature tr sess))) ∧
    (∀ (sess : Nat), exec (.ideKmQuery sess) s = .next (s.after (effIdeQuery sess))) ∧
    (∀ (sess stream set lo hi : Nat), exec (.ideKmKeyProg sess stream set lo hi) s = .next (s.after (effIdeKeyProg sess stream set lo hi))) ∧
    (∀ (sess stream set : Nat), exec (.ideKmKSetGo sess stream set) s = .next (s.after (effIdeSetGo sess stream set))) ∧
    (∀ (sess stream set : Nat), exec (.ideKmKSetStop sess stream set) s = .next (s.after (effIdeSetStop sess stream set))) ∧
    (∀ (ecdsa hss : Bool), exec (.lcsTokenGo ecdsa hss) s = .next (s.after (effLcsTokenGo ecdsa hss))) ∧
    (∀ (rnd : List Byte), exec (.newChallenge rnd) s = .next (s.after (effNewChallenge rnd))) ∧
    exec .debugRelock s = .next (s.after effDebugRelock) ∧
    (∀ (rev ok : Bool), exec (.fusePulseDone rev ok) s = .next (effFusePulse rev ok s))

/-- Each command of reset and bring-up (20_reset_clocks_bringup.md) completes: its effect acts on the module, and the
waiting commands and the fuses stay. POWER_ON before the rails are in regulation, with at most four converters failed
and no latched stop left, starts the converters in every state, under reset too, releases THERMTRIP_N and drives RST_N
low; RAILS_IN_REGULATION with the converters running raises PWR_GOOD. -/
def Obligations.ResetCommandsComplete : Prop :=
  (∀ s : State, Live s →
    (∀ (cleared : Bool), exec (.powerOn cleared) s = .next (s.after (effPowerOn cleared))) ∧
    exec .railsInRegulation s = .next (s.after effRailsInRegulation) ∧
    exec .pwrEnLow s = .next (s.after effPwrEnLow) ∧
    exec .rstNAssert s = .next (s.after effRstNAssert) ∧
    exec .perstAssert s = .next (s.after effPerstAssert) ∧
    exec .perstDeassert s = .next (s.after effPerstDeassert) ∧
    exec .hotReset s = .next (s.after effHotReset) ∧
    exec .pfFlr s = .next (s.after effPfFlr) ∧
    (∀ (v : Nat), exec (.vfFlr v) s = .next (s.after (effVfFlr v))) ∧
    exec .hostResetComplete s = .next (s.after effHostResetComplete) ∧
    (∀ (w : Nat), exec (.moduleReset w) s = .next (s.after (effModuleReset w))) ∧
    (∀ (program : Bool), exec (.holdoffStart program) s = .next (s.after (effHoldoffStart program))) ∧
    (∀ (us : Nat), exec (.internalResetAssert us) s = .next (s.after (effInternalResetAssert us))) ∧
    (∀ (slot : Nat), exec (.internalResetRelease slot) s = .next (s.after (effInternalResetRelease slot))) ∧
    (∀ (f : StepFacts), exec (.bringupStepEnd f) s = .next (s.after (effBringupStepEnd f))) ∧
    exec .watchdogExpiry s = .next (s.after effWatchdogExpiry) ∧
    (∀ (blk i : Nat), exec (.swrstCounters blk i) s = .next (s.after (effSwrstCounters blk i))) ∧
    (∀ (blk i : Nat), exec (.swrstUnit blk i) s = .next (s.after (effSwrstUnit blk i))) ∧
    exec .swrstUnitDone s = .next (s.after effSwrstUnitDone)) ∧
    -- POWER_ON: not yet in regulation, at most four converters failed, and no latched stop is left
    (∀ (s : State) (cleared : Bool), s.m.rst.good = false → s.m.rst.failed.length ≤ 4 → (s.m.rst.latched = false ∨ cleared = true) →
      exec (.powerOn cleared) s = .next (s.after (fun m =>
        let m := m.setRst (fun r => { r with inputOk := true, pwrEn := true, latched := false })
        let m := if m.pins.therm then (m.setPins (fun p => { p with therm := false })).emit (.pin 3 1) else m
        if m.pins.rstOwn then m else (m.setPins (fun p => { p with rstOwn := true })).emit (.pin 0 0)))) ∧
    -- RAILS_IN_REGULATION: the converters run, and the rails were not in regulation
    (∀ s : State, s.m.rst.good = false → s.m.rst.inputOk = true → s.m.rst.pwrEn = true → s.m.rst.latched = false →
      exec .railsInRegulation s = .next (s.after (fun m => (m.setRst (fun r => { r with good := true })).emit (.pin 1 1))))

/-- Each command of the journal, firmware slots and DDR5 service (21_journal_and_service.md) completes: its effect acts on
the module, and the waiting commands and the fuses stay. -/
def Obligations.JournalCommandsComplete : Prop :=
  ∀ s : State, Live s →
    exec .journalCommit s = .next (s.after effJournalCommit) ∧
    (∀ (copy ok : Bool), exec (.flashProgramDone copy ok) s = .next (s.after (effFlashProgramDone copy ok))) ∧
    exec .flashEraseDone s = .next (s.after effFlashEraseDone) ∧
    (∀ (part slot : Nat) (ecdsa hss : Bool), exec (.fwActivate part slot ecdsa hss) s = .next (s.after (effFwCtrl part slot ecdsa hss))) ∧
    (∀ (part : Nat), exec (.fwReady part) s = .next (s.after (effFwReady part))) ∧
    (∀ (part : Nat) (ecdsa hss : Bool), exec (.fwTrialTimeout part ecdsa hss) s = .next (s.after (effFwTrialTimeout part ecdsa hss))) ∧
    (∀ (ch : Nat), exec (.ddrOffline ch) s = .next (s.after (effDdrOffline ch))) ∧
    (∀ (ch : Nat), exec (.ddrOnline ch) s = .next (s.after (effDdrOnline ch))) ∧
    (∀ (gib speed : Nat) (x8 : Bool) (serial : Nat), exec (.dimmPowerWaitDone gib speed x8 serial) s = .next (s.after (effDimmPowerWait gib speed x8 serial))) ∧
    (∀ (ok : Bool), exec (.ddrTrainingDone ok) s = .next (s.after (effDdrTrainingDone ok))) ∧
    exec .ddrInitDone s = .next (s.after effDdrInitDone)
end

