-- ==== Sys2Proof/Laws/Bytes.lean ====
section
/-!
SUPPORT. Lemmas on byte strings: the numbers that little-endian bytes hold, and fields of records put together from parts.
-/
namespace Sys2Proof

@[simp] theorem length_leBytes (n v : Nat) : (leBytes n v).length = n := by
  induction n generalizing v with
  | zero => rfl
  | succ n ih => simp [leBytes, ih]

@[simp] theorem length_zeros (n : Nat) : (zeros n).length = n := by simp [zeros]

/-- Little-endian bytes hold their number, cut to their width. -/
theorem leNat_leBytes (n v : Nat) : leNat (leBytes n v) = v % 256 ^ n := by
  induction n generalizing v with
  | zero => simp [leBytes, leNat, Nat.mod_one]
  | succ n ih =>
    simp only [leBytes, leNat, ih, BitVec.toNat_ofNat]
    rw [show (256 : Nat) ^ (n + 1) = 256 * 256 ^ n by omega, Nat.mod_mul]

/-- The first field of a record put together from parts. -/
theorem fieldOf_leBytes (n v : Nat) (rest : List Byte) : fieldOf (leBytes n v ++ rest) 0 n = v % 256 ^ n := by
  simp [fieldOf, leNat_leBytes]

/-- A record that is one field. -/
theorem fieldOf_last (n v : Nat) : fieldOf (leBytes n v) 0 n = v % 256 ^ n := by simpa using fieldOf_leBytes n v []

/-- A field that lies after the first part of a record. -/
theorem fieldOf_append {a : List Byte} (b : List Byte) {off : Nat} (len : Nat) (h : a.length ≤ off) :
    fieldOf (a ++ b) off len = fieldOf b (off - a.length) len := by
  simp [fieldOf, List.drop_append, List.drop_eq_nil_of_le h]

/-- A field after a first part of `n` little-endian bytes. -/
theorem fieldOf_skip (n v : Nat) (b : List Byte) {off : Nat} (len : Nat) (h : n ≤ off) :
    fieldOf (leBytes n v ++ b) off len = fieldOf b (off - n) len := by
  rw [fieldOf_append b len (by simpa using h), length_leBytes]

namespace Machine

@[simp] theorem length_padTo (n : Nat) (bs : List Byte) : (padTo n bs).length = n := by
  simp only [padTo, List.length_take, List.length_append, length_zeros]; omega

/-- A string of at most `n` bytes stands at the front of its padding. -/
theorem take_padTo {n : Nat} {bs : List Byte} (h : bs.length ≤ n) : (padTo n bs).take bs.length = bs := by
  simp [padTo, List.take_take, Nat.min_eq_left h]

end Machine

end Sys2Proof
end

