-- ==== Sys2Proof/Laws/Maps.lean ====
section
/-!
SUPPORT. The laws of sparse maps, tables and byte memory: a read after a write, a write that leaves every other key alone,
and the canonical form, which every operation keeps.
-/
namespace Sys2Proof.Machine

/-! ### Sparse maps -/

@[simp] theorem SMap.get_nil {α : Type} (d : Nat → α) (k : Nat) : SMap.get d [] k = d k := rfl

@[simp] theorem SMap.wf_nil {α : Type} [DecidableEq α] (d : Nat → α) : SMap.wf d [] = true := rfl

/-- Every key of the map lies above `k`. -/
def SMap.above {α : Type} (k : Nat) (m : SMap α) : Prop := ∀ e ∈ m, k < e.1

theorem SMap.wf_cons {α : Type} [DecidableEq α] {d : Nat → α} {k : Nat} {v : α} {m : SMap α} :
    SMap.wf d ((k, v) :: m) = true ↔ v ≠ d k ∧ SMap.above k m ∧ SMap.wf d m = true := by
  induction m generalizing k v with
  | nil => simp [SMap.wf, SMap.above]
  | cons e r ih =>
    obtain ⟨j, w⟩ := e
    simp only [SMap.wf, Bool.and_eq_true, decide_eq_true_eq]
    constructor
    · rintro ⟨⟨hv, hk⟩, hr⟩
      refine ⟨hv, ?_, hr⟩
      intro e he
      rcases List.mem_cons.mp he with rfl | he
      · exact hk
      · have := (ih.mp hr).2.1 e he
        omega
    · rintro ⟨hv, ha, hr⟩
      exact ⟨⟨hv, ha (j, w) (List.mem_cons_self ..)⟩, hr⟩

theorem SMap.get_above {α : Type} {d : Nat → α} {k j : Nat} {m : SMap α} (h : SMap.above k m) (hj : j ≤ k) :
    SMap.get d m j = d j := by
  cases m with
  | nil => rfl
  | cons e r =>
    obtain ⟨i, w⟩ := e
    have hi : k < i := h (i, w) (List.mem_cons_self ..)
    have h1 : i ≠ j := by omega
    have h2 : j < i := by omega
    simp [SMap.get, h1, h2]

/-- Setting a key keeps every bound below all keys. -/
theorem SMap.above_set {α : Type} [DecidableEq α] {d : Nat → α} {j k : Nat} {v : α} {m : SMap α} (h : SMap.above j m) (hk : j < k) :
    SMap.above j (SMap.set d m k v) := by
  induction m with
  | nil =>
    intro e he
    simp only [SMap.set] at he
    split at he
    · cases he
    · rcases List.mem_singleton.mp he with rfl; exact hk
  | cons x r ih =>
    obtain ⟨i, w⟩ := x
    have hr : SMap.above j r := fun e he => h e (List.mem_cons_of_mem _ he)
    have hi : j < i := h (i, w) (List.mem_cons_self ..)
    intro e he
    simp only [SMap.set] at he
    split at he
    · split at he
      · exact hr e he
      · rcases List.mem_cons.mp he with rfl | he
        · exact hk
        · exact hr e he
    · split at he
      · split at he
        · exact h e he
        · rcases List.mem_cons.mp he with rfl | he
          · exact hk
          · exact h e he
      · rcases List.mem_cons.mp he with rfl | he
        · exact hi
        · exact ih hr e he

/-- Setting a key keeps the canonical form. -/
theorem SMap.wf_set {α : Type} [DecidableEq α] {d : Nat → α} {m : SMap α} (h : SMap.wf d m = true) (k : Nat) (v : α) :
    SMap.wf d (SMap.set d m k v) = true := by
  induction m with
  | nil =>
    simp only [SMap.set]
    split
    · rfl
    · simp [SMap.wf, *]
  | cons x r ih =>
    obtain ⟨i, w⟩ := x
    obtain ⟨hw, ha, hr⟩ := SMap.wf_cons.mp h
    simp only [SMap.set]
    split
    · next he =>
      subst he
      split
      · exact hr
      · exact SMap.wf_cons.mpr ⟨‹_›, ha, hr⟩
    · split
      · next hne hlt =>
        split
        · exact h
        · refine SMap.wf_cons.mpr ⟨‹_›, ?_, h⟩
          intro e he
          rcases List.mem_cons.mp he with rfl | he
          · exact hlt
          · have := ha e he
            omega
      · next hne hlt => exact SMap.wf_cons.mpr ⟨hw, SMap.above_set ha (by omega), ih hr⟩

/-- A key that was set reads as its value. -/
theorem SMap.get_set_same {α : Type} [DecidableEq α] {d : Nat → α} {m : SMap α} (h : SMap.wf d m = true) (k : Nat) (v : α) :
    SMap.get d (SMap.set d m k v) k = v := by
  induction m with
  | nil =>
    simp only [SMap.set]
    split
    · next he => simp [SMap.get, he]
    · simp [SMap.get]
  | cons x r ih =>
    obtain ⟨i, w⟩ := x
    obtain ⟨hw, ha, hr⟩ := SMap.wf_cons.mp h
    simp only [SMap.set]
    split
    · next he =>
      subst he
      split
      · next hv => rw [SMap.get_above ha (Nat.le_refl _), hv]
      · simp [SMap.get]
    · split
      · next hne hlt =>
        split
        · next hv => simp [SMap.get, hne, hlt, hv]
        · simp [SMap.get]
      · next hne hlt => simp [SMap.get, hne, hlt, ih hr]

/-- Setting a key leaves every other key as it was. -/
theorem SMap.get_set_other {α : Type} [DecidableEq α] {d : Nat → α} {m : SMap α} (h : SMap.wf d m = true) {k j : Nat} (v : α)
    (hj : j ≠ k) : SMap.get d (SMap.set d m k v) j = SMap.get d m j := by
  induction m with
  | nil =>
    simp only [SMap.set]
    split
    · rfl
    · have : k ≠ j := fun e => hj e.symm
      simp [SMap.get, this]
  | cons x r ih =>
    obtain ⟨i, w⟩ := x
    obtain ⟨hw, ha, hr⟩ := SMap.wf_cons.mp h
    have hkj : k ≠ j := fun e => hj e.symm
    simp only [SMap.set]
    split
    · next he =>
      subst he
      split
      · by_cases hlt : j < i
        · rw [SMap.get_above ha (by omega)]; simp [SMap.get, hkj, hlt]
        · simp [SMap.get, hkj, hlt]
      · by_cases hlt : j < i <;> simp [SMap.get, hkj, hlt]
    · split
      · next hne hlt =>
        split
        · rfl
        · by_cases h1 : j < k
          · have h2 : i ≠ j := by omega
            have h3 : j < i := by omega
            simp [SMap.get, hkj, h1, h2, h3]
          · rw [SMap.get]; simp [hkj, h1]
      · next hne hlt =>
        by_cases h1 : i = j
        · simp [SMap.get, h1]
        · by_cases h2 : j < i <;> simp [SMap.get, h1, h2, ih hr]

/-! ### Tables -/

@[simp] theorem Tbl.get?_nil {α : Type} (k : Nat) : Tbl.get? ([] : Tbl α) k = none := rfl

/-- A record that was put is there. -/
@[simp] theorem Tbl.get?_put_same {α : Type} (t : Tbl α) (k : Nat) (v : α) : (t.put k v).get? k = some v := by
  induction t with
  | nil => simp [Tbl.put, Tbl.get?]
  | cons x r ih =>
    obtain ⟨i, w⟩ := x
    simp only [Tbl.put]
    split
    · simp [Tbl.get?]
    · split
      · simp [Tbl.get?]
      · next h1 h2 => simp [Tbl.get?, h1, h2, ih]

/-- Every identifier of the table lies above `k`. -/
def Tbl.above {α : Type} (k : Nat) (t : Tbl α) : Prop := ∀ e ∈ t, k < e.1

theorem Tbl.wf_cons {α : Type} {k : Nat} {v : α} {t : Tbl α} :
    Tbl.wf ((k, v) :: t) = true ↔ Tbl.above k t ∧ Tbl.wf t = true := by
  induction t generalizing k v with
  | nil => simp [Tbl.wf, Tbl.above]
  | cons e r ih =>
    obtain ⟨j, w⟩ := e
    simp only [Tbl.wf, Bool.and_eq_true, decide_eq_true_eq]
    constructor
    · rintro ⟨hk, hr⟩
      refine ⟨?_, hr⟩
      intro e he
      rcases List.mem_cons.mp he with rfl | he
      · exact hk
      · have := (ih.mp hr).1 e he
        omega
    · rintro ⟨ha, hr⟩
      exact ⟨ha (j, w) (List.mem_cons_self ..), hr⟩

/-- Putting a record leaves every other record as it was. -/
theorem Tbl.get?_put_other {α : Type} {t : Tbl α} (h : Tbl.wf t = true) {k j : Nat} (v : α) (hj : j ≠ k) :
    (t.put k v).get? j = t.get? j := by
  have hkj : k ≠ j := fun e => hj e.symm
  induction t with
  | nil => simp [Tbl.put, Tbl.get?, hkj]
  | cons x r ih =>
    obtain ⟨i, w⟩ := x
    obtain ⟨ha, hr⟩ := Tbl.wf_cons.mp h
    simp only [Tbl.put]
    split
    · next he => subst he; simp [Tbl.get?, hkj]
    · split
      · next hne hlt =>
        by_cases h1 : j < k
        · have h2 : i ≠ j := by omega
          have h3 : j < i := by omega
          simp [Tbl.get?, hkj, h1, h2, h3]
        · rw [Tbl.get?]; simp [hkj, h1]
      · next hne hlt =>
        by_cases h1 : i = j
        · simp [Tbl.get?, h1]
        · by_cases h2 : j < i <;> simp [Tbl.get?, h1, h2, ih hr]

/-- Putting a record keeps the identifiers strictly rising. -/
theorem Tbl.wf_put {α : Type} {t : Tbl α} (h : Tbl.wf t = true) (k : Nat) (v : α) : Tbl.wf (t.put k v) = true := by
  have key : ∀ (j : Nat) (t : Tbl α), Tbl.above j t → j < k → Tbl.above j (t.put k v) := by
    intro j t
    induction t with
    | nil => intro _ hk e he; rcases List.mem_singleton.mp he with rfl; exact hk
    | cons x r ih =>
      obtain ⟨i, w⟩ := x
      intro ha hk e he
      have hr : Tbl.above j r := fun e he => ha e (List.mem_cons_of_mem _ he)
      simp only [Tbl.put] at he
      split at he
      · rcases List.mem_cons.mp he with rfl | he
        · exact hk
        · exact hr e he
      · split at he
        · rcases List.mem_cons.mp he with rfl | he
          · exact hk
          · exact ha e he
        · rcases List.mem_cons.mp he with rfl | he
          · exact ha (i, w) (List.mem_cons_self ..)
          · exact ih hr hk e he
  induction t with
  | nil => rfl
  | cons x r ih =>
    obtain ⟨i, w⟩ := x
    obtain ⟨ha, hr⟩ := Tbl.wf_cons.mp h
    simp only [Tbl.put]
    split
    · next he => subst he; exact Tbl.wf_cons.mpr ⟨ha, hr⟩
    · split
      · next hne hlt =>
        refine Tbl.wf_cons.mpr ⟨?_, h⟩
        intro e he
        rcases List.mem_cons.mp he with rfl | he
        · exact hlt
        · have := ha e he
          omega
      · next hne hlt => exact Tbl.wf_cons.mpr ⟨key i r ha (by omega), ih hr⟩

end Sys2Proof.Machine
end

