-- ==== Sys2Proof/Laws/Memory.lean ====
section
/-!
SUPPORT. The laws of byte memory: what a byte reads as after a write of a byte string, and the canonical form, which every
write keeps.
-/
namespace Sys2Proof.Machine

/-! ### Maps in two parts -/

/-- A map whose keys are split by a bound is read in the part that the key lies in. -/
theorem SMap.get_append {α : Type} {d : Nat → α} {p : Nat} {l r : SMap α} (hl : ∀ e ∈ l, e.1 < p) (hr : ∀ e ∈ r, p ≤ e.1) (x : Nat) :
    SMap.get d (l ++ r) x = if x < p then SMap.get d l x else SMap.get d r x := by
  induction l with
  | nil =>
    simp only [List.nil_append]
    split
    · next hx =>
      cases r with
      | nil => rfl
      | cons e r =>
        obtain ⟨i, w⟩ := e
        have hi : p ≤ i := hr (i, w) (List.mem_cons_self ..)
        have h1 : i ≠ x := by omega
        have h2 : x < i := by omega
        simp [SMap.get, h1, h2]
    · rfl
  | cons e l ih =>
    obtain ⟨i, w⟩ := e
    have hi : i < p := hl (i, w) (List.mem_cons_self ..)
    have ih := ih (fun e he => hl e (List.mem_cons_of_mem _ he))
    simp only [List.cons_append, SMap.get]
    by_cases h1 : i = x
    · have : x < p := by omega
      simp [h1, this]
    · by_cases h2 : x < i
      · have : x < p := by omega
        simp [h1, h2, this]
      · simp [h1, h2, ih]

/-- Two maps with all keys of the first below all keys of the second are canonical together where each is. -/
theorem SMap.wf_append {α : Type} [DecidableEq α] {d : Nat → α} {p : Nat} {l r : SMap α} (hl : ∀ e ∈ l, e.1 < p)
    (hr : ∀ e ∈ r, p ≤ e.1) : SMap.wf d (l ++ r) = true ↔ SMap.wf d l = true ∧ SMap.wf d r = true := by
  induction l with
  | nil => simp
  | cons e l ih =>
    obtain ⟨i, w⟩ := e
    have hi : i < p := hl (i, w) (List.mem_cons_self ..)
    have ih := ih (fun e he => hl e (List.mem_cons_of_mem _ he))
    rw [List.cons_append, SMap.wf_cons, SMap.wf_cons, ih]
    constructor
    · rintro ⟨hw, ha, hl', hr'⟩
      exact ⟨⟨hw, fun e he => ha e (List.mem_append_left _ he), hl'⟩, hr'⟩
    · rintro ⟨⟨hw, ha, hl'⟩, hr'⟩
      refine ⟨hw, ?_, hl', hr'⟩
      intro e he
      rcases List.mem_append.mp he with he | he
      · exact ha e he
      · have := hr e he
        omega

/-- The first part of a map, up to a bound, lies below the bound. -/
theorem SMap.takeWhile_lt {α : Type} (m : SMap α) (a : Nat) : ∀ e ∈ m.takeWhile (fun e => e.1 < a), e.1 < a := by
  intro e he
  induction m with
  | nil => cases he
  | cons x r ih =>
    simp only [List.takeWhile_cons] at he
    split at he
    · next hx =>
      rcases List.mem_cons.mp he with rfl | he
      · simpa using hx
      · exact ih he
    · cases he

/-- The rest of a canonical map, from a bound, lies at or above the bound. -/
theorem SMap.dropWhile_ge {α : Type} [DecidableEq α] {d : Nat → α} {m : SMap α} (h : SMap.wf d m = true) (a : Nat) :
    ∀ e ∈ m.dropWhile (fun e => e.1 < a), a ≤ e.1 := by
  induction m with
  | nil => intro e he; cases he
  | cons x r ih =>
    obtain ⟨i, w⟩ := x
    obtain ⟨hw, ha, hr⟩ := SMap.wf_cons.mp h
    intro e he
    simp only [List.dropWhile_cons] at he
    split at he
    · exact ih hr e he
    · next hx =>
      have hx : a ≤ i := by simpa using hx
      rcases List.mem_cons.mp he with rfl | he
      · exact hx
      · have := ha e he
        omega

theorem SMap.wf_parts {α : Type} [DecidableEq α] {d : Nat → α} {m : SMap α} (h : SMap.wf d m = true) (a : Nat) :
    SMap.wf d (m.takeWhile (fun e => e.1 < a)) = true ∧ SMap.wf d (m.dropWhile (fun e => e.1 < a)) = true := by
  rw [← SMap.wf_append (SMap.takeWhile_lt m a) (SMap.dropWhile_ge h a)]
  simpa using h

theorem SMap.get_take {α : Type} [DecidableEq α] {d : Nat → α} {m : SMap α} (h : SMap.wf d m = true) {a x : Nat} (hx : x < a) :
    SMap.get d (m.takeWhile (fun e => e.1 < a)) x = SMap.get d m x := by
  have := SMap.get_append (d := d) (SMap.takeWhile_lt m a) (SMap.dropWhile_ge h a) x
  simpa [hx] using this.symm

theorem SMap.get_drop {α : Type} {d : Nat → α} (m : SMap α) {a x : Nat} (hx : a ≤ x) :
    SMap.get d (m.dropWhile (fun e => e.1 < a)) x = SMap.get d m x := by
  induction m with
  | nil => rfl
  | cons e r ih =>
    obtain ⟨i, w⟩ := e
    simp only [List.dropWhile_cons]
    split
    · next hi =>
      have hi : i < a := by simpa using hi
      have h1 : i ≠ x := by omega
      have h2 : ¬ x < i := by omega
      simp [SMap.get, h1, h2, ih]
    · rfl

/-! ### Cells -/

theorem cellsOf_range (a : Nat) (bs : List Byte) : ∀ e ∈ cellsOf a bs, a ≤ e.1 ∧ e.1 < a + bs.length := by
  induction bs generalizing a with
  | nil => intro e he; cases he
  | cons b bs ih =>
    intro e he
    simp only [cellsOf] at he
    split at he
    · have := ih (a + 1) e he
      simp only [List.length_cons]; omega
    · rcases List.mem_cons.mp he with rfl | he
      · simp
      · have := ih (a + 1) e he
        simp only [List.length_cons]; omega

theorem cellsOf_wf (a : Nat) (bs : List Byte) : SMap.wf memDefault (cellsOf a bs) = true := by
  induction bs generalizing a with
  | nil => rfl
  | cons b bs ih =>
    simp only [cellsOf]
    split
    · exact ih (a + 1)
    · next hb => exact SMap.wf_cons.mpr ⟨hb, fun e he => by have := cellsOf_range (a + 1) bs e he; omega, ih (a + 1)⟩

theorem cellsOf_get (a : Nat) (bs : List Byte) (i : Nat) : SMap.get memDefault (cellsOf a bs) (a + i) = bs.getD i 0 := by
  induction bs generalizing a i with
  | nil => simp [cellsOf, memDefault]
  | cons b bs ih =>
    have hab : SMap.above a (cellsOf (a + 1) bs) := fun e he => by have := cellsOf_range (a + 1) bs e he; omega
    simp only [cellsOf]
    cases i with
    | zero =>
      split
      · next hb => rw [SMap.get_above (j := a + 0) hab (by omega)]; simp [memDefault, hb]
      · simp [SMap.get]
    | succ i =>
      have h1 : a + (i + 1) = a + 1 + i := by omega
      split
      · rw [h1, ih]; simp
      · have h2 : a ≠ a + (i + 1) := by omega
        have h3 : ¬ a + (i + 1) < a := by omega
        simp only [SMap.get, h2, h3, if_false]
        rw [h1, ih]; simp

/-! ### Memory -/

/-- Writing a byte string keeps the canonical form. -/
theorem Mem.wf_write {m : Mem} (h : m.wf = true) (a : Nat) (bs : List Byte) : (m.write a bs).wf = true := by
  have h1 := SMap.wf_parts h a
  have h2 := SMap.wf_parts h (a + bs.length)
  have hc := cellsOf_range a bs
  have hd := SMap.dropWhile_ge h (a + bs.length)
  unfold Mem.write Mem.wf
  rw [List.append_assoc, SMap.wf_append (p := a) (SMap.takeWhile_lt m a)]
  · refine ⟨h1.1, ?_⟩
    rw [SMap.wf_append (p := a + bs.length) (fun e he => (hc e he).2) hd]
    exact ⟨cellsOf_wf a bs, h2.2⟩
  · intro e he
    rcases List.mem_append.mp he with he | he
    · exact (hc e he).1
    · have := hd e he
      omega

/-- What a byte reads as after a write: the byte written, or what it was. -/
theorem Mem.byte_write {m : Mem} (h : m.wf = true) (a : Nat) (bs : List Byte) (x : Nat) :
    (m.write a bs).byte x = if a ≤ x ∧ x < a + bs.length then bs.getD (x - a) 0 else m.byte x := by
  have hc := cellsOf_range a bs
  have hd := SMap.dropWhile_ge h (a + bs.length)
  unfold Mem.write Mem.byte
  rw [List.append_assoc, SMap.get_append (p := a) (SMap.takeWhile_lt m a)]
  · by_cases hx : x < a
    · have : ¬ (a ≤ x ∧ x < a + bs.length) := by omega
      simp only [hx, if_true, this, if_false]
      exact SMap.get_take h hx
    · simp only [hx, if_false]
      rw [SMap.get_append (p := a + bs.length) (fun e he => (hc e he).2) hd]
      by_cases hy : x < a + bs.length
      · have h1 : a ≤ x ∧ x < a + bs.length := by omega
        have h2 : a + (x - a) = x := by omega
        have := cellsOf_get a bs (x - a)
        rw [h2] at this
        simp [h1, this]
      · have h1 : ¬ (a ≤ x ∧ x < a + bs.length) := by omega
        rw [if_neg hy, if_neg h1]
        exact SMap.get_drop m (by omega)
  · intro e he
    rcases List.mem_append.mp he with he | he
    · exact (hc e he).1
    · have := hd e he
      omega

/-- A read of a byte string is its bytes in order. -/
theorem Mem.read_eq (m : Mem) (a n : Nat) : m.read a n = (List.range n).map (fun i => m.byte (a + i)) := by
  induction n generalizing m a with
  | zero => rfl
  | succ n ih =>
    simp only [Mem.read]
    rw [ih, List.range_succ_eq_map, List.map_cons, List.map_map]
    have h0 : Mem.byte (m.dropWhile (fun e => e.1 < a)) a = m.byte a := SMap.get_drop m (Nat.le_refl _)
    rw [h0]
    refine congrArg _ (List.map_congr_left fun i _ => ?_)
    have : Mem.byte (m.dropWhile (fun e => e.1 < a)) (a + 1 + i) = m.byte (a + 1 + i) := SMap.get_drop m (by omega)
    rw [this]
    simp only [Function.comp_apply]
    congr 1
    omega

/-- The bytes that were written read back. -/
theorem Mem.read_write {m : Mem} (h : m.wf = true) (a : Nat) (bs : List Byte) : (m.write a bs).read a bs.length = bs := by
  rw [Mem.read_eq]
  refine List.ext_getElem (by simp) fun i h1 h2 => ?_
  rw [List.getElem_map, List.getElem_range, Mem.byte_write h]
  have hi : a ≤ a + i ∧ a + i < a + bs.length := by omega
  simp [hi, h2]

/-- The memories of the module after reset are in canonical form. -/
theorem reset_memWf : State.reset.m.mem.bytes.wf = true ∧ State.reset.m.hostMem.wf = true ∧ State.reset.m.twinMem.wf = true :=
  ⟨rfl, rfl, rfl⟩

end Sys2Proof.Machine
end

