-- ==== Sys2Proof/Laws/MemOps.lean ====
section
/-!
SUPPORT. What the shared operations of a memory request can do: the bytes that a store writes, and what taking tokens, adding
a seam load and noting a latency leave as it was.
-/
namespace Sys2Proof.Machine

/-- Storing bytes writes them into device memory, and leaves the memories of host and twin, the objects and the registers. -/
theorem Module.storeBytes_bytes (m : Module) (off : Nat) (bs : List Byte) : (m.storeBytes off bs).mem.bytes = m.mem.bytes.write off bs ∧
    (m.storeBytes off bs).hostMem = m.hostMem ∧ (m.storeBytes off bs).twinMem = m.twinMem ∧ (m.storeBytes off bs).obj = m.obj ∧
    (m.storeBytes off bs).regs = m.regs := by
  unfold Module.storeBytes Module.overwritten Module.forgetLines; dsimp only; split <;> exact ⟨rfl, rfl, rfl, rfl, rfl⟩

/-- The pieces hold byte `v` at offset `x`. -/
def Piece.covers (ps : List (Nat × List Byte)) (x : Nat) (v : Byte) : Prop :=
  ∃ p ∈ ps, p.1 ≤ x ∧ x < p.1 + p.2.length ∧ p.2.getD (x - p.1) 0 = v

/-- Stores of pieces, one after the other: the memories of host and twin stay, and device memory keeps its form. -/
theorem Module.storePieces_mem (ps : List (Nat × List Byte)) {m : Module} (h : m.mem.bytes.wf = true) :
    (each ps m (fun m p => m.storeBytes p.1 p.2)).mem.bytes.wf = true ∧
    (each ps m (fun m p => m.storeBytes p.1 p.2)).hostMem = m.hostMem ∧ (each ps m (fun m p => m.storeBytes p.1 p.2)).twinMem = m.twinMem := by
  induction ps generalizing m with
  | nil => exact ⟨h, rfl, rfl⟩
  | cons p ps ih =>
    obtain ⟨hb, hh, ht, -, -⟩ := m.storeBytes_bytes p.1 p.2
    have := ih (m := m.storeBytes p.1 p.2) (by rw [hb]; exact Mem.wf_write h ..)
    exact ⟨this.1, this.2.1.trans hh, this.2.2.trans ht⟩

/-- A byte that no piece holds is as before. -/
theorem Module.storePieces_out (ps : List (Nat × List Byte)) {m : Module} (h : m.mem.bytes.wf = true) {x : Nat}
    (hx : ∀ v, ¬ Piece.covers ps x v) : (each ps m (fun m p => m.storeBytes p.1 p.2)).mem.bytes.byte x = m.mem.bytes.byte x := by
  induction ps generalizing m with
  | nil => rfl
  | cons p ps ih =>
    have hb := (m.storeBytes_bytes p.1 p.2).1
    refine (ih (m := m.storeBytes p.1 p.2) (by rw [hb]; exact Mem.wf_write h ..) ?_).trans ?_
    · rintro v ⟨q, hq, h1, h2, h3⟩; exact hx v ⟨q, List.mem_cons_of_mem _ hq, h1, h2, h3⟩
    · rw [hb, Mem.byte_write h]
      split
      · next hc => exact absurd ⟨p, List.mem_cons_self .., hc.1, hc.2, rfl⟩ (hx _)
      · rfl

/-- A byte that the pieces hold, with one value, has that value. -/
theorem Module.storePieces_in (ps : List (Nat × List Byte)) {m : Module} (h : m.mem.bytes.wf = true) {x : Nat} {v : Byte}
    (hv : Piece.covers ps x v) (hu : ∀ w, Piece.covers ps x w → w = v) :
    (each ps m (fun m p => m.storeBytes p.1 p.2)).mem.bytes.byte x = v := by
  induction ps generalizing m with
  | nil => obtain ⟨p, hp, -⟩ := hv; cases hp
  | cons p ps ih =>
    have hb := (m.storeBytes_bytes p.1 p.2).1
    have hw : (m.storeBytes p.1 p.2).mem.bytes.wf = true := by rw [hb]; exact Mem.wf_write h ..
    have tl : ∀ w, Piece.covers ps x w → w = v := by
      rintro w ⟨q, hq, h1, h2, h3⟩; exact hu w ⟨q, List.mem_cons_of_mem _ hq, h1, h2, h3⟩
    by_cases hc : Piece.covers ps x v
    · exact ih hw hc tl
    · refine (Module.storePieces_out ps hw ?_).trans ?_
      · intro w hw'; exact hc (tl w hw' ▸ hw')
      · obtain ⟨q, hq, h1, h2, h3⟩ := hv
        rcases List.mem_cons.mp hq with rfl | hq
        · rw [hb, Mem.byte_write h, if_pos ⟨h1, h2⟩, h3]
        · exact absurd ⟨q, hq, h1, h2, h3⟩ hc

/-- Putting a byte before runs adds exactly that byte. -/
theorem addRun_covers (o : Nat) (b : Byte) (runs : List (Nat × List Byte)) (x : Nat) (v : Byte) :
    Piece.covers (addRun o b runs) x v ↔ (o = x ∧ b = v) ∨ Piece.covers runs x v := by
  have one : ∀ r : List (Nat × List Byte), Piece.covers ((o, [b]) :: r) x v ↔ (o = x ∧ b = v) ∨ Piece.covers r x v := by
    intro r
    simp only [Piece.covers, List.mem_cons, exists_eq_or_imp, List.length_singleton]
    refine or_congr ⟨?_, ?_⟩ Iff.rfl
    · rintro ⟨h1, h2, h3⟩
      have : o = x := by omega
      subst this; simpa using h3
    · rintro ⟨rfl, rfl⟩; simp
  unfold addRun
  split
  · next p l rest =>
    split
    · next ho =>
      subst ho
      simp only [Piece.covers, List.mem_cons, exists_eq_or_imp, List.length_cons, ← or_assoc]
      refine or_congr ⟨?_, ?_⟩ Iff.rfl
      · rintro ⟨h1, h2, h3⟩
        by_cases he : o = x
        · left; subst he; simpa using h3
        · right
          refine ⟨by omega, by omega, ?_⟩
          rwa [show x - o = (x - (o + 1)) + 1 by omega, List.getD_cons_succ] at h3
      · rintro (⟨rfl, rfl⟩ | ⟨h1, h2, h3⟩)
        · simp
        · refine ⟨by omega, by omega, ?_⟩
          rwa [show x - o = (x - (o + 1)) + 1 by omega, List.getD_cons_succ]
    · exact one _
  · exact one _

/-- The runs outside the tables hold exactly the bytes outside the tables. -/
theorem Module.outsideTables_covers (m : Module) (off : Nat) (bs : List Byte) (x : Nat) (v : Byte) :
    Piece.covers (m.outsideTables off bs) x v ↔ off ≤ x ∧ bs[x - off]? = some v ∧ m.inTable x = false := by
  have runs : ∀ l : List (Byte × Nat), Piece.covers (l.foldr (fun b => addRun (off + b.2) b.1) []) x v ↔ ∃ b ∈ l, off + b.2 = x ∧ b.1 = v := by
    intro l
    induction l with
    | nil => simp [Piece.covers]
    | cons b l ih => rw [List.foldr_cons, addRun_covers, ih]; simp
  unfold Module.outsideTables
  rw [runs]
  constructor
  · rintro ⟨⟨w, i⟩, hb, rfl, rfl⟩
    obtain ⟨h1, h2⟩ := List.mem_filter.mp hb
    have := List.mem_zipIdx_iff_getElem?.mp h1
    exact ⟨by omega, by simpa using this, by simpa using h2⟩
  · rintro ⟨h1, h2, h3⟩
    have e : off + (x - off) = x := by omega
    refine ⟨(v, x - off), List.mem_filter.mpr ⟨List.mem_zipIdx_iff_getElem?.mpr h2, ?_⟩, e, rfl⟩
    simp only [e, h3, Bool.not_false]

/-- A store leaves the memories of host and twin, and keeps the canonical form of device memory. -/
theorem Module.storeRaw_mem {m : Module} (h : m.mem.bytes.wf = true) (off : Nat) (bs : List Byte) :
    (m.storeRaw off bs).mem.bytes.wf = true ∧ (m.storeRaw off bs).hostMem = m.hostMem ∧ (m.storeRaw off bs).twinMem = m.twinMem := by
  unfold Module.storeRaw
  split
  · exact Module.storePieces_mem _ h
  · obtain ⟨hb, hh, ht, -, -⟩ := m.storeBytes_bytes off bs
    exact ⟨hb ▸ Mem.wf_write h off bs, hh, ht⟩

/-- Every byte after a store: those stored outside the table ranges, and the others as before (R350). -/
theorem Module.storeRaw_byte {m : Module} (h : m.mem.bytes.wf = true) (off : Nat) (bs : List Byte) (x : Nat) :
    (m.storeRaw off bs).mem.bytes.byte x =
      if off ≤ x ∧ x < off + bs.length ∧ m.inTable x = false then bs.getD (x - off) 0 else m.mem.bytes.byte x := by
  unfold Module.storeRaw
  split
  · split
    · next hx =>
      have e : bs[x - off]? = some (bs.getD (x - off) 0) := by
        rw [List.getD_eq_getElem?_getD, List.getElem?_eq_getElem (by omega)]; rfl
      refine Module.storePieces_in _ h ((m.outsideTables_covers ..).mpr ⟨hx.1, e, hx.2.2⟩) ?_
      intro w hw
      exact Option.some.inj (((m.outsideTables_covers ..).mp hw).2.1.symm.trans e)
    · next hx =>
      refine Module.storePieces_out _ h ?_
      intro v hv
      obtain ⟨h1, h2, h3⟩ := (m.outsideTables_covers ..).mp hv
      obtain ⟨h4, -⟩ := List.getElem?_eq_some_iff.mp h2
      exact hx ⟨h1, by omega, h3⟩
  · next hn =>
    rw [(m.storeBytes_bytes off bs).1, Mem.byte_write h]
    by_cases hx : off ≤ x ∧ x < off + bs.length
    · have : m.inTable x = false := by
        refine Bool.eq_false_iff.mpr (fun hc => hn ?_)
        simp only [Module.inTable, Bool.and_eq_true, List.any_eq_true, decide_eq_true_eq] at hc ⊢
        obtain ⟨hr, t, ht, h1, h2⟩ := hc
        exact ⟨⟨t, ht, by omega, by omega⟩, hr⟩
      rw [if_pos hx, if_pos ⟨hx.1, hx.2, this⟩]
    · rw [if_neg hx, if_neg (fun c => hx ⟨c.1, c.2.1⟩)]

/-- Noting a latency touches the latency records alone. -/
theorem Module.noteLat_cases (m : Module) (ch cls lat : Nat) (conf : Bool) :
    ∃ a b, m.noteLat ch cls lat conf = m.setMem (fun x => { x with latClear := a, latFrame := b }) := by
  unfold Module.noteLat
  split
  · exact ⟨m.mem.latClear, m.mem.latFrame, rfl⟩
  · exact ⟨_, _, rfl⟩

/-- Marking the seams of a way, and adding the floor load of a requester, touch the seams alone. -/
theorem Module.markWay_cases (m : Module) (way : List Crossing) (mark : Bool) : ∃ x, m.markWay way mark = m.setSeams (fun _ => x) := ⟨_, rfl⟩

/-- A request's seam load touches the seams alone. -/
theorem Module.reqLoad_cases (m : Module) (req : Requester) (part cls off : Nat) (write mark : Bool) :
    ∃ x, m.reqLoad req part cls off write mark = m.setSeams (fun _ => x) := by
  unfold Module.reqLoad
  dsimp only
  split
  · exact ⟨_, rfl⟩
  · exact ⟨_, rfl⟩

/-- Taking tokens touches the buckets alone, whether the request issues or not. -/
theorem Module.takeTokens_cases (m : Module) (req : Requester) (part cls off b now : Nat) :
    ∃ x, (m.takeTokens req part cls off b now).1 = m.setMem (fun y => { y with buckets := x }) := by
  unfold Module.takeTokens
  split
  · exact ⟨m.mem.buckets, rfl⟩
  · dsimp only
    split
    · exact ⟨m.mem.buckets, rfl⟩
    · exact ⟨_, rfl⟩

/-- A write of HBM is refused, or stores its bytes; it meets no error of a line (R140 concerns DDR5). -/
theorem Module.memWriteErrs_hbm {m : Module} {off : Nat} (h : chanOf off < 512) (p : Nat) (bs : List Byte) (errs : ReadErrs) :
    m.memWriteErrs p off bs errs = if m.allowed p off bs.length then (m.store off bs, .ok) else (m.refuse p off, .refused) := by
  unfold Module.memWriteErrs
  cases m.allowed p off bs.length <;> simp [h]

end Sys2Proof.Machine
end

