-- ==== Sys2Proof/Laws/Run.lean ====
section
/-!
SUPPORT. What a command can do to the state as a whole: its effect acts on the module alone, with the waiting commands and
(but for a programming pulse) the fuses as they were.
-/
namespace Sys2Proof.Machine

@[simp] theorem run_eq (s : State) (f : Module → Module) : run s f = .next (s.after f) := rfl

theorem runOn_live {s : State} (h : Live s) (f : Module → Module) : runOn s f = .next (s.after f) := by
  unfold Live at h
  simp [runOn, h]

theorem runOn_reset {s : State} (h : s.m.rst.inReset = true) (f : Module → Module) : runOn s f = .next s := by
  simp [runOn, h]

@[simp] theorem State.after_m (s : State) (f : Module → Module) : (s.after f).m = f s.m := rfl
@[simp] theorem State.after_otp (s : State) (f : Module → Module) : (s.after f).otp = s.otp := rfl
@[simp] theorem State.after_pending (s : State) (f : Module → Module) : (s.after f).pending = s.pending := rfl

/-- Every command applies one effect to the module: at any time, or only while the internal reset is not asserted; a
programming pulse acts on the fuses as well. -/
theorem exec_shape (c : Instr) :
    (actsInReset c = true ∧ ∃ f : Module → Module, ∀ s, exec c s = run s f) ∨
    (actsInReset c = false ∧ ∃ f : Module → Module, ∀ s, exec c s = runOn s f) ∨
    ∃ rev ok, c = .fusePulseDone rev ok := by
  cases c <;>
    first
    | exact .inl ⟨rfl, _, fun _ => rfl⟩
    | exact .inr (.inl ⟨rfl, _, fun _ => rfl⟩)
    | exact .inr (.inr ⟨_, _, rfl⟩)

/-- What a programming pulse answers. -/
theorem exec_fusePulseDone (rev ok : Bool) (s : State) :
    exec (.fusePulseDone rev ok) s = if s.m.rst.inReset then .next s else .next (effFusePulse rev ok s) := rfl

/-- What a programming pulse does: nothing while none is under way; else it puts the pulsed bit into the word when it
programs, and tells the module. -/
theorem effFusePulse_cases (rev ok : Bool) (s : State) :
    effFusePulse rev ok s = s ∨
    ∃ (b : Burn) (n : Nat) (m : Module), (if rev then s.m.sec.revBurn else s.m.sec.burn) = some b ∧ b.pulse = some n ∧
      effFusePulse rev ok s =
        { s with otp := { s.otp with words := SMap.set (fun _ => 0) s.otp.words b.word (burnBit (s.fuseAt b.word) n ok) }, m := m } := by
  unfold effFusePulse
  split
  · exact .inl rfl
  · next b hb =>
    split
    · exact .inl rfl
    · next n hn => exact .inr ⟨b, n, _, hb, hn, rfl⟩

end Sys2Proof.Machine
end

