-- ==== Sys2Proof/Laws/Registers.lean ====
section
/-!
SUPPORT. The laws of registers and their fields (R8, R9): what a register or a field reads as after a write, and what a
write leaves alone.
-/
namespace Sys2Proof.Machine

/-- The registers are in canonical form. -/
def Module.regsWf (m : Module) : Prop := SMap.wf regReset m.regs = true

theorem Module.regsWf_setReg {m : Module} (h : m.regsWf) (off v : Nat) : (m.setReg off v).regsWf := SMap.wf_set h off _

theorem Module.reg_lt (m : Module) (off : Nat) : m.reg off < 2 ^ 32 := (SMap.get regReset m.regs off).isLt

/-- A register that was set reads as its 32 bits. -/
theorem Module.reg_setReg_same {m : Module} (h : m.regsWf) (off v : Nat) : (m.setReg off v).reg off = v % 2 ^ 32 := by
  unfold Module.reg Module.setReg
  simp only
  rw [SMap.get_set_same h, BitVec.toNat_ofNat]

/-- Setting a register leaves the others as they were. -/
theorem Module.reg_setReg_other {m : Module} (h : m.regsWf) {off other : Nat} (v : Nat) (hne : other ≠ off) :
    (m.setReg off v).reg other = m.reg other := by
  unfold Module.reg Module.setReg
  simp only
  rw [SMap.get_set_other h _ hne]

/-- Only the registers change. -/
theorem Module.setReg_eq (m : Module) (off v : Nat) : m.setReg off v = { m with regs := (m.setReg off v).regs } := rfl

/-! ### Fields of a word -/

/-- A word as its bits below a field, the field, and its bits above. -/
theorem word_split (w lo len : Nat) : w = w % 2 ^ lo + bits w lo len * 2 ^ lo + w / 2 ^ (lo + len) * 2 ^ (lo + len) := by
  have h1 := Nat.div_add_mod w (2 ^ lo)
  have h2 := Nat.div_add_mod (w / 2 ^ lo) (2 ^ len)
  have h3 : w / 2 ^ lo / 2 ^ len = w / 2 ^ (lo + len) := by rw [Nat.div_div_eq_div_mul, Nat.pow_add]
  unfold bits
  rw [h3] at h2
  generalize w / 2 ^ lo = q at *
  generalize w / 2 ^ (lo + len) = c at *
  generalize q % 2 ^ len = b at *
  rw [Nat.pow_add, ← h1, ← h2, Nat.mul_add_mod]
  simp only [Nat.mod_mod]
  rw [Nat.mul_add]
  have e1 : 2 ^ lo * (2 ^ len * c) = c * (2 ^ lo * 2 ^ len) := by rw [← Nat.mul_assoc, Nat.mul_comm]
  have e2 : 2 ^ lo * b = b * 2 ^ lo := Nat.mul_comm _ _
  rw [e1, e2]
  omega

/-- A word with a field replaced, as its parts. -/
theorem putField_split (w lo len v : Nat) :
    putField w lo len v = w % 2 ^ lo + v % 2 ^ len * 2 ^ lo + w / 2 ^ (lo + len) * 2 ^ (lo + len) := by
  have h := word_split w lo len
  unfold putField
  omega

theorem testBit_putField (w lo len v i : Nat) :
    (putField w lo len v).testBit i = if lo ≤ i ∧ i < lo + len then v.testBit (i - lo) else w.testBit i := by
  have hsplit : putField w lo len v = 2 ^ (lo + len) * (w / 2 ^ (lo + len)) + (2 ^ lo * (v % 2 ^ len) + w % 2 ^ lo) := by
    rw [putField_split, Nat.mul_comm (v % 2 ^ len), Nat.mul_comm (w / 2 ^ (lo + len))]; omega
  have hlow : w % 2 ^ lo < 2 ^ lo := Nat.mod_lt _ (Nat.two_pow_pos _)
  have hmid : 2 ^ lo * (v % 2 ^ len) + w % 2 ^ lo < 2 ^ (lo + len) := by
    have : v % 2 ^ len < 2 ^ len := Nat.mod_lt _ (Nat.two_pow_pos _)
    rw [Nat.pow_add]
    calc 2 ^ lo * (v % 2 ^ len) + w % 2 ^ lo < 2 ^ lo * (v % 2 ^ len) + 2 ^ lo := by omega
      _ = 2 ^ lo * (v % 2 ^ len + 1) := by rw [Nat.mul_add, Nat.mul_one]
      _ ≤ 2 ^ lo * 2 ^ len := Nat.mul_le_mul_left _ this
  rw [hsplit, Nat.testBit_two_pow_mul_add _ hmid]
  by_cases h1 : i < lo + len
  · rw [if_pos h1, Nat.testBit_two_pow_mul_add _ hlow]
    by_cases h2 : i < lo
    · have : ¬ (lo ≤ i ∧ i < lo + len) := by omega
      rw [if_pos h2, if_neg this, Nat.testBit_mod_two_pow]
      simp [h2]
    · have : lo ≤ i ∧ i < lo + len := by omega
      rw [if_neg h2, if_pos this, Nat.testBit_mod_two_pow]
      have : i - lo < len := by omega
      simp [this]
  · have : ¬ (lo ≤ i ∧ i < lo + len) := by omega
    rw [if_neg h1, if_neg this, Nat.testBit_div_two_pow]
    congr 1
    omega

theorem testBit_bits (w lo len i : Nat) : (bits w lo len).testBit i = (decide (i < len) && w.testBit (i + lo)) := by
  unfold bits
  rw [Nat.testBit_mod_two_pow, Nat.testBit_div_two_pow]

/-- The field that was put reads back. -/
theorem bits_putField_same (w lo len v : Nat) : bits (putField w lo len v) lo len = v % 2 ^ len := by
  apply Nat.eq_of_testBit_eq
  intro i
  rw [testBit_bits, testBit_putField, Nat.testBit_mod_two_pow]
  by_cases h : i < len
  · have : lo ≤ i + lo ∧ i + lo < lo + len := by omega
    simp [h, this]
  · simp [h]

/-- Putting a field leaves a field that does not meet it as it was. -/
theorem bits_putField_other {w lo len v l n : Nat} (h : l + n ≤ lo ∨ lo + len ≤ l) :
    bits (putField w lo len v) l n = bits w l n := by
  apply Nat.eq_of_testBit_eq
  intro i
  rw [testBit_bits, testBit_bits, testBit_putField]
  by_cases hi : i < n
  · have : ¬ (lo ≤ i + l ∧ i + l < lo + len) := by omega
    rw [if_neg this]
  · simp [hi]

theorem putField_lt {w lo len v n : Nat} (hw : w < 2 ^ n) (h : lo + len ≤ n) : putField w lo len v < 2 ^ n := by
  apply Nat.lt_pow_two_of_testBit
  intro i hi
  rw [testBit_putField, if_neg (by omega)]
  exact Nat.testBit_lt_two_pow (Nat.lt_of_lt_of_le hw (Nat.pow_le_pow_right (by omega) hi))

/-! ### Fields of registers -/

theorem Module.regsWf_setFld {m : Module} (h : m.regsWf) (f : Fld) (v : Nat) : (m.setFld f v).regsWf := Module.regsWf_setReg h _ _

/-- A field that was set reads as its value. -/
theorem Module.fld_setFld_same {m : Module} (h : m.regsWf) (f : Fld) (v : Nat) (hf : f.lo + f.len ≤ 32) :
    (m.setFld f v).fld f = v % 2 ^ f.len := by
  unfold Module.fld Module.setFld
  rw [Module.reg_setReg_same h, Nat.mod_eq_of_lt (putField_lt (m.reg_lt _) hf), bits_putField_same]

/-- Setting a field leaves a field of another register, or one of the same register that does not meet it. -/
theorem Module.fld_setFld_other {m : Module} (h : m.regsWf) (f g : Fld) (v : Nat) (hf : f.lo + f.len ≤ 32)
    (hg : g.off ≠ f.off ∨ g.lo + g.len ≤ f.lo ∨ f.lo + f.len ≤ g.lo) : (m.setFld f v).fld g = m.fld g := by
  unfold Module.fld Module.setFld
  by_cases he : g.off = f.off
  · rw [he, Module.reg_setReg_same h, Nat.mod_eq_of_lt (putField_lt (m.reg_lt _) hf)]
    rw [bits_putField_other (by rcases hg with hg | hg; exact absurd he hg; exact hg)]
  · rw [Module.reg_setReg_other h _ he]

/-- Setting a field leaves the other registers. -/
theorem Module.reg_setFld_other {m : Module} (h : m.regsWf) (f : Fld) {off : Nat} (v : Nat) (ho : off ≠ f.off) :
    (m.setFld f v).reg off = m.reg off := Module.reg_setReg_other h _ ho

/-! ### Events and signals -/

/-- A signal changes only the messages sent and the pending bits. -/
theorem Module.signal_eq (m : Module) (fn vec : Nat) :
    m.signal fn vec = { m with out := (m.signal fn vec).out, msixPend := (m.signal fn vec).msixPend } := by
  unfold Module.signal
  split
  · rfl
  · split
    · rfl
    · split <;> rfl

theorem Module.signal_regs (m : Module) (fn vec : Nat) : (m.signal fn vec).regs = m.regs := by
  rw [Module.signal_eq]

/-- Raising an event changes only registers, messages and pending bits. -/
theorem Module.raise_eq (m : Module) (f : Fld) :
    m.raise f = { m with regs := (m.raise f).regs, out := (m.raise f).out, msixPend := (m.raise f).msixPend } := by
  unfold Module.raise Module.raiseIf
  split
  · rfl
  · simp only [if_true]
    rw [Module.signal_eq]
    rfl

/-- A raised event bit is set. -/
theorem Module.flag_raise {m : Module} (h : m.regsWf) (f : Fld) (hf : f.lo + f.len ≤ 32) (h1 : 0 < f.len) : (m.raise f).flag f = true := by
  unfold Module.raise Module.raiseIf
  split
  · assumption
  · simp only [if_true]
    have hr : ((m.setFld f 1).signal 0 0).fld f = (m.setFld f 1).fld f := by
      unfold Module.fld Module.reg; rw [Module.signal_regs]
    unfold Module.flag
    rw [hr, Module.fld_setFld_same h f 1 hf, Nat.mod_eq_of_lt (Nat.one_lt_two_pow (by omega))]
    rfl

/-- Raising an event leaves the fields of other registers. -/
theorem Module.fld_raise_other {m : Module} (h : m.regsWf) (f g : Fld) (hg : g.off ≠ f.off) : (m.raise f).fld g = m.fld g := by
  unfold Module.raise Module.raiseIf
  split
  · rfl
  · simp only [if_true]
    unfold Module.fld Module.reg
    rw [Module.signal_regs]
    exact congrArg (bits · g.lo g.len) (Module.reg_setReg_other h _ hg)

end Sys2Proof.Machine
end

