-- ==== Sys2Proof/Laws/State.lean ====
section
/-!
SUPPORT. What each update of the module leaves in each of its fields: one lemma for each field and update, so that no later
proof unfolds a record update.
-/
namespace Sys2Proof.Machine

/-! ### The state -/

@[simp] theorem State.upd_m_m (s : State) (x : Module) : ({ s with m := x } : State).m = x := rfl
@[simp] theorem State.upd_m_otp (s : State) (x : Module) : ({ s with m := x } : State).otp = s.otp := rfl
@[simp] theorem State.upd_m_pending (s : State) (x : Module) : ({ s with m := x } : State).pending = s.pending := rfl
@[simp] theorem State.upd_pending_m (s : State) (x : List Instr) : ({ s with pending := x } : State).m = s.m := rfl
@[simp] theorem State.upd_pending_otp (s : State) (x : List Instr) : ({ s with pending := x } : State).otp = s.otp := rfl
@[simp] theorem State.upd_pending_pending (s : State) (x : List Instr) : ({ s with pending := x } : State).pending = x := rfl

/-! ### The module -/

/-! `setTick` -/

@[simp] theorem Module.setTick_regs (m : Module) (f : Tick → Tick) : (m.setTick f).regs = m.regs := rfl
@[simp] theorem Module.setTick_latch (m : Module) (f : Tick → Tick) : (m.setTick f).latch = m.latch := rfl
@[simp] theorem Module.setTick_stwLeft (m : Module) (f : Tick → Tick) : (m.setTick f).stwLeft = m.stwLeft := rfl
@[simp] theorem Module.setTick_lowHold (m : Module) (f : Tick → Tick) : (m.setTick f).lowHold = m.lowHold := rfl
@[simp] theorem Module.setTick_hostMem (m : Module) (f : Tick → Tick) : (m.setTick f).hostMem = m.hostMem := rfl
@[simp] theorem Module.setTick_twinMem (m : Module) (f : Tick → Tick) : (m.setTick f).twinMem = m.twinMem := rfl
@[simp] theorem Module.setTick_free (m : Module) (f : Tick → Tick) : (m.setTick f).free = m.free := rfl
@[simp] theorem Module.setTick_out (m : Module) (f : Tick → Tick) : (m.setTick f).out = m.out := rfl
@[simp] theorem Module.setTick_unmasked (m : Module) (f : Tick → Tick) : (m.setTick f).unmasked = m.unmasked := rfl
@[simp] theorem Module.setTick_msixPend (m : Module) (f : Tick → Tick) : (m.setTick f).msixPend = m.msixPend := rfl
@[simp] theorem Module.setTick_uidNext (m : Module) (f : Tick → Tick) : (m.setTick f).uidNext = m.uidNext := rfl
@[simp] theorem Module.setTick_tick (m : Module) (f : Tick → Tick) : (m.setTick f).tick = f m.tick := rfl
@[simp] theorem Module.setTick_lists (m : Module) (f : Tick → Tick) : (m.setTick f).lists = m.lists := rfl
@[simp] theorem Module.setTick_nextLists (m : Module) (f : Tick → Tick) : (m.setTick f).nextLists = m.nextLists := rfl
@[simp] theorem Module.setTick_agreeQ (m : Module) (f : Tick → Tick) : (m.setTick f).agreeQ = m.agreeQ := rfl
@[simp] theorem Module.setTick_retries (m : Module) (f : Tick → Tick) : (m.setTick f).retries = m.retries := rfl
@[simp] theorem Module.setTick_cores (m : Module) (f : Tick → Tick) : (m.setTick f).cores = m.cores := rfl
@[simp] theorem Module.setTick_stw (m : Module) (f : Tick → Tick) : (m.setTick f).stw = m.stw := rfl
@[simp] theorem Module.setTick_obj (m : Module) (f : Tick → Tick) : (m.setTick f).obj = m.obj := rfl
@[simp] theorem Module.setTick_xlat (m : Module) (f : Tick → Tick) : (m.setTick f).xlat = m.xlat := rfl
@[simp] theorem Module.setTick_mem (m : Module) (f : Tick → Tick) : (m.setTick f).mem = m.mem := rfl
@[simp] theorem Module.setTick_ras (m : Module) (f : Tick → Tick) : (m.setTick f).ras = m.ras := rfl
@[simp] theorem Module.setTick_comp (m : Module) (f : Tick → Tick) : (m.setTick f).comp = m.comp := rfl
@[simp] theorem Module.setTick_seq (m : Module) (f : Tick → Tick) : (m.setTick f).seq = m.seq := rfl
@[simp] theorem Module.setTick_ctrlQ (m : Module) (f : Tick → Tick) : (m.setTick f).ctrlQ = m.ctrlQ := rfl
@[simp] theorem Module.setTick_coll (m : Module) (f : Tick → Tick) : (m.setTick f).coll = m.coll := rfl
@[simp] theorem Module.setTick_twin (m : Module) (f : Tick → Tick) : (m.setTick f).twin = m.twin := rfl
@[simp] theorem Module.setTick_pwr (m : Module) (f : Tick → Tick) : (m.setTick f).pwr = m.pwr := rfl
@[simp] theorem Module.setTick_nvj (m : Module) (f : Tick → Tick) : (m.setTick f).nvj = m.nvj := rfl
@[simp] theorem Module.setTick_mgmt (m : Module) (f : Tick → Tick) : (m.setTick f).mgmt = m.mgmt := rfl
@[simp] theorem Module.setTick_links (m : Module) (f : Tick → Tick) : (m.setTick f).links = m.links := rfl
@[simp] theorem Module.setTick_inbox (m : Module) (f : Tick → Tick) : (m.setTick f).inbox = m.inbox := rfl
@[simp] theorem Module.setTick_rxData (m : Module) (f : Tick → Tick) : (m.setTick f).rxData = m.rxData := rfl
@[simp] theorem Module.setTick_seams (m : Module) (f : Tick → Tick) : (m.setTick f).seams = m.seams := rfl
@[simp] theorem Module.setTick_pcie (m : Module) (f : Tick → Tick) : (m.setTick f).pcie = m.pcie := rfl
@[simp] theorem Module.setTick_sec (m : Module) (f : Tick → Tick) : (m.setTick f).sec = m.sec := rfl
@[simp] theorem Module.setTick_rst (m : Module) (f : Tick → Tick) : (m.setTick f).rst = m.rst := rfl
@[simp] theorem Module.setTick_pins (m : Module) (f : Tick → Tick) : (m.setTick f).pins = m.pins := rfl
@[simp] theorem Module.setTick_fuse (m : Module) (f : Tick → Tick) : (m.setTick f).fuse = m.fuse := rfl

/-! `setXlat` -/

@[simp] theorem Module.setXlat_regs (m : Module) (f : Xlat → Xlat) : (m.setXlat f).regs = m.regs := rfl
@[simp] theorem Module.setXlat_latch (m : Module) (f : Xlat → Xlat) : (m.setXlat f).latch = m.latch := rfl
@[simp] theorem Module.setXlat_stwLeft (m : Module) (f : Xlat → Xlat) : (m.setXlat f).stwLeft = m.stwLeft := rfl
@[simp] theorem Module.setXlat_lowHold (m : Module) (f : Xlat → Xlat) : (m.setXlat f).lowHold = m.lowHold := rfl
@[simp] theorem Module.setXlat_hostMem (m : Module) (f : Xlat → Xlat) : (m.setXlat f).hostMem = m.hostMem := rfl
@[simp] theorem Module.setXlat_twinMem (m : Module) (f : Xlat → Xlat) : (m.setXlat f).twinMem = m.twinMem := rfl
@[simp] theorem Module.setXlat_free (m : Module) (f : Xlat → Xlat) : (m.setXlat f).free = m.free := rfl
@[simp] theorem Module.setXlat_out (m : Module) (f : Xlat → Xlat) : (m.setXlat f).out = m.out := rfl
@[simp] theorem Module.setXlat_unmasked (m : Module) (f : Xlat → Xlat) : (m.setXlat f).unmasked = m.unmasked := rfl
@[simp] theorem Module.setXlat_msixPend (m : Module) (f : Xlat → Xlat) : (m.setXlat f).msixPend = m.msixPend := rfl
@[simp] theorem Module.setXlat_uidNext (m : Module) (f : Xlat → Xlat) : (m.setXlat f).uidNext = m.uidNext := rfl
@[simp] theorem Module.setXlat_tick (m : Module) (f : Xlat → Xlat) : (m.setXlat f).tick = m.tick := rfl
@[simp] theorem Module.setXlat_lists (m : Module) (f : Xlat → Xlat) : (m.setXlat f).lists = m.lists := rfl
@[simp] theorem Module.setXlat_nextLists (m : Module) (f : Xlat → Xlat) : (m.setXlat f).nextLists = m.nextLists := rfl
@[simp] theorem Module.setXlat_agreeQ (m : Module) (f : Xlat → Xlat) : (m.setXlat f).agreeQ = m.agreeQ := rfl
@[simp] theorem Module.setXlat_retries (m : Module) (f : Xlat → Xlat) : (m.setXlat f).retries = m.retries := rfl
@[simp] theorem Module.setXlat_cores (m : Module) (f : Xlat → Xlat) : (m.setXlat f).cores = m.cores := rfl
@[simp] theorem Module.setXlat_stw (m : Module) (f : Xlat → Xlat) : (m.setXlat f).stw = m.stw := rfl
@[simp] theorem Module.setXlat_obj (m : Module) (f : Xlat → Xlat) : (m.setXlat f).obj = m.obj := rfl
@[simp] theorem Module.setXlat_xlat (m : Module) (f : Xlat → Xlat) : (m.setXlat f).xlat = f m.xlat := rfl
@[simp] theorem Module.setXlat_mem (m : Module) (f : Xlat → Xlat) : (m.setXlat f).mem = m.mem := rfl
@[simp] theorem Module.setXlat_ras (m : Module) (f : Xlat → Xlat) : (m.setXlat f).ras = m.ras := rfl
@[simp] theorem Module.setXlat_comp (m : Module) (f : Xlat → Xlat) : (m.setXlat f).comp = m.comp := rfl
@[simp] theorem Module.setXlat_seq (m : Module) (f : Xlat → Xlat) : (m.setXlat f).seq = m.seq := rfl
@[simp] theorem Module.setXlat_ctrlQ (m : Module) (f : Xlat → Xlat) : (m.setXlat f).ctrlQ = m.ctrlQ := rfl
@[simp] theorem Module.setXlat_coll (m : Module) (f : Xlat → Xlat) : (m.setXlat f).coll = m.coll := rfl
@[simp] theorem Module.setXlat_twin (m : Module) (f : Xlat → Xlat) : (m.setXlat f).twin = m.twin := rfl
@[simp] theorem Module.setXlat_pwr (m : Module) (f : Xlat → Xlat) : (m.setXlat f).pwr = m.pwr := rfl
@[simp] theorem Module.setXlat_nvj (m : Module) (f : Xlat → Xlat) : (m.setXlat f).nvj = m.nvj := rfl
@[simp] theorem Module.setXlat_mgmt (m : Module) (f : Xlat → Xlat) : (m.setXlat f).mgmt = m.mgmt := rfl
@[simp] theorem Module.setXlat_links (m : Module) (f : Xlat → Xlat) : (m.setXlat f).links = m.links := rfl
@[simp] theorem Module.setXlat_inbox (m : Module) (f : Xlat → Xlat) : (m.setXlat f).inbox = m.inbox := rfl
@[simp] theorem Module.setXlat_rxData (m : Module) (f : Xlat → Xlat) : (m.setXlat f).rxData = m.rxData := rfl
@[simp] theorem Module.setXlat_seams (m : Module) (f : Xlat → Xlat) : (m.setXlat f).seams = m.seams := rfl
@[simp] theorem Module.setXlat_pcie (m : Module) (f : Xlat → Xlat) : (m.setXlat f).pcie = m.pcie := rfl
@[simp] theorem Module.setXlat_sec (m : Module) (f : Xlat → Xlat) : (m.setXlat f).sec = m.sec := rfl
@[simp] theorem Module.setXlat_rst (m : Module) (f : Xlat → Xlat) : (m.setXlat f).rst = m.rst := rfl
@[simp] theorem Module.setXlat_pins (m : Module) (f : Xlat → Xlat) : (m.setXlat f).pins = m.pins := rfl
@[simp] theorem Module.setXlat_fuse (m : Module) (f : Xlat → Xlat) : (m.setXlat f).fuse = m.fuse := rfl

/-! `setObj` -/

@[simp] theorem Module.setObj_regs (m : Module) (f : Objects → Objects) : (m.setObj f).regs = m.regs := rfl
@[simp] theorem Module.setObj_latch (m : Module) (f : Objects → Objects) : (m.setObj f).latch = m.latch := rfl
@[simp] theorem Module.setObj_stwLeft (m : Module) (f : Objects → Objects) : (m.setObj f).stwLeft = m.stwLeft := rfl
@[simp] theorem Module.setObj_lowHold (m : Module) (f : Objects → Objects) : (m.setObj f).lowHold = m.lowHold := rfl
@[simp] theorem Module.setObj_hostMem (m : Module) (f : Objects → Objects) : (m.setObj f).hostMem = m.hostMem := rfl
@[simp] theorem Module.setObj_twinMem (m : Module) (f : Objects → Objects) : (m.setObj f).twinMem = m.twinMem := rfl
@[simp] theorem Module.setObj_free (m : Module) (f : Objects → Objects) : (m.setObj f).free = m.free := rfl
@[simp] theorem Module.setObj_out (m : Module) (f : Objects → Objects) : (m.setObj f).out = m.out := rfl
@[simp] theorem Module.setObj_unmasked (m : Module) (f : Objects → Objects) : (m.setObj f).unmasked = m.unmasked := rfl
@[simp] theorem Module.setObj_msixPend (m : Module) (f : Objects → Objects) : (m.setObj f).msixPend = m.msixPend := rfl
@[simp] theorem Module.setObj_uidNext (m : Module) (f : Objects → Objects) : (m.setObj f).uidNext = m.uidNext := rfl
@[simp] theorem Module.setObj_tick (m : Module) (f : Objects → Objects) : (m.setObj f).tick = m.tick := rfl
@[simp] theorem Module.setObj_lists (m : Module) (f : Objects → Objects) : (m.setObj f).lists = m.lists := rfl
@[simp] theorem Module.setObj_nextLists (m : Module) (f : Objects → Objects) : (m.setObj f).nextLists = m.nextLists := rfl
@[simp] theorem Module.setObj_agreeQ (m : Module) (f : Objects → Objects) : (m.setObj f).agreeQ = m.agreeQ := rfl
@[simp] theorem Module.setObj_retries (m : Module) (f : Objects → Objects) : (m.setObj f).retries = m.retries := rfl
@[simp] theorem Module.setObj_cores (m : Module) (f : Objects → Objects) : (m.setObj f).cores = m.cores := rfl
@[simp] theorem Module.setObj_stw (m : Module) (f : Objects → Objects) : (m.setObj f).stw = m.stw := rfl
@[simp] theorem Module.setObj_obj (m : Module) (f : Objects → Objects) : (m.setObj f).obj = f m.obj := rfl
@[simp] theorem Module.setObj_xlat (m : Module) (f : Objects → Objects) : (m.setObj f).xlat = m.xlat := rfl
@[simp] theorem Module.setObj_mem (m : Module) (f : Objects → Objects) : (m.setObj f).mem = m.mem := rfl
@[simp] theorem Module.setObj_ras (m : Module) (f : Objects → Objects) : (m.setObj f).ras = m.ras := rfl
@[simp] theorem Module.setObj_comp (m : Module) (f : Objects → Objects) : (m.setObj f).comp = m.comp := rfl
@[simp] theorem Module.setObj_seq (m : Module) (f : Objects → Objects) : (m.setObj f).seq = m.seq := rfl
@[simp] theorem Module.setObj_ctrlQ (m : Module) (f : Objects → Objects) : (m.setObj f).ctrlQ = m.ctrlQ := rfl
@[simp] theorem Module.setObj_coll (m : Module) (f : Objects → Objects) : (m.setObj f).coll = m.coll := rfl
@[simp] theorem Module.setObj_twin (m : Module) (f : Objects → Objects) : (m.setObj f).twin = m.twin := rfl
@[simp] theorem Module.setObj_pwr (m : Module) (f : Objects → Objects) : (m.setObj f).pwr = m.pwr := rfl
@[simp] theorem Module.setObj_nvj (m : Module) (f : Objects → Objects) : (m.setObj f).nvj = m.nvj := rfl
@[simp] theorem Module.setObj_mgmt (m : Module) (f : Objects → Objects) : (m.setObj f).mgmt = m.mgmt := rfl
@[simp] theorem Module.setObj_links (m : Module) (f : Objects → Objects) : (m.setObj f).links = m.links := rfl
@[simp] theorem Module.setObj_inbox (m : Module) (f : Objects → Objects) : (m.setObj f).inbox = m.inbox := rfl
@[simp] theorem Module.setObj_rxData (m : Module) (f : Objects → Objects) : (m.setObj f).rxData = m.rxData := rfl
@[simp] theorem Module.setObj_seams (m : Module) (f : Objects → Objects) : (m.setObj f).seams = m.seams := rfl
@[simp] theorem Module.setObj_pcie (m : Module) (f : Objects → Objects) : (m.setObj f).pcie = m.pcie := rfl
@[simp] theorem Module.setObj_sec (m : Module) (f : Objects → Objects) : (m.setObj f).sec = m.sec := rfl
@[simp] theorem Module.setObj_rst (m : Module) (f : Objects → Objects) : (m.setObj f).rst = m.rst := rfl
@[simp] theorem Module.setObj_pins (m : Module) (f : Objects → Objects) : (m.setObj f).pins = m.pins := rfl
@[simp] theorem Module.setObj_fuse (m : Module) (f : Objects → Objects) : (m.setObj f).fuse = m.fuse := rfl

/-! `setMem` -/

@[simp] theorem Module.setMem_regs (m : Module) (f : MemSys → MemSys) : (m.setMem f).regs = m.regs := rfl
@[simp] theorem Module.setMem_latch (m : Module) (f : MemSys → MemSys) : (m.setMem f).latch = m.latch := rfl
@[simp] theorem Module.setMem_stwLeft (m : Module) (f : MemSys → MemSys) : (m.setMem f).stwLeft = m.stwLeft := rfl
@[simp] theorem Module.setMem_lowHold (m : Module) (f : MemSys → MemSys) : (m.setMem f).lowHold = m.lowHold := rfl
@[simp] theorem Module.setMem_hostMem (m : Module) (f : MemSys → MemSys) : (m.setMem f).hostMem = m.hostMem := rfl
@[simp] theorem Module.setMem_twinMem (m : Module) (f : MemSys → MemSys) : (m.setMem f).twinMem = m.twinMem := rfl
@[simp] theorem Module.setMem_free (m : Module) (f : MemSys → MemSys) : (m.setMem f).free = m.free := rfl
@[simp] theorem Module.setMem_out (m : Module) (f : MemSys → MemSys) : (m.setMem f).out = m.out := rfl
@[simp] theorem Module.setMem_unmasked (m : Module) (f : MemSys → MemSys) : (m.setMem f).unmasked = m.unmasked := rfl
@[simp] theorem Module.setMem_msixPend (m : Module) (f : MemSys → MemSys) : (m.setMem f).msixPend = m.msixPend := rfl
@[simp] theorem Module.setMem_uidNext (m : Module) (f : MemSys → MemSys) : (m.setMem f).uidNext = m.uidNext := rfl
@[simp] theorem Module.setMem_tick (m : Module) (f : MemSys → MemSys) : (m.setMem f).tick = m.tick := rfl
@[simp] theorem Module.setMem_lists (m : Module) (f : MemSys → MemSys) : (m.setMem f).lists = m.lists := rfl
@[simp] theorem Module.setMem_nextLists (m : Module) (f : MemSys → MemSys) : (m.setMem f).nextLists = m.nextLists := rfl
@[simp] theorem Module.setMem_agreeQ (m : Module) (f : MemSys → MemSys) : (m.setMem f).agreeQ = m.agreeQ := rfl
@[simp] theorem Module.setMem_retries (m : Module) (f : MemSys → MemSys) : (m.setMem f).retries = m.retries := rfl
@[simp] theorem Module.setMem_cores (m : Module) (f : MemSys → MemSys) : (m.setMem f).cores = m.cores := rfl
@[simp] theorem Module.setMem_stw (m : Module) (f : MemSys → MemSys) : (m.setMem f).stw = m.stw := rfl
@[simp] theorem Module.setMem_obj (m : Module) (f : MemSys → MemSys) : (m.setMem f).obj = m.obj := rfl
@[simp] theorem Module.setMem_xlat (m : Module) (f : MemSys → MemSys) : (m.setMem f).xlat = m.xlat := rfl
@[simp] theorem Module.setMem_mem (m : Module) (f : MemSys → MemSys) : (m.setMem f).mem = f m.mem := rfl
@[simp] theorem Module.setMem_ras (m : Module) (f : MemSys → MemSys) : (m.setMem f).ras = m.ras := rfl
@[simp] theorem Module.setMem_comp (m : Module) (f : MemSys → MemSys) : (m.setMem f).comp = m.comp := rfl
@[simp] theorem Module.setMem_seq (m : Module) (f : MemSys → MemSys) : (m.setMem f).seq = m.seq := rfl
@[simp] theorem Module.setMem_ctrlQ (m : Module) (f : MemSys → MemSys) : (m.setMem f).ctrlQ = m.ctrlQ := rfl
@[simp] theorem Module.setMem_coll (m : Module) (f : MemSys → MemSys) : (m.setMem f).coll = m.coll := rfl
@[simp] theorem Module.setMem_twin (m : Module) (f : MemSys → MemSys) : (m.setMem f).twin = m.twin := rfl
@[simp] theorem Module.setMem_pwr (m : Module) (f : MemSys → MemSys) : (m.setMem f).pwr = m.pwr := rfl
@[simp] theorem Module.setMem_nvj (m : Module) (f : MemSys → MemSys) : (m.setMem f).nvj = m.nvj := rfl
@[simp] theorem Module.setMem_mgmt (m : Module) (f : MemSys → MemSys) : (m.setMem f).mgmt = m.mgmt := rfl
@[simp] theorem Module.setMem_links (m : Module) (f : MemSys → MemSys) : (m.setMem f).links = m.links := rfl
@[simp] theorem Module.setMem_inbox (m : Module) (f : MemSys → MemSys) : (m.setMem f).inbox = m.inbox := rfl
@[simp] theorem Module.setMem_rxData (m : Module) (f : MemSys → MemSys) : (m.setMem f).rxData = m.rxData := rfl
@[simp] theorem Module.setMem_seams (m : Module) (f : MemSys → MemSys) : (m.setMem f).seams = m.seams := rfl
@[simp] theorem Module.setMem_pcie (m : Module) (f : MemSys → MemSys) : (m.setMem f).pcie = m.pcie := rfl
@[simp] theorem Module.setMem_sec (m : Module) (f : MemSys → MemSys) : (m.setMem f).sec = m.sec := rfl
@[simp] theorem Module.setMem_rst (m : Module) (f : MemSys → MemSys) : (m.setMem f).rst = m.rst := rfl
@[simp] theorem Module.setMem_pins (m : Module) (f : MemSys → MemSys) : (m.setMem f).pins = m.pins := rfl
@[simp] theorem Module.setMem_fuse (m : Module) (f : MemSys → MemSys) : (m.setMem f).fuse = m.fuse := rfl

/-! `setRas` -/

@[simp] theorem Module.setRas_regs (m : Module) (f : Ras → Ras) : (m.setRas f).regs = m.regs := rfl
@[simp] theorem Module.setRas_latch (m : Module) (f : Ras → Ras) : (m.setRas f).latch = m.latch := rfl
@[simp] theorem Module.setRas_stwLeft (m : Module) (f : Ras → Ras) : (m.setRas f).stwLeft = m.stwLeft := rfl
@[simp] theorem Module.setRas_lowHold (m : Module) (f : Ras → Ras) : (m.setRas f).lowHold = m.lowHold := rfl
@[simp] theorem Module.setRas_hostMem (m : Module) (f : Ras → Ras) : (m.setRas f).hostMem = m.hostMem := rfl
@[simp] theorem Module.setRas_twinMem (m : Module) (f : Ras → Ras) : (m.setRas f).twinMem = m.twinMem := rfl
@[simp] theorem Module.setRas_free (m : Module) (f : Ras → Ras) : (m.setRas f).free = m.free := rfl
@[simp] theorem Module.setRas_out (m : Module) (f : Ras → Ras) : (m.setRas f).out = m.out := rfl
@[simp] theorem Module.setRas_unmasked (m : Module) (f : Ras → Ras) : (m.setRas f).unmasked = m.unmasked := rfl
@[simp] theorem Module.setRas_msixPend (m : Module) (f : Ras → Ras) : (m.setRas f).msixPend = m.msixPend := rfl
@[simp] theorem Module.setRas_uidNext (m : Module) (f : Ras → Ras) : (m.setRas f).uidNext = m.uidNext := rfl
@[simp] theorem Module.setRas_tick (m : Module) (f : Ras → Ras) : (m.setRas f).tick = m.tick := rfl
@[simp] theorem Module.setRas_lists (m : Module) (f : Ras → Ras) : (m.setRas f).lists = m.lists := rfl
@[simp] theorem Module.setRas_nextLists (m : Module) (f : Ras → Ras) : (m.setRas f).nextLists = m.nextLists := rfl
@[simp] theorem Module.setRas_agreeQ (m : Module) (f : Ras → Ras) : (m.setRas f).agreeQ = m.agreeQ := rfl
@[simp] theorem Module.setRas_retries (m : Module) (f : Ras → Ras) : (m.setRas f).retries = m.retries := rfl
@[simp] theorem Module.setRas_cores (m : Module) (f : Ras → Ras) : (m.setRas f).cores = m.cores := rfl
@[simp] theorem Module.setRas_stw (m : Module) (f : Ras → Ras) : (m.setRas f).stw = m.stw := rfl
@[simp] theorem Module.setRas_obj (m : Module) (f : Ras → Ras) : (m.setRas f).obj = m.obj := rfl
@[simp] theorem Module.setRas_xlat (m : Module) (f : Ras → Ras) : (m.setRas f).xlat = m.xlat := rfl
@[simp] theorem Module.setRas_mem (m : Module) (f : Ras → Ras) : (m.setRas f).mem = m.mem := rfl
@[simp] theorem Module.setRas_ras (m : Module) (f : Ras → Ras) : (m.setRas f).ras = f m.ras := rfl
@[simp] theorem Module.setRas_comp (m : Module) (f : Ras → Ras) : (m.setRas f).comp = m.comp := rfl
@[simp] theorem Module.setRas_seq (m : Module) (f : Ras → Ras) : (m.setRas f).seq = m.seq := rfl
@[simp] theorem Module.setRas_ctrlQ (m : Module) (f : Ras → Ras) : (m.setRas f).ctrlQ = m.ctrlQ := rfl
@[simp] theorem Module.setRas_coll (m : Module) (f : Ras → Ras) : (m.setRas f).coll = m.coll := rfl
@[simp] theorem Module.setRas_twin (m : Module) (f : Ras → Ras) : (m.setRas f).twin = m.twin := rfl
@[simp] theorem Module.setRas_pwr (m : Module) (f : Ras → Ras) : (m.setRas f).pwr = m.pwr := rfl
@[simp] theorem Module.setRas_nvj (m : Module) (f : Ras → Ras) : (m.setRas f).nvj = m.nvj := rfl
@[simp] theorem Module.setRas_mgmt (m : Module) (f : Ras → Ras) : (m.setRas f).mgmt = m.mgmt := rfl
@[simp] theorem Module.setRas_links (m : Module) (f : Ras → Ras) : (m.setRas f).links = m.links := rfl
@[simp] theorem Module.setRas_inbox (m : Module) (f : Ras → Ras) : (m.setRas f).inbox = m.inbox := rfl
@[simp] theorem Module.setRas_rxData (m : Module) (f : Ras → Ras) : (m.setRas f).rxData = m.rxData := rfl
@[simp] theorem Module.setRas_seams (m : Module) (f : Ras → Ras) : (m.setRas f).seams = m.seams := rfl
@[simp] theorem Module.setRas_pcie (m : Module) (f : Ras → Ras) : (m.setRas f).pcie = m.pcie := rfl
@[simp] theorem Module.setRas_sec (m : Module) (f : Ras → Ras) : (m.setRas f).sec = m.sec := rfl
@[simp] theorem Module.setRas_rst (m : Module) (f : Ras → Ras) : (m.setRas f).rst = m.rst := rfl
@[simp] theorem Module.setRas_pins (m : Module) (f : Ras → Ras) : (m.setRas f).pins = m.pins := rfl
@[simp] theorem Module.setRas_fuse (m : Module) (f : Ras → Ras) : (m.setRas f).fuse = m.fuse := rfl

/-! `setNvj` -/

@[simp] theorem Module.setNvj_regs (m : Module) (f : Nvj → Nvj) : (m.setNvj f).regs = m.regs := rfl
@[simp] theorem Module.setNvj_latch (m : Module) (f : Nvj → Nvj) : (m.setNvj f).latch = m.latch := rfl
@[simp] theorem Module.setNvj_stwLeft (m : Module) (f : Nvj → Nvj) : (m.setNvj f).stwLeft = m.stwLeft := rfl
@[simp] theorem Module.setNvj_lowHold (m : Module) (f : Nvj → Nvj) : (m.setNvj f).lowHold = m.lowHold := rfl
@[simp] theorem Module.setNvj_hostMem (m : Module) (f : Nvj → Nvj) : (m.setNvj f).hostMem = m.hostMem := rfl
@[simp] theorem Module.setNvj_twinMem (m : Module) (f : Nvj → Nvj) : (m.setNvj f).twinMem = m.twinMem := rfl
@[simp] theorem Module.setNvj_free (m : Module) (f : Nvj → Nvj) : (m.setNvj f).free = m.free := rfl
@[simp] theorem Module.setNvj_out (m : Module) (f : Nvj → Nvj) : (m.setNvj f).out = m.out := rfl
@[simp] theorem Module.setNvj_unmasked (m : Module) (f : Nvj → Nvj) : (m.setNvj f).unmasked = m.unmasked := rfl
@[simp] theorem Module.setNvj_msixPend (m : Module) (f : Nvj → Nvj) : (m.setNvj f).msixPend = m.msixPend := rfl
@[simp] theorem Module.setNvj_uidNext (m : Module) (f : Nvj → Nvj) : (m.setNvj f).uidNext = m.uidNext := rfl
@[simp] theorem Module.setNvj_tick (m : Module) (f : Nvj → Nvj) : (m.setNvj f).tick = m.tick := rfl
@[simp] theorem Module.setNvj_lists (m : Module) (f : Nvj → Nvj) : (m.setNvj f).lists = m.lists := rfl
@[simp] theorem Module.setNvj_nextLists (m : Module) (f : Nvj → Nvj) : (m.setNvj f).nextLists = m.nextLists := rfl
@[simp] theorem Module.setNvj_agreeQ (m : Module) (f : Nvj → Nvj) : (m.setNvj f).agreeQ = m.agreeQ := rfl
@[simp] theorem Module.setNvj_retries (m : Module) (f : Nvj → Nvj) : (m.setNvj f).retries = m.retries := rfl
@[simp] theorem Module.setNvj_cores (m : Module) (f : Nvj → Nvj) : (m.setNvj f).cores = m.cores := rfl
@[simp] theorem Module.setNvj_stw (m : Module) (f : Nvj → Nvj) : (m.setNvj f).stw = m.stw := rfl
@[simp] theorem Module.setNvj_obj (m : Module) (f : Nvj → Nvj) : (m.setNvj f).obj = m.obj := rfl
@[simp] theorem Module.setNvj_xlat (m : Module) (f : Nvj → Nvj) : (m.setNvj f).xlat = m.xlat := rfl
@[simp] theorem Module.setNvj_mem (m : Module) (f : Nvj → Nvj) : (m.setNvj f).mem = m.mem := rfl
@[simp] theorem Module.setNvj_ras (m : Module) (f : Nvj → Nvj) : (m.setNvj f).ras = m.ras := rfl
@[simp] theorem Module.setNvj_comp (m : Module) (f : Nvj → Nvj) : (m.setNvj f).comp = m.comp := rfl
@[simp] theorem Module.setNvj_seq (m : Module) (f : Nvj → Nvj) : (m.setNvj f).seq = m.seq := rfl
@[simp] theorem Module.setNvj_ctrlQ (m : Module) (f : Nvj → Nvj) : (m.setNvj f).ctrlQ = m.ctrlQ := rfl
@[simp] theorem Module.setNvj_coll (m : Module) (f : Nvj → Nvj) : (m.setNvj f).coll = m.coll := rfl
@[simp] theorem Module.setNvj_twin (m : Module) (f : Nvj → Nvj) : (m.setNvj f).twin = m.twin := rfl
@[simp] theorem Module.setNvj_pwr (m : Module) (f : Nvj → Nvj) : (m.setNvj f).pwr = m.pwr := rfl
@[simp] theorem Module.setNvj_nvj (m : Module) (f : Nvj → Nvj) : (m.setNvj f).nvj = f m.nvj := rfl
@[simp] theorem Module.setNvj_mgmt (m : Module) (f : Nvj → Nvj) : (m.setNvj f).mgmt = m.mgmt := rfl
@[simp] theorem Module.setNvj_links (m : Module) (f : Nvj → Nvj) : (m.setNvj f).links = m.links := rfl
@[simp] theorem Module.setNvj_inbox (m : Module) (f : Nvj → Nvj) : (m.setNvj f).inbox = m.inbox := rfl
@[simp] theorem Module.setNvj_rxData (m : Module) (f : Nvj → Nvj) : (m.setNvj f).rxData = m.rxData := rfl
@[simp] theorem Module.setNvj_seams (m : Module) (f : Nvj → Nvj) : (m.setNvj f).seams = m.seams := rfl
@[simp] theorem Module.setNvj_pcie (m : Module) (f : Nvj → Nvj) : (m.setNvj f).pcie = m.pcie := rfl
@[simp] theorem Module.setNvj_sec (m : Module) (f : Nvj → Nvj) : (m.setNvj f).sec = m.sec := rfl
@[simp] theorem Module.setNvj_rst (m : Module) (f : Nvj → Nvj) : (m.setNvj f).rst = m.rst := rfl
@[simp] theorem Module.setNvj_pins (m : Module) (f : Nvj → Nvj) : (m.setNvj f).pins = m.pins := rfl
@[simp] theorem Module.setNvj_fuse (m : Module) (f : Nvj → Nvj) : (m.setNvj f).fuse = m.fuse := rfl

/-! `setComp` -/

@[simp] theorem Module.setComp_regs (m : Module) (f : Compose → Compose) : (m.setComp f).regs = m.regs := rfl
@[simp] theorem Module.setComp_latch (m : Module) (f : Compose → Compose) : (m.setComp f).latch = m.latch := rfl
@[simp] theorem Module.setComp_stwLeft (m : Module) (f : Compose → Compose) : (m.setComp f).stwLeft = m.stwLeft := rfl
@[simp] theorem Module.setComp_lowHold (m : Module) (f : Compose → Compose) : (m.setComp f).lowHold = m.lowHold := rfl
@[simp] theorem Module.setComp_hostMem (m : Module) (f : Compose → Compose) : (m.setComp f).hostMem = m.hostMem := rfl
@[simp] theorem Module.setComp_twinMem (m : Module) (f : Compose → Compose) : (m.setComp f).twinMem = m.twinMem := rfl
@[simp] theorem Module.setComp_free (m : Module) (f : Compose → Compose) : (m.setComp f).free = m.free := rfl
@[simp] theorem Module.setComp_out (m : Module) (f : Compose → Compose) : (m.setComp f).out = m.out := rfl
@[simp] theorem Module.setComp_unmasked (m : Module) (f : Compose → Compose) : (m.setComp f).unmasked = m.unmasked := rfl
@[simp] theorem Module.setComp_msixPend (m : Module) (f : Compose → Compose) : (m.setComp f).msixPend = m.msixPend := rfl
@[simp] theorem Module.setComp_uidNext (m : Module) (f : Compose → Compose) : (m.setComp f).uidNext = m.uidNext := rfl
@[simp] theorem Module.setComp_tick (m : Module) (f : Compose → Compose) : (m.setComp f).tick = m.tick := rfl
@[simp] theorem Module.setComp_lists (m : Module) (f : Compose → Compose) : (m.setComp f).lists = m.lists := rfl
@[simp] theorem Module.setComp_nextLists (m : Module) (f : Compose → Compose) : (m.setComp f).nextLists = m.nextLists := rfl
@[simp] theorem Module.setComp_agreeQ (m : Module) (f : Compose → Compose) : (m.setComp f).agreeQ = m.agreeQ := rfl
@[simp] theorem Module.setComp_retries (m : Module) (f : Compose → Compose) : (m.setComp f).retries = m.retries := rfl
@[simp] theorem Module.setComp_cores (m : Module) (f : Compose → Compose) : (m.setComp f).cores = m.cores := rfl
@[simp] theorem Module.setComp_stw (m : Module) (f : Compose → Compose) : (m.setComp f).stw = m.stw := rfl
@[simp] theorem Module.setComp_obj (m : Module) (f : Compose → Compose) : (m.setComp f).obj = m.obj := rfl
@[simp] theorem Module.setComp_xlat (m : Module) (f : Compose → Compose) : (m.setComp f).xlat = m.xlat := rfl
@[simp] theorem Module.setComp_mem (m : Module) (f : Compose → Compose) : (m.setComp f).mem = m.mem := rfl
@[simp] theorem Module.setComp_ras (m : Module) (f : Compose → Compose) : (m.setComp f).ras = m.ras := rfl
@[simp] theorem Module.setComp_comp (m : Module) (f : Compose → Compose) : (m.setComp f).comp = f m.comp := rfl
@[simp] theorem Module.setComp_seq (m : Module) (f : Compose → Compose) : (m.setComp f).seq = m.seq := rfl
@[simp] theorem Module.setComp_ctrlQ (m : Module) (f : Compose → Compose) : (m.setComp f).ctrlQ = m.ctrlQ := rfl
@[simp] theorem Module.setComp_coll (m : Module) (f : Compose → Compose) : (m.setComp f).coll = m.coll := rfl
@[simp] theorem Module.setComp_twin (m : Module) (f : Compose → Compose) : (m.setComp f).twin = m.twin := rfl
@[simp] theorem Module.setComp_pwr (m : Module) (f : Compose → Compose) : (m.setComp f).pwr = m.pwr := rfl
@[simp] theorem Module.setComp_nvj (m : Module) (f : Compose → Compose) : (m.setComp f).nvj = m.nvj := rfl
@[simp] theorem Module.setComp_mgmt (m : Module) (f : Compose → Compose) : (m.setComp f).mgmt = m.mgmt := rfl
@[simp] theorem Module.setComp_links (m : Module) (f : Compose → Compose) : (m.setComp f).links = m.links := rfl
@[simp] theorem Module.setComp_inbox (m : Module) (f : Compose → Compose) : (m.setComp f).inbox = m.inbox := rfl
@[simp] theorem Module.setComp_rxData (m : Module) (f : Compose → Compose) : (m.setComp f).rxData = m.rxData := rfl
@[simp] theorem Module.setComp_seams (m : Module) (f : Compose → Compose) : (m.setComp f).seams = m.seams := rfl
@[simp] theorem Module.setComp_pcie (m : Module) (f : Compose → Compose) : (m.setComp f).pcie = m.pcie := rfl
@[simp] theorem Module.setComp_sec (m : Module) (f : Compose → Compose) : (m.setComp f).sec = m.sec := rfl
@[simp] theorem Module.setComp_rst (m : Module) (f : Compose → Compose) : (m.setComp f).rst = m.rst := rfl
@[simp] theorem Module.setComp_pins (m : Module) (f : Compose → Compose) : (m.setComp f).pins = m.pins := rfl
@[simp] theorem Module.setComp_fuse (m : Module) (f : Compose → Compose) : (m.setComp f).fuse = m.fuse := rfl

/-! `setSeq` -/

@[simp] theorem Module.setSeq_regs (m : Module) (f : SeqSys → SeqSys) : (m.setSeq f).regs = m.regs := rfl
@[simp] theorem Module.setSeq_latch (m : Module) (f : SeqSys → SeqSys) : (m.setSeq f).latch = m.latch := rfl
@[simp] theorem Module.setSeq_stwLeft (m : Module) (f : SeqSys → SeqSys) : (m.setSeq f).stwLeft = m.stwLeft := rfl
@[simp] theorem Module.setSeq_lowHold (m : Module) (f : SeqSys → SeqSys) : (m.setSeq f).lowHold = m.lowHold := rfl
@[simp] theorem Module.setSeq_hostMem (m : Module) (f : SeqSys → SeqSys) : (m.setSeq f).hostMem = m.hostMem := rfl
@[simp] theorem Module.setSeq_twinMem (m : Module) (f : SeqSys → SeqSys) : (m.setSeq f).twinMem = m.twinMem := rfl
@[simp] theorem Module.setSeq_free (m : Module) (f : SeqSys → SeqSys) : (m.setSeq f).free = m.free := rfl
@[simp] theorem Module.setSeq_out (m : Module) (f : SeqSys → SeqSys) : (m.setSeq f).out = m.out := rfl
@[simp] theorem Module.setSeq_unmasked (m : Module) (f : SeqSys → SeqSys) : (m.setSeq f).unmasked = m.unmasked := rfl
@[simp] theorem Module.setSeq_msixPend (m : Module) (f : SeqSys → SeqSys) : (m.setSeq f).msixPend = m.msixPend := rfl
@[simp] theorem Module.setSeq_uidNext (m : Module) (f : SeqSys → SeqSys) : (m.setSeq f).uidNext = m.uidNext := rfl
@[simp] theorem Module.setSeq_tick (m : Module) (f : SeqSys → SeqSys) : (m.setSeq f).tick = m.tick := rfl
@[simp] theorem Module.setSeq_lists (m : Module) (f : SeqSys → SeqSys) : (m.setSeq f).lists = m.lists := rfl
@[simp] theorem Module.setSeq_nextLists (m : Module) (f : SeqSys → SeqSys) : (m.setSeq f).nextLists = m.nextLists := rfl
@[simp] theorem Module.setSeq_agreeQ (m : Module) (f : SeqSys → SeqSys) : (m.setSeq f).agreeQ = m.agreeQ := rfl
@[simp] theorem Module.setSeq_retries (m : Module) (f : SeqSys → SeqSys) : (m.setSeq f).retries = m.retries := rfl
@[simp] theorem Module.setSeq_cores (m : Module) (f : SeqSys → SeqSys) : (m.setSeq f).cores = m.cores := rfl
@[simp] theorem Module.setSeq_stw (m : Module) (f : SeqSys → SeqSys) : (m.setSeq f).stw = m.stw := rfl
@[simp] theorem Module.setSeq_obj (m : Module) (f : SeqSys → SeqSys) : (m.setSeq f).obj = m.obj := rfl
@[simp] theorem Module.setSeq_xlat (m : Module) (f : SeqSys → SeqSys) : (m.setSeq f).xlat = m.xlat := rfl
@[simp] theorem Module.setSeq_mem (m : Module) (f : SeqSys → SeqSys) : (m.setSeq f).mem = m.mem := rfl
@[simp] theorem Module.setSeq_ras (m : Module) (f : SeqSys → SeqSys) : (m.setSeq f).ras = m.ras := rfl
@[simp] theorem Module.setSeq_comp (m : Module) (f : SeqSys → SeqSys) : (m.setSeq f).comp = m.comp := rfl
@[simp] theorem Module.setSeq_seq (m : Module) (f : SeqSys → SeqSys) : (m.setSeq f).seq = f m.seq := rfl
@[simp] theorem Module.setSeq_ctrlQ (m : Module) (f : SeqSys → SeqSys) : (m.setSeq f).ctrlQ = m.ctrlQ := rfl
@[simp] theorem Module.setSeq_coll (m : Module) (f : SeqSys → SeqSys) : (m.setSeq f).coll = m.coll := rfl
@[simp] theorem Module.setSeq_twin (m : Module) (f : SeqSys → SeqSys) : (m.setSeq f).twin = m.twin := rfl
@[simp] theorem Module.setSeq_pwr (m : Module) (f : SeqSys → SeqSys) : (m.setSeq f).pwr = m.pwr := rfl
@[simp] theorem Module.setSeq_nvj (m : Module) (f : SeqSys → SeqSys) : (m.setSeq f).nvj = m.nvj := rfl
@[simp] theorem Module.setSeq_mgmt (m : Module) (f : SeqSys → SeqSys) : (m.setSeq f).mgmt = m.mgmt := rfl
@[simp] theorem Module.setSeq_links (m : Module) (f : SeqSys → SeqSys) : (m.setSeq f).links = m.links := rfl
@[simp] theorem Module.setSeq_inbox (m : Module) (f : SeqSys → SeqSys) : (m.setSeq f).inbox = m.inbox := rfl
@[simp] theorem Module.setSeq_rxData (m : Module) (f : SeqSys → SeqSys) : (m.setSeq f).rxData = m.rxData := rfl
@[simp] theorem Module.setSeq_seams (m : Module) (f : SeqSys → SeqSys) : (m.setSeq f).seams = m.seams := rfl
@[simp] theorem Module.setSeq_pcie (m : Module) (f : SeqSys → SeqSys) : (m.setSeq f).pcie = m.pcie := rfl
@[simp] theorem Module.setSeq_sec (m : Module) (f : SeqSys → SeqSys) : (m.setSeq f).sec = m.sec := rfl
@[simp] theorem Module.setSeq_rst (m : Module) (f : SeqSys → SeqSys) : (m.setSeq f).rst = m.rst := rfl
@[simp] theorem Module.setSeq_pins (m : Module) (f : SeqSys → SeqSys) : (m.setSeq f).pins = m.pins := rfl
@[simp] theorem Module.setSeq_fuse (m : Module) (f : SeqSys → SeqSys) : (m.setSeq f).fuse = m.fuse := rfl

/-! `setTwin` -/

@[simp] theorem Module.setTwin_regs (m : Module) (f : Twin → Twin) : (m.setTwin f).regs = m.regs := rfl
@[simp] theorem Module.setTwin_latch (m : Module) (f : Twin → Twin) : (m.setTwin f).latch = m.latch := rfl
@[simp] theorem Module.setTwin_stwLeft (m : Module) (f : Twin → Twin) : (m.setTwin f).stwLeft = m.stwLeft := rfl
@[simp] theorem Module.setTwin_lowHold (m : Module) (f : Twin → Twin) : (m.setTwin f).lowHold = m.lowHold := rfl
@[simp] theorem Module.setTwin_hostMem (m : Module) (f : Twin → Twin) : (m.setTwin f).hostMem = m.hostMem := rfl
@[simp] theorem Module.setTwin_twinMem (m : Module) (f : Twin → Twin) : (m.setTwin f).twinMem = m.twinMem := rfl
@[simp] theorem Module.setTwin_free (m : Module) (f : Twin → Twin) : (m.setTwin f).free = m.free := rfl
@[simp] theorem Module.setTwin_out (m : Module) (f : Twin → Twin) : (m.setTwin f).out = m.out := rfl
@[simp] theorem Module.setTwin_unmasked (m : Module) (f : Twin → Twin) : (m.setTwin f).unmasked = m.unmasked := rfl
@[simp] theorem Module.setTwin_msixPend (m : Module) (f : Twin → Twin) : (m.setTwin f).msixPend = m.msixPend := rfl
@[simp] theorem Module.setTwin_uidNext (m : Module) (f : Twin → Twin) : (m.setTwin f).uidNext = m.uidNext := rfl
@[simp] theorem Module.setTwin_tick (m : Module) (f : Twin → Twin) : (m.setTwin f).tick = m.tick := rfl
@[simp] theorem Module.setTwin_lists (m : Module) (f : Twin → Twin) : (m.setTwin f).lists = m.lists := rfl
@[simp] theorem Module.setTwin_nextLists (m : Module) (f : Twin → Twin) : (m.setTwin f).nextLists = m.nextLists := rfl
@[simp] theorem Module.setTwin_agreeQ (m : Module) (f : Twin → Twin) : (m.setTwin f).agreeQ = m.agreeQ := rfl
@[simp] theorem Module.setTwin_retries (m : Module) (f : Twin → Twin) : (m.setTwin f).retries = m.retries := rfl
@[simp] theorem Module.setTwin_cores (m : Module) (f : Twin → Twin) : (m.setTwin f).cores = m.cores := rfl
@[simp] theorem Module.setTwin_stw (m : Module) (f : Twin → Twin) : (m.setTwin f).stw = m.stw := rfl
@[simp] theorem Module.setTwin_obj (m : Module) (f : Twin → Twin) : (m.setTwin f).obj = m.obj := rfl
@[simp] theorem Module.setTwin_xlat (m : Module) (f : Twin → Twin) : (m.setTwin f).xlat = m.xlat := rfl
@[simp] theorem Module.setTwin_mem (m : Module) (f : Twin → Twin) : (m.setTwin f).mem = m.mem := rfl
@[simp] theorem Module.setTwin_ras (m : Module) (f : Twin → Twin) : (m.setTwin f).ras = m.ras := rfl
@[simp] theorem Module.setTwin_comp (m : Module) (f : Twin → Twin) : (m.setTwin f).comp = m.comp := rfl
@[simp] theorem Module.setTwin_seq (m : Module) (f : Twin → Twin) : (m.setTwin f).seq = m.seq := rfl
@[simp] theorem Module.setTwin_ctrlQ (m : Module) (f : Twin → Twin) : (m.setTwin f).ctrlQ = m.ctrlQ := rfl
@[simp] theorem Module.setTwin_coll (m : Module) (f : Twin → Twin) : (m.setTwin f).coll = m.coll := rfl
@[simp] theorem Module.setTwin_twin (m : Module) (f : Twin → Twin) : (m.setTwin f).twin = f m.twin := rfl
@[simp] theorem Module.setTwin_pwr (m : Module) (f : Twin → Twin) : (m.setTwin f).pwr = m.pwr := rfl
@[simp] theorem Module.setTwin_nvj (m : Module) (f : Twin → Twin) : (m.setTwin f).nvj = m.nvj := rfl
@[simp] theorem Module.setTwin_mgmt (m : Module) (f : Twin → Twin) : (m.setTwin f).mgmt = m.mgmt := rfl
@[simp] theorem Module.setTwin_links (m : Module) (f : Twin → Twin) : (m.setTwin f).links = m.links := rfl
@[simp] theorem Module.setTwin_inbox (m : Module) (f : Twin → Twin) : (m.setTwin f).inbox = m.inbox := rfl
@[simp] theorem Module.setTwin_rxData (m : Module) (f : Twin → Twin) : (m.setTwin f).rxData = m.rxData := rfl
@[simp] theorem Module.setTwin_seams (m : Module) (f : Twin → Twin) : (m.setTwin f).seams = m.seams := rfl
@[simp] theorem Module.setTwin_pcie (m : Module) (f : Twin → Twin) : (m.setTwin f).pcie = m.pcie := rfl
@[simp] theorem Module.setTwin_sec (m : Module) (f : Twin → Twin) : (m.setTwin f).sec = m.sec := rfl
@[simp] theorem Module.setTwin_rst (m : Module) (f : Twin → Twin) : (m.setTwin f).rst = m.rst := rfl
@[simp] theorem Module.setTwin_pins (m : Module) (f : Twin → Twin) : (m.setTwin f).pins = m.pins := rfl
@[simp] theorem Module.setTwin_fuse (m : Module) (f : Twin → Twin) : (m.setTwin f).fuse = m.fuse := rfl

/-! `setPwr` -/

@[simp] theorem Module.setPwr_regs (m : Module) (f : Pwr → Pwr) : (m.setPwr f).regs = m.regs := rfl
@[simp] theorem Module.setPwr_latch (m : Module) (f : Pwr → Pwr) : (m.setPwr f).latch = m.latch := rfl
@[simp] theorem Module.setPwr_stwLeft (m : Module) (f : Pwr → Pwr) : (m.setPwr f).stwLeft = m.stwLeft := rfl
@[simp] theorem Module.setPwr_lowHold (m : Module) (f : Pwr → Pwr) : (m.setPwr f).lowHold = m.lowHold := rfl
@[simp] theorem Module.setPwr_hostMem (m : Module) (f : Pwr → Pwr) : (m.setPwr f).hostMem = m.hostMem := rfl
@[simp] theorem Module.setPwr_twinMem (m : Module) (f : Pwr → Pwr) : (m.setPwr f).twinMem = m.twinMem := rfl
@[simp] theorem Module.setPwr_free (m : Module) (f : Pwr → Pwr) : (m.setPwr f).free = m.free := rfl
@[simp] theorem Module.setPwr_out (m : Module) (f : Pwr → Pwr) : (m.setPwr f).out = m.out := rfl
@[simp] theorem Module.setPwr_unmasked (m : Module) (f : Pwr → Pwr) : (m.setPwr f).unmasked = m.unmasked := rfl
@[simp] theorem Module.setPwr_msixPend (m : Module) (f : Pwr → Pwr) : (m.setPwr f).msixPend = m.msixPend := rfl
@[simp] theorem Module.setPwr_uidNext (m : Module) (f : Pwr → Pwr) : (m.setPwr f).uidNext = m.uidNext := rfl
@[simp] theorem Module.setPwr_tick (m : Module) (f : Pwr → Pwr) : (m.setPwr f).tick = m.tick := rfl
@[simp] theorem Module.setPwr_lists (m : Module) (f : Pwr → Pwr) : (m.setPwr f).lists = m.lists := rfl
@[simp] theorem Module.setPwr_nextLists (m : Module) (f : Pwr → Pwr) : (m.setPwr f).nextLists = m.nextLists := rfl
@[simp] theorem Module.setPwr_agreeQ (m : Module) (f : Pwr → Pwr) : (m.setPwr f).agreeQ = m.agreeQ := rfl
@[simp] theorem Module.setPwr_retries (m : Module) (f : Pwr → Pwr) : (m.setPwr f).retries = m.retries := rfl
@[simp] theorem Module.setPwr_cores (m : Module) (f : Pwr → Pwr) : (m.setPwr f).cores = m.cores := rfl
@[simp] theorem Module.setPwr_stw (m : Module) (f : Pwr → Pwr) : (m.setPwr f).stw = m.stw := rfl
@[simp] theorem Module.setPwr_obj (m : Module) (f : Pwr → Pwr) : (m.setPwr f).obj = m.obj := rfl
@[simp] theorem Module.setPwr_xlat (m : Module) (f : Pwr → Pwr) : (m.setPwr f).xlat = m.xlat := rfl
@[simp] theorem Module.setPwr_mem (m : Module) (f : Pwr → Pwr) : (m.setPwr f).mem = m.mem := rfl
@[simp] theorem Module.setPwr_ras (m : Module) (f : Pwr → Pwr) : (m.setPwr f).ras = m.ras := rfl
@[simp] theorem Module.setPwr_comp (m : Module) (f : Pwr → Pwr) : (m.setPwr f).comp = m.comp := rfl
@[simp] theorem Module.setPwr_seq (m : Module) (f : Pwr → Pwr) : (m.setPwr f).seq = m.seq := rfl
@[simp] theorem Module.setPwr_ctrlQ (m : Module) (f : Pwr → Pwr) : (m.setPwr f).ctrlQ = m.ctrlQ := rfl
@[simp] theorem Module.setPwr_coll (m : Module) (f : Pwr → Pwr) : (m.setPwr f).coll = m.coll := rfl
@[simp] theorem Module.setPwr_twin (m : Module) (f : Pwr → Pwr) : (m.setPwr f).twin = m.twin := rfl
@[simp] theorem Module.setPwr_pwr (m : Module) (f : Pwr → Pwr) : (m.setPwr f).pwr = f m.pwr := rfl
@[simp] theorem Module.setPwr_nvj (m : Module) (f : Pwr → Pwr) : (m.setPwr f).nvj = m.nvj := rfl
@[simp] theorem Module.setPwr_mgmt (m : Module) (f : Pwr → Pwr) : (m.setPwr f).mgmt = m.mgmt := rfl
@[simp] theorem Module.setPwr_links (m : Module) (f : Pwr → Pwr) : (m.setPwr f).links = m.links := rfl
@[simp] theorem Module.setPwr_inbox (m : Module) (f : Pwr → Pwr) : (m.setPwr f).inbox = m.inbox := rfl
@[simp] theorem Module.setPwr_rxData (m : Module) (f : Pwr → Pwr) : (m.setPwr f).rxData = m.rxData := rfl
@[simp] theorem Module.setPwr_seams (m : Module) (f : Pwr → Pwr) : (m.setPwr f).seams = m.seams := rfl
@[simp] theorem Module.setPwr_pcie (m : Module) (f : Pwr → Pwr) : (m.setPwr f).pcie = m.pcie := rfl
@[simp] theorem Module.setPwr_sec (m : Module) (f : Pwr → Pwr) : (m.setPwr f).sec = m.sec := rfl
@[simp] theorem Module.setPwr_rst (m : Module) (f : Pwr → Pwr) : (m.setPwr f).rst = m.rst := rfl
@[simp] theorem Module.setPwr_pins (m : Module) (f : Pwr → Pwr) : (m.setPwr f).pins = m.pins := rfl
@[simp] theorem Module.setPwr_fuse (m : Module) (f : Pwr → Pwr) : (m.setPwr f).fuse = m.fuse := rfl

/-! `setPcie` -/

@[simp] theorem Module.setPcie_regs (m : Module) (f : Pcie → Pcie) : (m.setPcie f).regs = m.regs := rfl
@[simp] theorem Module.setPcie_latch (m : Module) (f : Pcie → Pcie) : (m.setPcie f).latch = m.latch := rfl
@[simp] theorem Module.setPcie_stwLeft (m : Module) (f : Pcie → Pcie) : (m.setPcie f).stwLeft = m.stwLeft := rfl
@[simp] theorem Module.setPcie_lowHold (m : Module) (f : Pcie → Pcie) : (m.setPcie f).lowHold = m.lowHold := rfl
@[simp] theorem Module.setPcie_hostMem (m : Module) (f : Pcie → Pcie) : (m.setPcie f).hostMem = m.hostMem := rfl
@[simp] theorem Module.setPcie_twinMem (m : Module) (f : Pcie → Pcie) : (m.setPcie f).twinMem = m.twinMem := rfl
@[simp] theorem Module.setPcie_free (m : Module) (f : Pcie → Pcie) : (m.setPcie f).free = m.free := rfl
@[simp] theorem Module.setPcie_out (m : Module) (f : Pcie → Pcie) : (m.setPcie f).out = m.out := rfl
@[simp] theorem Module.setPcie_unmasked (m : Module) (f : Pcie → Pcie) : (m.setPcie f).unmasked = m.unmasked := rfl
@[simp] theorem Module.setPcie_msixPend (m : Module) (f : Pcie → Pcie) : (m.setPcie f).msixPend = m.msixPend := rfl
@[simp] theorem Module.setPcie_uidNext (m : Module) (f : Pcie → Pcie) : (m.setPcie f).uidNext = m.uidNext := rfl
@[simp] theorem Module.setPcie_tick (m : Module) (f : Pcie → Pcie) : (m.setPcie f).tick = m.tick := rfl
@[simp] theorem Module.setPcie_lists (m : Module) (f : Pcie → Pcie) : (m.setPcie f).lists = m.lists := rfl
@[simp] theorem Module.setPcie_nextLists (m : Module) (f : Pcie → Pcie) : (m.setPcie f).nextLists = m.nextLists := rfl
@[simp] theorem Module.setPcie_agreeQ (m : Module) (f : Pcie → Pcie) : (m.setPcie f).agreeQ = m.agreeQ := rfl
@[simp] theorem Module.setPcie_retries (m : Module) (f : Pcie → Pcie) : (m.setPcie f).retries = m.retries := rfl
@[simp] theorem Module.setPcie_cores (m : Module) (f : Pcie → Pcie) : (m.setPcie f).cores = m.cores := rfl
@[simp] theorem Module.setPcie_stw (m : Module) (f : Pcie → Pcie) : (m.setPcie f).stw = m.stw := rfl
@[simp] theorem Module.setPcie_obj (m : Module) (f : Pcie → Pcie) : (m.setPcie f).obj = m.obj := rfl
@[simp] theorem Module.setPcie_xlat (m : Module) (f : Pcie → Pcie) : (m.setPcie f).xlat = m.xlat := rfl
@[simp] theorem Module.setPcie_mem (m : Module) (f : Pcie → Pcie) : (m.setPcie f).mem = m.mem := rfl
@[simp] theorem Module.setPcie_ras (m : Module) (f : Pcie → Pcie) : (m.setPcie f).ras = m.ras := rfl
@[simp] theorem Module.setPcie_comp (m : Module) (f : Pcie → Pcie) : (m.setPcie f).comp = m.comp := rfl
@[simp] theorem Module.setPcie_seq (m : Module) (f : Pcie → Pcie) : (m.setPcie f).seq = m.seq := rfl
@[simp] theorem Module.setPcie_ctrlQ (m : Module) (f : Pcie → Pcie) : (m.setPcie f).ctrlQ = m.ctrlQ := rfl
@[simp] theorem Module.setPcie_coll (m : Module) (f : Pcie → Pcie) : (m.setPcie f).coll = m.coll := rfl
@[simp] theorem Module.setPcie_twin (m : Module) (f : Pcie → Pcie) : (m.setPcie f).twin = m.twin := rfl
@[simp] theorem Module.setPcie_pwr (m : Module) (f : Pcie → Pcie) : (m.setPcie f).pwr = m.pwr := rfl
@[simp] theorem Module.setPcie_nvj (m : Module) (f : Pcie → Pcie) : (m.setPcie f).nvj = m.nvj := rfl
@[simp] theorem Module.setPcie_mgmt (m : Module) (f : Pcie → Pcie) : (m.setPcie f).mgmt = m.mgmt := rfl
@[simp] theorem Module.setPcie_links (m : Module) (f : Pcie → Pcie) : (m.setPcie f).links = m.links := rfl
@[simp] theorem Module.setPcie_inbox (m : Module) (f : Pcie → Pcie) : (m.setPcie f).inbox = m.inbox := rfl
@[simp] theorem Module.setPcie_rxData (m : Module) (f : Pcie → Pcie) : (m.setPcie f).rxData = m.rxData := rfl
@[simp] theorem Module.setPcie_seams (m : Module) (f : Pcie → Pcie) : (m.setPcie f).seams = m.seams := rfl
@[simp] theorem Module.setPcie_pcie (m : Module) (f : Pcie → Pcie) : (m.setPcie f).pcie = f m.pcie := rfl
@[simp] theorem Module.setPcie_sec (m : Module) (f : Pcie → Pcie) : (m.setPcie f).sec = m.sec := rfl
@[simp] theorem Module.setPcie_rst (m : Module) (f : Pcie → Pcie) : (m.setPcie f).rst = m.rst := rfl
@[simp] theorem Module.setPcie_pins (m : Module) (f : Pcie → Pcie) : (m.setPcie f).pins = m.pins := rfl
@[simp] theorem Module.setPcie_fuse (m : Module) (f : Pcie → Pcie) : (m.setPcie f).fuse = m.fuse := rfl

/-! `setSec` -/

@[simp] theorem Module.setSec_regs (m : Module) (f : Sec → Sec) : (m.setSec f).regs = m.regs := rfl
@[simp] theorem Module.setSec_latch (m : Module) (f : Sec → Sec) : (m.setSec f).latch = m.latch := rfl
@[simp] theorem Module.setSec_stwLeft (m : Module) (f : Sec → Sec) : (m.setSec f).stwLeft = m.stwLeft := rfl
@[simp] theorem Module.setSec_lowHold (m : Module) (f : Sec → Sec) : (m.setSec f).lowHold = m.lowHold := rfl
@[simp] theorem Module.setSec_hostMem (m : Module) (f : Sec → Sec) : (m.setSec f).hostMem = m.hostMem := rfl
@[simp] theorem Module.setSec_twinMem (m : Module) (f : Sec → Sec) : (m.setSec f).twinMem = m.twinMem := rfl
@[simp] theorem Module.setSec_free (m : Module) (f : Sec → Sec) : (m.setSec f).free = m.free := rfl
@[simp] theorem Module.setSec_out (m : Module) (f : Sec → Sec) : (m.setSec f).out = m.out := rfl
@[simp] theorem Module.setSec_unmasked (m : Module) (f : Sec → Sec) : (m.setSec f).unmasked = m.unmasked := rfl
@[simp] theorem Module.setSec_msixPend (m : Module) (f : Sec → Sec) : (m.setSec f).msixPend = m.msixPend := rfl
@[simp] theorem Module.setSec_uidNext (m : Module) (f : Sec → Sec) : (m.setSec f).uidNext = m.uidNext := rfl
@[simp] theorem Module.setSec_tick (m : Module) (f : Sec → Sec) : (m.setSec f).tick = m.tick := rfl
@[simp] theorem Module.setSec_lists (m : Module) (f : Sec → Sec) : (m.setSec f).lists = m.lists := rfl
@[simp] theorem Module.setSec_nextLists (m : Module) (f : Sec → Sec) : (m.setSec f).nextLists = m.nextLists := rfl
@[simp] theorem Module.setSec_agreeQ (m : Module) (f : Sec → Sec) : (m.setSec f).agreeQ = m.agreeQ := rfl
@[simp] theorem Module.setSec_retries (m : Module) (f : Sec → Sec) : (m.setSec f).retries = m.retries := rfl
@[simp] theorem Module.setSec_cores (m : Module) (f : Sec → Sec) : (m.setSec f).cores = m.cores := rfl
@[simp] theorem Module.setSec_stw (m : Module) (f : Sec → Sec) : (m.setSec f).stw = m.stw := rfl
@[simp] theorem Module.setSec_obj (m : Module) (f : Sec → Sec) : (m.setSec f).obj = m.obj := rfl
@[simp] theorem Module.setSec_xlat (m : Module) (f : Sec → Sec) : (m.setSec f).xlat = m.xlat := rfl
@[simp] theorem Module.setSec_mem (m : Module) (f : Sec → Sec) : (m.setSec f).mem = m.mem := rfl
@[simp] theorem Module.setSec_ras (m : Module) (f : Sec → Sec) : (m.setSec f).ras = m.ras := rfl
@[simp] theorem Module.setSec_comp (m : Module) (f : Sec → Sec) : (m.setSec f).comp = m.comp := rfl
@[simp] theorem Module.setSec_seq (m : Module) (f : Sec → Sec) : (m.setSec f).seq = m.seq := rfl
@[simp] theorem Module.setSec_ctrlQ (m : Module) (f : Sec → Sec) : (m.setSec f).ctrlQ = m.ctrlQ := rfl
@[simp] theorem Module.setSec_coll (m : Module) (f : Sec → Sec) : (m.setSec f).coll = m.coll := rfl
@[simp] theorem Module.setSec_twin (m : Module) (f : Sec → Sec) : (m.setSec f).twin = m.twin := rfl
@[simp] theorem Module.setSec_pwr (m : Module) (f : Sec → Sec) : (m.setSec f).pwr = m.pwr := rfl
@[simp] theorem Module.setSec_nvj (m : Module) (f : Sec → Sec) : (m.setSec f).nvj = m.nvj := rfl
@[simp] theorem Module.setSec_mgmt (m : Module) (f : Sec → Sec) : (m.setSec f).mgmt = m.mgmt := rfl
@[simp] theorem Module.setSec_links (m : Module) (f : Sec → Sec) : (m.setSec f).links = m.links := rfl
@[simp] theorem Module.setSec_inbox (m : Module) (f : Sec → Sec) : (m.setSec f).inbox = m.inbox := rfl
@[simp] theorem Module.setSec_rxData (m : Module) (f : Sec → Sec) : (m.setSec f).rxData = m.rxData := rfl
@[simp] theorem Module.setSec_seams (m : Module) (f : Sec → Sec) : (m.setSec f).seams = m.seams := rfl
@[simp] theorem Module.setSec_pcie (m : Module) (f : Sec → Sec) : (m.setSec f).pcie = m.pcie := rfl
@[simp] theorem Module.setSec_sec (m : Module) (f : Sec → Sec) : (m.setSec f).sec = f m.sec := rfl
@[simp] theorem Module.setSec_rst (m : Module) (f : Sec → Sec) : (m.setSec f).rst = m.rst := rfl
@[simp] theorem Module.setSec_pins (m : Module) (f : Sec → Sec) : (m.setSec f).pins = m.pins := rfl
@[simp] theorem Module.setSec_fuse (m : Module) (f : Sec → Sec) : (m.setSec f).fuse = m.fuse := rfl

/-! `setMgmt` -/

@[simp] theorem Module.setMgmt_regs (m : Module) (f : Mgmt → Mgmt) : (m.setMgmt f).regs = m.regs := rfl
@[simp] theorem Module.setMgmt_latch (m : Module) (f : Mgmt → Mgmt) : (m.setMgmt f).latch = m.latch := rfl
@[simp] theorem Module.setMgmt_stwLeft (m : Module) (f : Mgmt → Mgmt) : (m.setMgmt f).stwLeft = m.stwLeft := rfl
@[simp] theorem Module.setMgmt_lowHold (m : Module) (f : Mgmt → Mgmt) : (m.setMgmt f).lowHold = m.lowHold := rfl
@[simp] theorem Module.setMgmt_hostMem (m : Module) (f : Mgmt → Mgmt) : (m.setMgmt f).hostMem = m.hostMem := rfl
@[simp] theorem Module.setMgmt_twinMem (m : Module) (f : Mgmt → Mgmt) : (m.setMgmt f).twinMem = m.twinMem := rfl
@[simp] theorem Module.setMgmt_free (m : Module) (f : Mgmt → Mgmt) : (m.setMgmt f).free = m.free := rfl
@[simp] theorem Module.setMgmt_out (m : Module) (f : Mgmt → Mgmt) : (m.setMgmt f).out = m.out := rfl
@[simp] theorem Module.setMgmt_unmasked (m : Module) (f : Mgmt → Mgmt) : (m.setMgmt f).unmasked = m.unmasked := rfl
@[simp] theorem Module.setMgmt_msixPend (m : Module) (f : Mgmt → Mgmt) : (m.setMgmt f).msixPend = m.msixPend := rfl
@[simp] theorem Module.setMgmt_uidNext (m : Module) (f : Mgmt → Mgmt) : (m.setMgmt f).uidNext = m.uidNext := rfl
@[simp] theorem Module.setMgmt_tick (m : Module) (f : Mgmt → Mgmt) : (m.setMgmt f).tick = m.tick := rfl
@[simp] theorem Module.setMgmt_lists (m : Module) (f : Mgmt → Mgmt) : (m.setMgmt f).lists = m.lists := rfl
@[simp] theorem Module.setMgmt_nextLists (m : Module) (f : Mgmt → Mgmt) : (m.setMgmt f).nextLists = m.nextLists := rfl
@[simp] theorem Module.setMgmt_agreeQ (m : Module) (f : Mgmt → Mgmt) : (m.setMgmt f).agreeQ = m.agreeQ := rfl
@[simp] theorem Module.setMgmt_retries (m : Module) (f : Mgmt → Mgmt) : (m.setMgmt f).retries = m.retries := rfl
@[simp] theorem Module.setMgmt_cores (m : Module) (f : Mgmt → Mgmt) : (m.setMgmt f).cores = m.cores := rfl
@[simp] theorem Module.setMgmt_stw (m : Module) (f : Mgmt → Mgmt) : (m.setMgmt f).stw = m.stw := rfl
@[simp] theorem Module.setMgmt_obj (m : Module) (f : Mgmt → Mgmt) : (m.setMgmt f).obj = m.obj := rfl
@[simp] theorem Module.setMgmt_xlat (m : Module) (f : Mgmt → Mgmt) : (m.setMgmt f).xlat = m.xlat := rfl
@[simp] theorem Module.setMgmt_mem (m : Module) (f : Mgmt → Mgmt) : (m.setMgmt f).mem = m.mem := rfl
@[simp] theorem Module.setMgmt_ras (m : Module) (f : Mgmt → Mgmt) : (m.setMgmt f).ras = m.ras := rfl
@[simp] theorem Module.setMgmt_comp (m : Module) (f : Mgmt → Mgmt) : (m.setMgmt f).comp = m.comp := rfl
@[simp] theorem Module.setMgmt_seq (m : Module) (f : Mgmt → Mgmt) : (m.setMgmt f).seq = m.seq := rfl
@[simp] theorem Module.setMgmt_ctrlQ (m : Module) (f : Mgmt → Mgmt) : (m.setMgmt f).ctrlQ = m.ctrlQ := rfl
@[simp] theorem Module.setMgmt_coll (m : Module) (f : Mgmt → Mgmt) : (m.setMgmt f).coll = m.coll := rfl
@[simp] theorem Module.setMgmt_twin (m : Module) (f : Mgmt → Mgmt) : (m.setMgmt f).twin = m.twin := rfl
@[simp] theorem Module.setMgmt_pwr (m : Module) (f : Mgmt → Mgmt) : (m.setMgmt f).pwr = m.pwr := rfl
@[simp] theorem Module.setMgmt_nvj (m : Module) (f : Mgmt → Mgmt) : (m.setMgmt f).nvj = m.nvj := rfl
@[simp] theorem Module.setMgmt_mgmt (m : Module) (f : Mgmt → Mgmt) : (m.setMgmt f).mgmt = f m.mgmt := rfl
@[simp] theorem Module.setMgmt_links (m : Module) (f : Mgmt → Mgmt) : (m.setMgmt f).links = m.links := rfl
@[simp] theorem Module.setMgmt_inbox (m : Module) (f : Mgmt → Mgmt) : (m.setMgmt f).inbox = m.inbox := rfl
@[simp] theorem Module.setMgmt_rxData (m : Module) (f : Mgmt → Mgmt) : (m.setMgmt f).rxData = m.rxData := rfl
@[simp] theorem Module.setMgmt_seams (m : Module) (f : Mgmt → Mgmt) : (m.setMgmt f).seams = m.seams := rfl
@[simp] theorem Module.setMgmt_pcie (m : Module) (f : Mgmt → Mgmt) : (m.setMgmt f).pcie = m.pcie := rfl
@[simp] theorem Module.setMgmt_sec (m : Module) (f : Mgmt → Mgmt) : (m.setMgmt f).sec = m.sec := rfl
@[simp] theorem Module.setMgmt_rst (m : Module) (f : Mgmt → Mgmt) : (m.setMgmt f).rst = m.rst := rfl
@[simp] theorem Module.setMgmt_pins (m : Module) (f : Mgmt → Mgmt) : (m.setMgmt f).pins = m.pins := rfl
@[simp] theorem Module.setMgmt_fuse (m : Module) (f : Mgmt → Mgmt) : (m.setMgmt f).fuse = m.fuse := rfl

/-! `setRst` -/

@[simp] theorem Module.setRst_regs (m : Module) (f : Rst → Rst) : (m.setRst f).regs = m.regs := rfl
@[simp] theorem Module.setRst_latch (m : Module) (f : Rst → Rst) : (m.setRst f).latch = m.latch := rfl
@[simp] theorem Module.setRst_stwLeft (m : Module) (f : Rst → Rst) : (m.setRst f).stwLeft = m.stwLeft := rfl
@[simp] theorem Module.setRst_lowHold (m : Module) (f : Rst → Rst) : (m.setRst f).lowHold = m.lowHold := rfl
@[simp] theorem Module.setRst_hostMem (m : Module) (f : Rst → Rst) : (m.setRst f).hostMem = m.hostMem := rfl
@[simp] theorem Module.setRst_twinMem (m : Module) (f : Rst → Rst) : (m.setRst f).twinMem = m.twinMem := rfl
@[simp] theorem Module.setRst_free (m : Module) (f : Rst → Rst) : (m.setRst f).free = m.free := rfl
@[simp] theorem Module.setRst_out (m : Module) (f : Rst → Rst) : (m.setRst f).out = m.out := rfl
@[simp] theorem Module.setRst_unmasked (m : Module) (f : Rst → Rst) : (m.setRst f).unmasked = m.unmasked := rfl
@[simp] theorem Module.setRst_msixPend (m : Module) (f : Rst → Rst) : (m.setRst f).msixPend = m.msixPend := rfl
@[simp] theorem Module.setRst_uidNext (m : Module) (f : Rst → Rst) : (m.setRst f).uidNext = m.uidNext := rfl
@[simp] theorem Module.setRst_tick (m : Module) (f : Rst → Rst) : (m.setRst f).tick = m.tick := rfl
@[simp] theorem Module.setRst_lists (m : Module) (f : Rst → Rst) : (m.setRst f).lists = m.lists := rfl
@[simp] theorem Module.setRst_nextLists (m : Module) (f : Rst → Rst) : (m.setRst f).nextLists = m.nextLists := rfl
@[simp] theorem Module.setRst_agreeQ (m : Module) (f : Rst → Rst) : (m.setRst f).agreeQ = m.agreeQ := rfl
@[simp] theorem Module.setRst_retries (m : Module) (f : Rst → Rst) : (m.setRst f).retries = m.retries := rfl
@[simp] theorem Module.setRst_cores (m : Module) (f : Rst → Rst) : (m.setRst f).cores = m.cores := rfl
@[simp] theorem Module.setRst_stw (m : Module) (f : Rst → Rst) : (m.setRst f).stw = m.stw := rfl
@[simp] theorem Module.setRst_obj (m : Module) (f : Rst → Rst) : (m.setRst f).obj = m.obj := rfl
@[simp] theorem Module.setRst_xlat (m : Module) (f : Rst → Rst) : (m.setRst f).xlat = m.xlat := rfl
@[simp] theorem Module.setRst_mem (m : Module) (f : Rst → Rst) : (m.setRst f).mem = m.mem := rfl
@[simp] theorem Module.setRst_ras (m : Module) (f : Rst → Rst) : (m.setRst f).ras = m.ras := rfl
@[simp] theorem Module.setRst_comp (m : Module) (f : Rst → Rst) : (m.setRst f).comp = m.comp := rfl
@[simp] theorem Module.setRst_seq (m : Module) (f : Rst → Rst) : (m.setRst f).seq = m.seq := rfl
@[simp] theorem Module.setRst_ctrlQ (m : Module) (f : Rst → Rst) : (m.setRst f).ctrlQ = m.ctrlQ := rfl
@[simp] theorem Module.setRst_coll (m : Module) (f : Rst → Rst) : (m.setRst f).coll = m.coll := rfl
@[simp] theorem Module.setRst_twin (m : Module) (f : Rst → Rst) : (m.setRst f).twin = m.twin := rfl
@[simp] theorem Module.setRst_pwr (m : Module) (f : Rst → Rst) : (m.setRst f).pwr = m.pwr := rfl
@[simp] theorem Module.setRst_nvj (m : Module) (f : Rst → Rst) : (m.setRst f).nvj = m.nvj := rfl
@[simp] theorem Module.setRst_mgmt (m : Module) (f : Rst → Rst) : (m.setRst f).mgmt = m.mgmt := rfl
@[simp] theorem Module.setRst_links (m : Module) (f : Rst → Rst) : (m.setRst f).links = m.links := rfl
@[simp] theorem Module.setRst_inbox (m : Module) (f : Rst → Rst) : (m.setRst f).inbox = m.inbox := rfl
@[simp] theorem Module.setRst_rxData (m : Module) (f : Rst → Rst) : (m.setRst f).rxData = m.rxData := rfl
@[simp] theorem Module.setRst_seams (m : Module) (f : Rst → Rst) : (m.setRst f).seams = m.seams := rfl
@[simp] theorem Module.setRst_pcie (m : Module) (f : Rst → Rst) : (m.setRst f).pcie = m.pcie := rfl
@[simp] theorem Module.setRst_sec (m : Module) (f : Rst → Rst) : (m.setRst f).sec = m.sec := rfl
@[simp] theorem Module.setRst_rst (m : Module) (f : Rst → Rst) : (m.setRst f).rst = f m.rst := rfl
@[simp] theorem Module.setRst_pins (m : Module) (f : Rst → Rst) : (m.setRst f).pins = m.pins := rfl
@[simp] theorem Module.setRst_fuse (m : Module) (f : Rst → Rst) : (m.setRst f).fuse = m.fuse := rfl

/-! `setPins` -/

@[simp] theorem Module.setPins_regs (m : Module) (f : Pins → Pins) : (m.setPins f).regs = m.regs := rfl
@[simp] theorem Module.setPins_latch (m : Module) (f : Pins → Pins) : (m.setPins f).latch = m.latch := rfl
@[simp] theorem Module.setPins_stwLeft (m : Module) (f : Pins → Pins) : (m.setPins f).stwLeft = m.stwLeft := rfl
@[simp] theorem Module.setPins_lowHold (m : Module) (f : Pins → Pins) : (m.setPins f).lowHold = m.lowHold := rfl
@[simp] theorem Module.setPins_hostMem (m : Module) (f : Pins → Pins) : (m.setPins f).hostMem = m.hostMem := rfl
@[simp] theorem Module.setPins_twinMem (m : Module) (f : Pins → Pins) : (m.setPins f).twinMem = m.twinMem := rfl
@[simp] theorem Module.setPins_free (m : Module) (f : Pins → Pins) : (m.setPins f).free = m.free := rfl
@[simp] theorem Module.setPins_out (m : Module) (f : Pins → Pins) : (m.setPins f).out = m.out := rfl
@[simp] theorem Module.setPins_unmasked (m : Module) (f : Pins → Pins) : (m.setPins f).unmasked = m.unmasked := rfl
@[simp] theorem Module.setPins_msixPend (m : Module) (f : Pins → Pins) : (m.setPins f).msixPend = m.msixPend := rfl
@[simp] theorem Module.setPins_uidNext (m : Module) (f : Pins → Pins) : (m.setPins f).uidNext = m.uidNext := rfl
@[simp] theorem Module.setPins_tick (m : Module) (f : Pins → Pins) : (m.setPins f).tick = m.tick := rfl
@[simp] theorem Module.setPins_lists (m : Module) (f : Pins → Pins) : (m.setPins f).lists = m.lists := rfl
@[simp] theorem Module.setPins_nextLists (m : Module) (f : Pins → Pins) : (m.setPins f).nextLists = m.nextLists := rfl
@[simp] theorem Module.setPins_agreeQ (m : Module) (f : Pins → Pins) : (m.setPins f).agreeQ = m.agreeQ := rfl
@[simp] theorem Module.setPins_retries (m : Module) (f : Pins → Pins) : (m.setPins f).retries = m.retries := rfl
@[simp] theorem Module.setPins_cores (m : Module) (f : Pins → Pins) : (m.setPins f).cores = m.cores := rfl
@[simp] theorem Module.setPins_stw (m : Module) (f : Pins → Pins) : (m.setPins f).stw = m.stw := rfl
@[simp] theorem Module.setPins_obj (m : Module) (f : Pins → Pins) : (m.setPins f).obj = m.obj := rfl
@[simp] theorem Module.setPins_xlat (m : Module) (f : Pins → Pins) : (m.setPins f).xlat = m.xlat := rfl
@[simp] theorem Module.setPins_mem (m : Module) (f : Pins → Pins) : (m.setPins f).mem = m.mem := rfl
@[simp] theorem Module.setPins_ras (m : Module) (f : Pins → Pins) : (m.setPins f).ras = m.ras := rfl
@[simp] theorem Module.setPins_comp (m : Module) (f : Pins → Pins) : (m.setPins f).comp = m.comp := rfl
@[simp] theorem Module.setPins_seq (m : Module) (f : Pins → Pins) : (m.setPins f).seq = m.seq := rfl
@[simp] theorem Module.setPins_ctrlQ (m : Module) (f : Pins → Pins) : (m.setPins f).ctrlQ = m.ctrlQ := rfl
@[simp] theorem Module.setPins_coll (m : Module) (f : Pins → Pins) : (m.setPins f).coll = m.coll := rfl
@[simp] theorem Module.setPins_twin (m : Module) (f : Pins → Pins) : (m.setPins f).twin = m.twin := rfl
@[simp] theorem Module.setPins_pwr (m : Module) (f : Pins → Pins) : (m.setPins f).pwr = m.pwr := rfl
@[simp] theorem Module.setPins_nvj (m : Module) (f : Pins → Pins) : (m.setPins f).nvj = m.nvj := rfl
@[simp] theorem Module.setPins_mgmt (m : Module) (f : Pins → Pins) : (m.setPins f).mgmt = m.mgmt := rfl
@[simp] theorem Module.setPins_links (m : Module) (f : Pins → Pins) : (m.setPins f).links = m.links := rfl
@[simp] theorem Module.setPins_inbox (m : Module) (f : Pins → Pins) : (m.setPins f).inbox = m.inbox := rfl
@[simp] theorem Module.setPins_rxData (m : Module) (f : Pins → Pins) : (m.setPins f).rxData = m.rxData := rfl
@[simp] theorem Module.setPins_seams (m : Module) (f : Pins → Pins) : (m.setPins f).seams = m.seams := rfl
@[simp] theorem Module.setPins_pcie (m : Module) (f : Pins → Pins) : (m.setPins f).pcie = m.pcie := rfl
@[simp] theorem Module.setPins_sec (m : Module) (f : Pins → Pins) : (m.setPins f).sec = m.sec := rfl
@[simp] theorem Module.setPins_rst (m : Module) (f : Pins → Pins) : (m.setPins f).rst = m.rst := rfl
@[simp] theorem Module.setPins_pins (m : Module) (f : Pins → Pins) : (m.setPins f).pins = f m.pins := rfl
@[simp] theorem Module.setPins_fuse (m : Module) (f : Pins → Pins) : (m.setPins f).fuse = m.fuse := rfl

/-! `setCore` -/

@[simp] theorem Module.setCore_regs (m : Module) (c : Nat) (k : Core) : (m.setCore c k).regs = m.regs := rfl
@[simp] theorem Module.setCore_latch (m : Module) (c : Nat) (k : Core) : (m.setCore c k).latch = m.latch := rfl
@[simp] theorem Module.setCore_stwLeft (m : Module) (c : Nat) (k : Core) : (m.setCore c k).stwLeft = m.stwLeft := rfl
@[simp] theorem Module.setCore_lowHold (m : Module) (c : Nat) (k : Core) : (m.setCore c k).lowHold = m.lowHold := rfl
@[simp] theorem Module.setCore_hostMem (m : Module) (c : Nat) (k : Core) : (m.setCore c k).hostMem = m.hostMem := rfl
@[simp] theorem Module.setCore_twinMem (m : Module) (c : Nat) (k : Core) : (m.setCore c k).twinMem = m.twinMem := rfl
@[simp] theorem Module.setCore_free (m : Module) (c : Nat) (k : Core) : (m.setCore c k).free = m.free := rfl
@[simp] theorem Module.setCore_out (m : Module) (c : Nat) (k : Core) : (m.setCore c k).out = m.out := rfl
@[simp] theorem Module.setCore_unmasked (m : Module) (c : Nat) (k : Core) : (m.setCore c k).unmasked = m.unmasked := rfl
@[simp] theorem Module.setCore_msixPend (m : Module) (c : Nat) (k : Core) : (m.setCore c k).msixPend = m.msixPend := rfl
@[simp] theorem Module.setCore_uidNext (m : Module) (c : Nat) (k : Core) : (m.setCore c k).uidNext = m.uidNext := rfl
@[simp] theorem Module.setCore_tick (m : Module) (c : Nat) (k : Core) : (m.setCore c k).tick = m.tick := rfl
@[simp] theorem Module.setCore_lists (m : Module) (c : Nat) (k : Core) : (m.setCore c k).lists = m.lists := rfl
@[simp] theorem Module.setCore_nextLists (m : Module) (c : Nat) (k : Core) : (m.setCore c k).nextLists = m.nextLists := rfl
@[simp] theorem Module.setCore_agreeQ (m : Module) (c : Nat) (k : Core) : (m.setCore c k).agreeQ = m.agreeQ := rfl
@[simp] theorem Module.setCore_retries (m : Module) (c : Nat) (k : Core) : (m.setCore c k).retries = m.retries := rfl
@[simp] theorem Module.setCore_cores (m : Module) (c : Nat) (k : Core) : (m.setCore c k).cores = m.cores.put c k := rfl
@[simp] theorem Module.setCore_stw (m : Module) (c : Nat) (k : Core) : (m.setCore c k).stw = m.stw := rfl
@[simp] theorem Module.setCore_obj (m : Module) (c : Nat) (k : Core) : (m.setCore c k).obj = m.obj := rfl
@[simp] theorem Module.setCore_xlat (m : Module) (c : Nat) (k : Core) : (m.setCore c k).xlat = m.xlat := rfl
@[simp] theorem Module.setCore_mem (m : Module) (c : Nat) (k : Core) : (m.setCore c k).mem = m.mem := rfl
@[simp] theorem Module.setCore_ras (m : Module) (c : Nat) (k : Core) : (m.setCore c k).ras = m.ras := rfl
@[simp] theorem Module.setCore_comp (m : Module) (c : Nat) (k : Core) : (m.setCore c k).comp = m.comp := rfl
@[simp] theorem Module.setCore_seq (m : Module) (c : Nat) (k : Core) : (m.setCore c k).seq = m.seq := rfl
@[simp] theorem Module.setCore_ctrlQ (m : Module) (c : Nat) (k : Core) : (m.setCore c k).ctrlQ = m.ctrlQ := rfl
@[simp] theorem Module.setCore_coll (m : Module) (c : Nat) (k : Core) : (m.setCore c k).coll = m.coll := rfl
@[simp] theorem Module.setCore_twin (m : Module) (c : Nat) (k : Core) : (m.setCore c k).twin = m.twin := rfl
@[simp] theorem Module.setCore_pwr (m : Module) (c : Nat) (k : Core) : (m.setCore c k).pwr = m.pwr := rfl
@[simp] theorem Module.setCore_nvj (m : Module) (c : Nat) (k : Core) : (m.setCore c k).nvj = m.nvj := rfl
@[simp] theorem Module.setCore_mgmt (m : Module) (c : Nat) (k : Core) : (m.setCore c k).mgmt = m.mgmt := rfl
@[simp] theorem Module.setCore_links (m : Module) (c : Nat) (k : Core) : (m.setCore c k).links = m.links := rfl
@[simp] theorem Module.setCore_inbox (m : Module) (c : Nat) (k : Core) : (m.setCore c k).inbox = m.inbox := rfl
@[simp] theorem Module.setCore_rxData (m : Module) (c : Nat) (k : Core) : (m.setCore c k).rxData = m.rxData := rfl
@[simp] theorem Module.setCore_seams (m : Module) (c : Nat) (k : Core) : (m.setCore c k).seams = m.seams := rfl
@[simp] theorem Module.setCore_pcie (m : Module) (c : Nat) (k : Core) : (m.setCore c k).pcie = m.pcie := rfl
@[simp] theorem Module.setCore_sec (m : Module) (c : Nat) (k : Core) : (m.setCore c k).sec = m.sec := rfl
@[simp] theorem Module.setCore_rst (m : Module) (c : Nat) (k : Core) : (m.setCore c k).rst = m.rst := rfl
@[simp] theorem Module.setCore_pins (m : Module) (c : Nat) (k : Core) : (m.setCore c k).pins = m.pins := rfl
@[simp] theorem Module.setCore_fuse (m : Module) (c : Nat) (k : Core) : (m.setCore c k).fuse = m.fuse := rfl

/-! `setColl` -/

@[simp] theorem Module.setColl_regs (m : Module) (k : Nat) (c : Coll) : (m.setColl k c).regs = m.regs := rfl
@[simp] theorem Module.setColl_latch (m : Module) (k : Nat) (c : Coll) : (m.setColl k c).latch = m.latch := rfl
@[simp] theorem Module.setColl_stwLeft (m : Module) (k : Nat) (c : Coll) : (m.setColl k c).stwLeft = m.stwLeft := rfl
@[simp] theorem Module.setColl_lowHold (m : Module) (k : Nat) (c : Coll) : (m.setColl k c).lowHold = m.lowHold := rfl
@[simp] theorem Module.setColl_hostMem (m : Module) (k : Nat) (c : Coll) : (m.setColl k c).hostMem = m.hostMem := rfl
@[simp] theorem Module.setColl_twinMem (m : Module) (k : Nat) (c : Coll) : (m.setColl k c).twinMem = m.twinMem := rfl
@[simp] theorem Module.setColl_free (m : Module) (k : Nat) (c : Coll) : (m.setColl k c).free = m.free := rfl
@[simp] theorem Module.setColl_out (m : Module) (k : Nat) (c : Coll) : (m.setColl k c).out = m.out := rfl
@[simp] theorem Module.setColl_unmasked (m : Module) (k : Nat) (c : Coll) : (m.setColl k c).unmasked = m.unmasked := rfl
@[simp] theorem Module.setColl_msixPend (m : Module) (k : Nat) (c : Coll) : (m.setColl k c).msixPend = m.msixPend := rfl
@[simp] theorem Module.setColl_uidNext (m : Module) (k : Nat) (c : Coll) : (m.setColl k c).uidNext = m.uidNext := rfl
@[simp] theorem Module.setColl_tick (m : Module) (k : Nat) (c : Coll) : (m.setColl k c).tick = m.tick := rfl
@[simp] theorem Module.setColl_lists (m : Module) (k : Nat) (c : Coll) : (m.setColl k c).lists = m.lists := rfl
@[simp] theorem Module.setColl_nextLists (m : Module) (k : Nat) (c : Coll) : (m.setColl k c).nextLists = m.nextLists := rfl
@[simp] theorem Module.setColl_agreeQ (m : Module) (k : Nat) (c : Coll) : (m.setColl k c).agreeQ = m.agreeQ := rfl
@[simp] theorem Module.setColl_retries (m : Module) (k : Nat) (c : Coll) : (m.setColl k c).retries = m.retries := rfl
@[simp] theorem Module.setColl_cores (m : Module) (k : Nat) (c : Coll) : (m.setColl k c).cores = m.cores := rfl
@[simp] theorem Module.setColl_stw (m : Module) (k : Nat) (c : Coll) : (m.setColl k c).stw = m.stw := rfl
@[simp] theorem Module.setColl_obj (m : Module) (k : Nat) (c : Coll) : (m.setColl k c).obj = m.obj := rfl
@[simp] theorem Module.setColl_xlat (m : Module) (k : Nat) (c : Coll) : (m.setColl k c).xlat = m.xlat := rfl
@[simp] theorem Module.setColl_mem (m : Module) (k : Nat) (c : Coll) : (m.setColl k c).mem = m.mem := rfl
@[simp] theorem Module.setColl_ras (m : Module) (k : Nat) (c : Coll) : (m.setColl k c).ras = m.ras := rfl
@[simp] theorem Module.setColl_comp (m : Module) (k : Nat) (c : Coll) : (m.setColl k c).comp = m.comp := rfl
@[simp] theorem Module.setColl_seq (m : Module) (k : Nat) (c : Coll) : (m.setColl k c).seq = m.seq := rfl
@[simp] theorem Module.setColl_ctrlQ (m : Module) (k : Nat) (c : Coll) : (m.setColl k c).ctrlQ = m.ctrlQ := rfl
@[simp] theorem Module.setColl_coll (m : Module) (k : Nat) (c : Coll) : (m.setColl k c).coll = m.coll.put k c := rfl
@[simp] theorem Module.setColl_twin (m : Module) (k : Nat) (c : Coll) : (m.setColl k c).twin = m.twin := rfl
@[simp] theorem Module.setColl_pwr (m : Module) (k : Nat) (c : Coll) : (m.setColl k c).pwr = m.pwr := rfl
@[simp] theorem Module.setColl_nvj (m : Module) (k : Nat) (c : Coll) : (m.setColl k c).nvj = m.nvj := rfl
@[simp] theorem Module.setColl_mgmt (m : Module) (k : Nat) (c : Coll) : (m.setColl k c).mgmt = m.mgmt := rfl
@[simp] theorem Module.setColl_links (m : Module) (k : Nat) (c : Coll) : (m.setColl k c).links = m.links := rfl
@[simp] theorem Module.setColl_inbox (m : Module) (k : Nat) (c : Coll) : (m.setColl k c).inbox = m.inbox := rfl
@[simp] theorem Module.setColl_rxData (m : Module) (k : Nat) (c : Coll) : (m.setColl k c).rxData = m.rxData := rfl
@[simp] theorem Module.setColl_seams (m : Module) (k : Nat) (c : Coll) : (m.setColl k c).seams = m.seams := rfl
@[simp] theorem Module.setColl_pcie (m : Module) (k : Nat) (c : Coll) : (m.setColl k c).pcie = m.pcie := rfl
@[simp] theorem Module.setColl_sec (m : Module) (k : Nat) (c : Coll) : (m.setColl k c).sec = m.sec := rfl
@[simp] theorem Module.setColl_rst (m : Module) (k : Nat) (c : Coll) : (m.setColl k c).rst = m.rst := rfl
@[simp] theorem Module.setColl_pins (m : Module) (k : Nat) (c : Coll) : (m.setColl k c).pins = m.pins := rfl
@[simp] theorem Module.setColl_fuse (m : Module) (k : Nat) (c : Coll) : (m.setColl k c).fuse = m.fuse := rfl

/-! `emit` -/

@[simp] theorem Module.emit_regs (m : Module) (o : Out) : (m.emit o).regs = m.regs := rfl
@[simp] theorem Module.emit_latch (m : Module) (o : Out) : (m.emit o).latch = m.latch := rfl
@[simp] theorem Module.emit_stwLeft (m : Module) (o : Out) : (m.emit o).stwLeft = m.stwLeft := rfl
@[simp] theorem Module.emit_lowHold (m : Module) (o : Out) : (m.emit o).lowHold = m.lowHold := rfl
@[simp] theorem Module.emit_hostMem (m : Module) (o : Out) : (m.emit o).hostMem = m.hostMem := rfl
@[simp] theorem Module.emit_twinMem (m : Module) (o : Out) : (m.emit o).twinMem = m.twinMem := rfl
@[simp] theorem Module.emit_free (m : Module) (o : Out) : (m.emit o).free = m.free := rfl
@[simp] theorem Module.emit_out (m : Module) (o : Out) : (m.emit o).out = m.out ++ [o] := rfl
@[simp] theorem Module.emit_unmasked (m : Module) (o : Out) : (m.emit o).unmasked = m.unmasked := rfl
@[simp] theorem Module.emit_msixPend (m : Module) (o : Out) : (m.emit o).msixPend = m.msixPend := rfl
@[simp] theorem Module.emit_uidNext (m : Module) (o : Out) : (m.emit o).uidNext = m.uidNext := rfl
@[simp] theorem Module.emit_tick (m : Module) (o : Out) : (m.emit o).tick = m.tick := rfl
@[simp] theorem Module.emit_lists (m : Module) (o : Out) : (m.emit o).lists = m.lists := rfl
@[simp] theorem Module.emit_nextLists (m : Module) (o : Out) : (m.emit o).nextLists = m.nextLists := rfl
@[simp] theorem Module.emit_agreeQ (m : Module) (o : Out) : (m.emit o).agreeQ = m.agreeQ := rfl
@[simp] theorem Module.emit_retries (m : Module) (o : Out) : (m.emit o).retries = m.retries := rfl
@[simp] theorem Module.emit_cores (m : Module) (o : Out) : (m.emit o).cores = m.cores := rfl
@[simp] theorem Module.emit_stw (m : Module) (o : Out) : (m.emit o).stw = m.stw := rfl
@[simp] theorem Module.emit_obj (m : Module) (o : Out) : (m.emit o).obj = m.obj := rfl
@[simp] theorem Module.emit_xlat (m : Module) (o : Out) : (m.emit o).xlat = m.xlat := rfl
@[simp] theorem Module.emit_mem (m : Module) (o : Out) : (m.emit o).mem = m.mem := rfl
@[simp] theorem Module.emit_ras (m : Module) (o : Out) : (m.emit o).ras = m.ras := rfl
@[simp] theorem Module.emit_comp (m : Module) (o : Out) : (m.emit o).comp = m.comp := rfl
@[simp] theorem Module.emit_seq (m : Module) (o : Out) : (m.emit o).seq = m.seq := rfl
@[simp] theorem Module.emit_ctrlQ (m : Module) (o : Out) : (m.emit o).ctrlQ = m.ctrlQ := rfl
@[simp] theorem Module.emit_coll (m : Module) (o : Out) : (m.emit o).coll = m.coll := rfl
@[simp] theorem Module.emit_twin (m : Module) (o : Out) : (m.emit o).twin = m.twin := rfl
@[simp] theorem Module.emit_pwr (m : Module) (o : Out) : (m.emit o).pwr = m.pwr := rfl
@[simp] theorem Module.emit_nvj (m : Module) (o : Out) : (m.emit o).nvj = m.nvj := rfl
@[simp] theorem Module.emit_mgmt (m : Module) (o : Out) : (m.emit o).mgmt = m.mgmt := rfl
@[simp] theorem Module.emit_links (m : Module) (o : Out) : (m.emit o).links = m.links := rfl
@[simp] theorem Module.emit_inbox (m : Module) (o : Out) : (m.emit o).inbox = m.inbox := rfl
@[simp] theorem Module.emit_rxData (m : Module) (o : Out) : (m.emit o).rxData = m.rxData := rfl
@[simp] theorem Module.emit_seams (m : Module) (o : Out) : (m.emit o).seams = m.seams := rfl
@[simp] theorem Module.emit_pcie (m : Module) (o : Out) : (m.emit o).pcie = m.pcie := rfl
@[simp] theorem Module.emit_sec (m : Module) (o : Out) : (m.emit o).sec = m.sec := rfl
@[simp] theorem Module.emit_rst (m : Module) (o : Out) : (m.emit o).rst = m.rst := rfl
@[simp] theorem Module.emit_pins (m : Module) (o : Out) : (m.emit o).pins = m.pins := rfl
@[simp] theorem Module.emit_fuse (m : Module) (o : Out) : (m.emit o).fuse = m.fuse := rfl

/-! `setReg` -/

@[simp] theorem Module.setReg_regs (m : Module) (off v : Nat) : (m.setReg off v).regs = SMap.set regReset m.regs off (BitVec.ofNat 32 v) := rfl
@[simp] theorem Module.setReg_latch (m : Module) (off v : Nat) : (m.setReg off v).latch = m.latch := rfl
@[simp] theorem Module.setReg_stwLeft (m : Module) (off v : Nat) : (m.setReg off v).stwLeft = m.stwLeft := rfl
@[simp] theorem Module.setReg_lowHold (m : Module) (off v : Nat) : (m.setReg off v).lowHold = m.lowHold := rfl
@[simp] theorem Module.setReg_hostMem (m : Module) (off v : Nat) : (m.setReg off v).hostMem = m.hostMem := rfl
@[simp] theorem Module.setReg_twinMem (m : Module) (off v : Nat) : (m.setReg off v).twinMem = m.twinMem := rfl
@[simp] theorem Module.setReg_free (m : Module) (off v : Nat) : (m.setReg off v).free = m.free := rfl
@[simp] theorem Module.setReg_out (m : Module) (off v : Nat) : (m.setReg off v).out = m.out := rfl
@[simp] theorem Module.setReg_unmasked (m : Module) (off v : Nat) : (m.setReg off v).unmasked = m.unmasked := rfl
@[simp] theorem Module.setReg_msixPend (m : Module) (off v : Nat) : (m.setReg off v).msixPend = m.msixPend := rfl
@[simp] theorem Module.setReg_uidNext (m : Module) (off v : Nat) : (m.setReg off v).uidNext = m.uidNext := rfl
@[simp] theorem Module.setReg_tick (m : Module) (off v : Nat) : (m.setReg off v).tick = m.tick := rfl
@[simp] theorem Module.setReg_lists (m : Module) (off v : Nat) : (m.setReg off v).lists = m.lists := rfl
@[simp] theorem Module.setReg_nextLists (m : Module) (off v : Nat) : (m.setReg off v).nextLists = m.nextLists := rfl
@[simp] theorem Module.setReg_agreeQ (m : Module) (off v : Nat) : (m.setReg off v).agreeQ = m.agreeQ := rfl
@[simp] theorem Module.setReg_retries (m : Module) (off v : Nat) : (m.setReg off v).retries = m.retries := rfl
@[simp] theorem Module.setReg_cores (m : Module) (off v : Nat) : (m.setReg off v).cores = m.cores := rfl
@[simp] theorem Module.setReg_stw (m : Module) (off v : Nat) : (m.setReg off v).stw = m.stw := rfl
@[simp] theorem Module.setReg_obj (m : Module) (off v : Nat) : (m.setReg off v).obj = m.obj := rfl
@[simp] theorem Module.setReg_xlat (m : Module) (off v : Nat) : (m.setReg off v).xlat = m.xlat := rfl
@[simp] theorem Module.setReg_mem (m : Module) (off v : Nat) : (m.setReg off v).mem = m.mem := rfl
@[simp] theorem Module.setReg_ras (m : Module) (off v : Nat) : (m.setReg off v).ras = m.ras := rfl
@[simp] theorem Module.setReg_comp (m : Module) (off v : Nat) : (m.setReg off v).comp = m.comp := rfl
@[simp] theorem Module.setReg_seq (m : Module) (off v : Nat) : (m.setReg off v).seq = m.seq := rfl
@[simp] theorem Module.setReg_ctrlQ (m : Module) (off v : Nat) : (m.setReg off v).ctrlQ = m.ctrlQ := rfl
@[simp] theorem Module.setReg_coll (m : Module) (off v : Nat) : (m.setReg off v).coll = m.coll := rfl
@[simp] theorem Module.setReg_twin (m : Module) (off v : Nat) : (m.setReg off v).twin = m.twin := rfl
@[simp] theorem Module.setReg_pwr (m : Module) (off v : Nat) : (m.setReg off v).pwr = m.pwr := rfl
@[simp] theorem Module.setReg_nvj (m : Module) (off v : Nat) : (m.setReg off v).nvj = m.nvj := rfl
@[simp] theorem Module.setReg_mgmt (m : Module) (off v : Nat) : (m.setReg off v).mgmt = m.mgmt := rfl
@[simp] theorem Module.setReg_links (m : Module) (off v : Nat) : (m.setReg off v).links = m.links := rfl
@[simp] theorem Module.setReg_inbox (m : Module) (off v : Nat) : (m.setReg off v).inbox = m.inbox := rfl
@[simp] theorem Module.setReg_rxData (m : Module) (off v : Nat) : (m.setReg off v).rxData = m.rxData := rfl
@[simp] theorem Module.setReg_seams (m : Module) (off v : Nat) : (m.setReg off v).seams = m.seams := rfl
@[simp] theorem Module.setReg_pcie (m : Module) (off v : Nat) : (m.setReg off v).pcie = m.pcie := rfl
@[simp] theorem Module.setReg_sec (m : Module) (off v : Nat) : (m.setReg off v).sec = m.sec := rfl
@[simp] theorem Module.setReg_rst (m : Module) (off v : Nat) : (m.setReg off v).rst = m.rst := rfl
@[simp] theorem Module.setReg_pins (m : Module) (off v : Nat) : (m.setReg off v).pins = m.pins := rfl
@[simp] theorem Module.setReg_fuse (m : Module) (off v : Nat) : (m.setReg off v).fuse = m.fuse := rfl

/-! `setFld` -/

@[simp] theorem Module.setFld_latch (m : Module) (g : Fld) (v : Nat) : (m.setFld g v).latch = m.latch := rfl
@[simp] theorem Module.setFld_stwLeft (m : Module) (g : Fld) (v : Nat) : (m.setFld g v).stwLeft = m.stwLeft := rfl
@[simp] theorem Module.setFld_lowHold (m : Module) (g : Fld) (v : Nat) : (m.setFld g v).lowHold = m.lowHold := rfl
@[simp] theorem Module.setFld_hostMem (m : Module) (g : Fld) (v : Nat) : (m.setFld g v).hostMem = m.hostMem := rfl
@[simp] theorem Module.setFld_twinMem (m : Module) (g : Fld) (v : Nat) : (m.setFld g v).twinMem = m.twinMem := rfl
@[simp] theorem Module.setFld_free (m : Module) (g : Fld) (v : Nat) : (m.setFld g v).free = m.free := rfl
@[simp] theorem Module.setFld_out (m : Module) (g : Fld) (v : Nat) : (m.setFld g v).out = m.out := rfl
@[simp] theorem Module.setFld_unmasked (m : Module) (g : Fld) (v : Nat) : (m.setFld g v).unmasked = m.unmasked := rfl
@[simp] theorem Module.setFld_msixPend (m : Module) (g : Fld) (v : Nat) : (m.setFld g v).msixPend = m.msixPend := rfl
@[simp] theorem Module.setFld_uidNext (m : Module) (g : Fld) (v : Nat) : (m.setFld g v).uidNext = m.uidNext := rfl
@[simp] theorem Module.setFld_tick (m : Module) (g : Fld) (v : Nat) : (m.setFld g v).tick = m.tick := rfl
@[simp] theorem Module.setFld_lists (m : Module) (g : Fld) (v : Nat) : (m.setFld g v).lists = m.lists := rfl
@[simp] theorem Module.setFld_nextLists (m : Module) (g : Fld) (v : Nat) : (m.setFld g v).nextLists = m.nextLists := rfl
@[simp] theorem Module.setFld_agreeQ (m : Module) (g : Fld) (v : Nat) : (m.setFld g v).agreeQ = m.agreeQ := rfl
@[simp] theorem Module.setFld_retries (m : Module) (g : Fld) (v : Nat) : (m.setFld g v).retries = m.retries := rfl
@[simp] theorem Module.setFld_cores (m : Module) (g : Fld) (v : Nat) : (m.setFld g v).cores = m.cores := rfl
@[simp] theorem Module.setFld_stw (m : Module) (g : Fld) (v : Nat) : (m.setFld g v).stw = m.stw := rfl
@[simp] theorem Module.setFld_obj (m : Module) (g : Fld) (v : Nat) : (m.setFld g v).obj = m.obj := rfl
@[simp] theorem Module.setFld_xlat (m : Module) (g : Fld) (v : Nat) : (m.setFld g v).xlat = m.xlat := rfl
@[simp] theorem Module.setFld_mem (m : Module) (g : Fld) (v : Nat) : (m.setFld g v).mem = m.mem := rfl
@[simp] theorem Module.setFld_ras (m : Module) (g : Fld) (v : Nat) : (m.setFld g v).ras = m.ras := rfl
@[simp] theorem Module.setFld_comp (m : Module) (g : Fld) (v : Nat) : (m.setFld g v).comp = m.comp := rfl
@[simp] theorem Module.setFld_seq (m : Module) (g : Fld) (v : Nat) : (m.setFld g v).seq = m.seq := rfl
@[simp] theorem Module.setFld_ctrlQ (m : Module) (g : Fld) (v : Nat) : (m.setFld g v).ctrlQ = m.ctrlQ := rfl
@[simp] theorem Module.setFld_coll (m : Module) (g : Fld) (v : Nat) : (m.setFld g v).coll = m.coll := rfl
@[simp] theorem Module.setFld_twin (m : Module) (g : Fld) (v : Nat) : (m.setFld g v).twin = m.twin := rfl
@[simp] theorem Module.setFld_pwr (m : Module) (g : Fld) (v : Nat) : (m.setFld g v).pwr = m.pwr := rfl
@[simp] theorem Module.setFld_nvj (m : Module) (g : Fld) (v : Nat) : (m.setFld g v).nvj = m.nvj := rfl
@[simp] theorem Module.setFld_mgmt (m : Module) (g : Fld) (v : Nat) : (m.setFld g v).mgmt = m.mgmt := rfl
@[simp] theorem Module.setFld_links (m : Module) (g : Fld) (v : Nat) : (m.setFld g v).links = m.links := rfl
@[simp] theorem Module.setFld_inbox (m : Module) (g : Fld) (v : Nat) : (m.setFld g v).inbox = m.inbox := rfl
@[simp] theorem Module.setFld_rxData (m : Module) (g : Fld) (v : Nat) : (m.setFld g v).rxData = m.rxData := rfl
@[simp] theorem Module.setFld_seams (m : Module) (g : Fld) (v : Nat) : (m.setFld g v).seams = m.seams := rfl
@[simp] theorem Module.setFld_pcie (m : Module) (g : Fld) (v : Nat) : (m.setFld g v).pcie = m.pcie := rfl
@[simp] theorem Module.setFld_sec (m : Module) (g : Fld) (v : Nat) : (m.setFld g v).sec = m.sec := rfl
@[simp] theorem Module.setFld_rst (m : Module) (g : Fld) (v : Nat) : (m.setFld g v).rst = m.rst := rfl
@[simp] theorem Module.setFld_pins (m : Module) (g : Fld) (v : Nat) : (m.setFld g v).pins = m.pins := rfl
@[simp] theorem Module.setFld_fuse (m : Module) (g : Fld) (v : Nat) : (m.setFld g v).fuse = m.fuse := rfl

/-! `count` -/

@[simp] theorem Module.count_latch (m : Module) (g : Fld) (n : Nat) : (m.count g n).latch = m.latch := rfl
@[simp] theorem Module.count_stwLeft (m : Module) (g : Fld) (n : Nat) : (m.count g n).stwLeft = m.stwLeft := rfl
@[simp] theorem Module.count_lowHold (m : Module) (g : Fld) (n : Nat) : (m.count g n).lowHold = m.lowHold := rfl
@[simp] theorem Module.count_hostMem (m : Module) (g : Fld) (n : Nat) : (m.count g n).hostMem = m.hostMem := rfl
@[simp] theorem Module.count_twinMem (m : Module) (g : Fld) (n : Nat) : (m.count g n).twinMem = m.twinMem := rfl
@[simp] theorem Module.count_free (m : Module) (g : Fld) (n : Nat) : (m.count g n).free = m.free := rfl
@[simp] theorem Module.count_out (m : Module) (g : Fld) (n : Nat) : (m.count g n).out = m.out := rfl
@[simp] theorem Module.count_unmasked (m : Module) (g : Fld) (n : Nat) : (m.count g n).unmasked = m.unmasked := rfl
@[simp] theorem Module.count_msixPend (m : Module) (g : Fld) (n : Nat) : (m.count g n).msixPend = m.msixPend := rfl
@[simp] theorem Module.count_uidNext (m : Module) (g : Fld) (n : Nat) : (m.count g n).uidNext = m.uidNext := rfl
@[simp] theorem Module.count_tick (m : Module) (g : Fld) (n : Nat) : (m.count g n).tick = m.tick := rfl
@[simp] theorem Module.count_lists (m : Module) (g : Fld) (n : Nat) : (m.count g n).lists = m.lists := rfl
@[simp] theorem Module.count_nextLists (m : Module) (g : Fld) (n : Nat) : (m.count g n).nextLists = m.nextLists := rfl
@[simp] theorem Module.count_agreeQ (m : Module) (g : Fld) (n : Nat) : (m.count g n).agreeQ = m.agreeQ := rfl
@[simp] theorem Module.count_retries (m : Module) (g : Fld) (n : Nat) : (m.count g n).retries = m.retries := rfl
@[simp] theorem Module.count_cores (m : Module) (g : Fld) (n : Nat) : (m.count g n).cores = m.cores := rfl
@[simp] theorem Module.count_stw (m : Module) (g : Fld) (n : Nat) : (m.count g n).stw = m.stw := rfl
@[simp] theorem Module.count_obj (m : Module) (g : Fld) (n : Nat) : (m.count g n).obj = m.obj := rfl
@[simp] theorem Module.count_xlat (m : Module) (g : Fld) (n : Nat) : (m.count g n).xlat = m.xlat := rfl
@[simp] theorem Module.count_mem (m : Module) (g : Fld) (n : Nat) : (m.count g n).mem = m.mem := rfl
@[simp] theorem Module.count_ras (m : Module) (g : Fld) (n : Nat) : (m.count g n).ras = m.ras := rfl
@[simp] theorem Module.count_comp (m : Module) (g : Fld) (n : Nat) : (m.count g n).comp = m.comp := rfl
@[simp] theorem Module.count_seq (m : Module) (g : Fld) (n : Nat) : (m.count g n).seq = m.seq := rfl
@[simp] theorem Module.count_ctrlQ (m : Module) (g : Fld) (n : Nat) : (m.count g n).ctrlQ = m.ctrlQ := rfl
@[simp] theorem Module.count_coll (m : Module) (g : Fld) (n : Nat) : (m.count g n).coll = m.coll := rfl
@[simp] theorem Module.count_twin (m : Module) (g : Fld) (n : Nat) : (m.count g n).twin = m.twin := rfl
@[simp] theorem Module.count_pwr (m : Module) (g : Fld) (n : Nat) : (m.count g n).pwr = m.pwr := rfl
@[simp] theorem Module.count_nvj (m : Module) (g : Fld) (n : Nat) : (m.count g n).nvj = m.nvj := rfl
@[simp] theorem Module.count_mgmt (m : Module) (g : Fld) (n : Nat) : (m.count g n).mgmt = m.mgmt := rfl
@[simp] theorem Module.count_links (m : Module) (g : Fld) (n : Nat) : (m.count g n).links = m.links := rfl
@[simp] theorem Module.count_inbox (m : Module) (g : Fld) (n : Nat) : (m.count g n).inbox = m.inbox := rfl
@[simp] theorem Module.count_rxData (m : Module) (g : Fld) (n : Nat) : (m.count g n).rxData = m.rxData := rfl
@[simp] theorem Module.count_seams (m : Module) (g : Fld) (n : Nat) : (m.count g n).seams = m.seams := rfl
@[simp] theorem Module.count_pcie (m : Module) (g : Fld) (n : Nat) : (m.count g n).pcie = m.pcie := rfl
@[simp] theorem Module.count_sec (m : Module) (g : Fld) (n : Nat) : (m.count g n).sec = m.sec := rfl
@[simp] theorem Module.count_rst (m : Module) (g : Fld) (n : Nat) : (m.count g n).rst = m.rst := rfl
@[simp] theorem Module.count_pins (m : Module) (g : Fld) (n : Nat) : (m.count g n).pins = m.pins := rfl
@[simp] theorem Module.count_fuse (m : Module) (g : Fld) (n : Nat) : (m.count g n).fuse = m.fuse := rfl

/-! `setSeams` -/

@[simp] theorem Module.setSeams_regs (m : Module) (f : Seams → Seams) : (m.setSeams f).regs = m.regs := rfl
@[simp] theorem Module.setSeams_latch (m : Module) (f : Seams → Seams) : (m.setSeams f).latch = m.latch := rfl
@[simp] theorem Module.setSeams_stwLeft (m : Module) (f : Seams → Seams) : (m.setSeams f).stwLeft = m.stwLeft := rfl
@[simp] theorem Module.setSeams_lowHold (m : Module) (f : Seams → Seams) : (m.setSeams f).lowHold = m.lowHold := rfl
@[simp] theorem Module.setSeams_hostMem (m : Module) (f : Seams → Seams) : (m.setSeams f).hostMem = m.hostMem := rfl
@[simp] theorem Module.setSeams_twinMem (m : Module) (f : Seams → Seams) : (m.setSeams f).twinMem = m.twinMem := rfl
@[simp] theorem Module.setSeams_free (m : Module) (f : Seams → Seams) : (m.setSeams f).free = m.free := rfl
@[simp] theorem Module.setSeams_out (m : Module) (f : Seams → Seams) : (m.setSeams f).out = m.out := rfl
@[simp] theorem Module.setSeams_unmasked (m : Module) (f : Seams → Seams) : (m.setSeams f).unmasked = m.unmasked := rfl
@[simp] theorem Module.setSeams_msixPend (m : Module) (f : Seams → Seams) : (m.setSeams f).msixPend = m.msixPend := rfl
@[simp] theorem Module.setSeams_uidNext (m : Module) (f : Seams → Seams) : (m.setSeams f).uidNext = m.uidNext := rfl
@[simp] theorem Module.setSeams_tick (m : Module) (f : Seams → Seams) : (m.setSeams f).tick = m.tick := rfl
@[simp] theorem Module.setSeams_lists (m : Module) (f : Seams → Seams) : (m.setSeams f).lists = m.lists := rfl
@[simp] theorem Module.setSeams_nextLists (m : Module) (f : Seams → Seams) : (m.setSeams f).nextLists = m.nextLists := rfl
@[simp] theorem Module.setSeams_agreeQ (m : Module) (f : Seams → Seams) : (m.setSeams f).agreeQ = m.agreeQ := rfl
@[simp] theorem Module.setSeams_retries (m : Module) (f : Seams → Seams) : (m.setSeams f).retries = m.retries := rfl
@[simp] theorem Module.setSeams_cores (m : Module) (f : Seams → Seams) : (m.setSeams f).cores = m.cores := rfl
@[simp] theorem Module.setSeams_stw (m : Module) (f : Seams → Seams) : (m.setSeams f).stw = m.stw := rfl
@[simp] theorem Module.setSeams_obj (m : Module) (f : Seams → Seams) : (m.setSeams f).obj = m.obj := rfl
@[simp] theorem Module.setSeams_xlat (m : Module) (f : Seams → Seams) : (m.setSeams f).xlat = m.xlat := rfl
@[simp] theorem Module.setSeams_mem (m : Module) (f : Seams → Seams) : (m.setSeams f).mem = m.mem := rfl
@[simp] theorem Module.setSeams_ras (m : Module) (f : Seams → Seams) : (m.setSeams f).ras = m.ras := rfl
@[simp] theorem Module.setSeams_comp (m : Module) (f : Seams → Seams) : (m.setSeams f).comp = m.comp := rfl
@[simp] theorem Module.setSeams_seq (m : Module) (f : Seams → Seams) : (m.setSeams f).seq = m.seq := rfl
@[simp] theorem Module.setSeams_ctrlQ (m : Module) (f : Seams → Seams) : (m.setSeams f).ctrlQ = m.ctrlQ := rfl
@[simp] theorem Module.setSeams_coll (m : Module) (f : Seams → Seams) : (m.setSeams f).coll = m.coll := rfl
@[simp] theorem Module.setSeams_twin (m : Module) (f : Seams → Seams) : (m.setSeams f).twin = m.twin := rfl
@[simp] theorem Module.setSeams_pwr (m : Module) (f : Seams → Seams) : (m.setSeams f).pwr = m.pwr := rfl
@[simp] theorem Module.setSeams_nvj (m : Module) (f : Seams → Seams) : (m.setSeams f).nvj = m.nvj := rfl
@[simp] theorem Module.setSeams_mgmt (m : Module) (f : Seams → Seams) : (m.setSeams f).mgmt = m.mgmt := rfl
@[simp] theorem Module.setSeams_links (m : Module) (f : Seams → Seams) : (m.setSeams f).links = m.links := rfl
@[simp] theorem Module.setSeams_inbox (m : Module) (f : Seams → Seams) : (m.setSeams f).inbox = m.inbox := rfl
@[simp] theorem Module.setSeams_rxData (m : Module) (f : Seams → Seams) : (m.setSeams f).rxData = m.rxData := rfl
@[simp] theorem Module.setSeams_seams (m : Module) (f : Seams → Seams) : (m.setSeams f).seams = f m.seams := rfl
@[simp] theorem Module.setSeams_pcie (m : Module) (f : Seams → Seams) : (m.setSeams f).pcie = m.pcie := rfl
@[simp] theorem Module.setSeams_sec (m : Module) (f : Seams → Seams) : (m.setSeams f).sec = m.sec := rfl
@[simp] theorem Module.setSeams_rst (m : Module) (f : Seams → Seams) : (m.setSeams f).rst = m.rst := rfl
@[simp] theorem Module.setSeams_pins (m : Module) (f : Seams → Seams) : (m.setSeams f).pins = m.pins := rfl
@[simp] theorem Module.setSeams_fuse (m : Module) (f : Seams → Seams) : (m.setSeams f).fuse = m.fuse := rfl

/-! `modPort` -/

@[simp] theorem Module.modPort_regs (m : Module) (p : Nat) (f : Port → Port) : (m.modPort p f).regs = m.regs := rfl
@[simp] theorem Module.modPort_latch (m : Module) (p : Nat) (f : Port → Port) : (m.modPort p f).latch = m.latch := rfl
@[simp] theorem Module.modPort_stwLeft (m : Module) (p : Nat) (f : Port → Port) : (m.modPort p f).stwLeft = m.stwLeft := rfl
@[simp] theorem Module.modPort_lowHold (m : Module) (p : Nat) (f : Port → Port) : (m.modPort p f).lowHold = m.lowHold := rfl
@[simp] theorem Module.modPort_hostMem (m : Module) (p : Nat) (f : Port → Port) : (m.modPort p f).hostMem = m.hostMem := rfl
@[simp] theorem Module.modPort_twinMem (m : Module) (p : Nat) (f : Port → Port) : (m.modPort p f).twinMem = m.twinMem := rfl
@[simp] theorem Module.modPort_free (m : Module) (p : Nat) (f : Port → Port) : (m.modPort p f).free = m.free := rfl
@[simp] theorem Module.modPort_out (m : Module) (p : Nat) (f : Port → Port) : (m.modPort p f).out = m.out := rfl
@[simp] theorem Module.modPort_unmasked (m : Module) (p : Nat) (f : Port → Port) : (m.modPort p f).unmasked = m.unmasked := rfl
@[simp] theorem Module.modPort_msixPend (m : Module) (p : Nat) (f : Port → Port) : (m.modPort p f).msixPend = m.msixPend := rfl
@[simp] theorem Module.modPort_uidNext (m : Module) (p : Nat) (f : Port → Port) : (m.modPort p f).uidNext = m.uidNext := rfl
@[simp] theorem Module.modPort_tick (m : Module) (p : Nat) (f : Port → Port) : (m.modPort p f).tick = m.tick := rfl
@[simp] theorem Module.modPort_lists (m : Module) (p : Nat) (f : Port → Port) : (m.modPort p f).lists = m.lists := rfl
@[simp] theorem Module.modPort_nextLists (m : Module) (p : Nat) (f : Port → Port) : (m.modPort p f).nextLists = m.nextLists := rfl
@[simp] theorem Module.modPort_agreeQ (m : Module) (p : Nat) (f : Port → Port) : (m.modPort p f).agreeQ = m.agreeQ := rfl
@[simp] theorem Module.modPort_retries (m : Module) (p : Nat) (f : Port → Port) : (m.modPort p f).retries = m.retries := rfl
@[simp] theorem Module.modPort_cores (m : Module) (p : Nat) (f : Port → Port) : (m.modPort p f).cores = m.cores := rfl
@[simp] theorem Module.modPort_stw (m : Module) (p : Nat) (f : Port → Port) : (m.modPort p f).stw = m.stw := rfl
@[simp] theorem Module.modPort_obj (m : Module) (p : Nat) (f : Port → Port) : (m.modPort p f).obj = m.obj := rfl
@[simp] theorem Module.modPort_xlat (m : Module) (p : Nat) (f : Port → Port) : (m.modPort p f).xlat = m.xlat := rfl
@[simp] theorem Module.modPort_mem (m : Module) (p : Nat) (f : Port → Port) : (m.modPort p f).mem = m.mem := rfl
@[simp] theorem Module.modPort_ras (m : Module) (p : Nat) (f : Port → Port) : (m.modPort p f).ras = m.ras := rfl
@[simp] theorem Module.modPort_comp (m : Module) (p : Nat) (f : Port → Port) : (m.modPort p f).comp = m.comp := rfl
@[simp] theorem Module.modPort_seq (m : Module) (p : Nat) (f : Port → Port) : (m.modPort p f).seq = m.seq := rfl
@[simp] theorem Module.modPort_ctrlQ (m : Module) (p : Nat) (f : Port → Port) : (m.modPort p f).ctrlQ = m.ctrlQ := rfl
@[simp] theorem Module.modPort_coll (m : Module) (p : Nat) (f : Port → Port) : (m.modPort p f).coll = m.coll := rfl
@[simp] theorem Module.modPort_twin (m : Module) (p : Nat) (f : Port → Port) : (m.modPort p f).twin = m.twin := rfl
@[simp] theorem Module.modPort_pwr (m : Module) (p : Nat) (f : Port → Port) : (m.modPort p f).pwr = m.pwr := rfl
@[simp] theorem Module.modPort_nvj (m : Module) (p : Nat) (f : Port → Port) : (m.modPort p f).nvj = m.nvj := rfl
@[simp] theorem Module.modPort_mgmt (m : Module) (p : Nat) (f : Port → Port) : (m.modPort p f).mgmt = m.mgmt := rfl
@[simp] theorem Module.modPort_links (m : Module) (p : Nat) (f : Port → Port) : (m.modPort p f).links = m.links.put p (f (m.port p)) := rfl
@[simp] theorem Module.modPort_inbox (m : Module) (p : Nat) (f : Port → Port) : (m.modPort p f).inbox = m.inbox := rfl
@[simp] theorem Module.modPort_rxData (m : Module) (p : Nat) (f : Port → Port) : (m.modPort p f).rxData = m.rxData := rfl
@[simp] theorem Module.modPort_seams (m : Module) (p : Nat) (f : Port → Port) : (m.modPort p f).seams = m.seams := rfl
@[simp] theorem Module.modPort_pcie (m : Module) (p : Nat) (f : Port → Port) : (m.modPort p f).pcie = m.pcie := rfl
@[simp] theorem Module.modPort_sec (m : Module) (p : Nat) (f : Port → Port) : (m.modPort p f).sec = m.sec := rfl
@[simp] theorem Module.modPort_rst (m : Module) (p : Nat) (f : Port → Port) : (m.modPort p f).rst = m.rst := rfl
@[simp] theorem Module.modPort_pins (m : Module) (p : Nat) (f : Port → Port) : (m.modPort p f).pins = m.pins := rfl
@[simp] theorem Module.modPort_fuse (m : Module) (p : Nat) (f : Port → Port) : (m.modPort p f).fuse = m.fuse := rfl

/-! `modStw` -/

@[simp] theorem Module.modStw_regs (m : Module) (s : Nat) (f : Steward → Steward) : (m.modStw s f).regs = m.regs := rfl
@[simp] theorem Module.modStw_latch (m : Module) (s : Nat) (f : Steward → Steward) : (m.modStw s f).latch = m.latch := rfl
@[simp] theorem Module.modStw_stwLeft (m : Module) (s : Nat) (f : Steward → Steward) : (m.modStw s f).stwLeft = m.stwLeft := rfl
@[simp] theorem Module.modStw_lowHold (m : Module) (s : Nat) (f : Steward → Steward) : (m.modStw s f).lowHold = m.lowHold := rfl
@[simp] theorem Module.modStw_hostMem (m : Module) (s : Nat) (f : Steward → Steward) : (m.modStw s f).hostMem = m.hostMem := rfl
@[simp] theorem Module.modStw_twinMem (m : Module) (s : Nat) (f : Steward → Steward) : (m.modStw s f).twinMem = m.twinMem := rfl
@[simp] theorem Module.modStw_free (m : Module) (s : Nat) (f : Steward → Steward) : (m.modStw s f).free = m.free := rfl
@[simp] theorem Module.modStw_out (m : Module) (s : Nat) (f : Steward → Steward) : (m.modStw s f).out = m.out := rfl
@[simp] theorem Module.modStw_unmasked (m : Module) (s : Nat) (f : Steward → Steward) : (m.modStw s f).unmasked = m.unmasked := rfl
@[simp] theorem Module.modStw_msixPend (m : Module) (s : Nat) (f : Steward → Steward) : (m.modStw s f).msixPend = m.msixPend := rfl
@[simp] theorem Module.modStw_uidNext (m : Module) (s : Nat) (f : Steward → Steward) : (m.modStw s f).uidNext = m.uidNext := rfl
@[simp] theorem Module.modStw_tick (m : Module) (s : Nat) (f : Steward → Steward) : (m.modStw s f).tick = m.tick := rfl
@[simp] theorem Module.modStw_lists (m : Module) (s : Nat) (f : Steward → Steward) : (m.modStw s f).lists = m.lists := rfl
@[simp] theorem Module.modStw_nextLists (m : Module) (s : Nat) (f : Steward → Steward) : (m.modStw s f).nextLists = m.nextLists := rfl
@[simp] theorem Module.modStw_agreeQ (m : Module) (s : Nat) (f : Steward → Steward) : (m.modStw s f).agreeQ = m.agreeQ := rfl
@[simp] theorem Module.modStw_retries (m : Module) (s : Nat) (f : Steward → Steward) : (m.modStw s f).retries = m.retries := rfl
@[simp] theorem Module.modStw_cores (m : Module) (s : Nat) (f : Steward → Steward) : (m.modStw s f).cores = m.cores := rfl
@[simp] theorem Module.modStw_stw (m : Module) (s : Nat) (f : Steward → Steward) : (m.modStw s f).stw = m.stw.put s (f (m.stwCore s)) := rfl
@[simp] theorem Module.modStw_obj (m : Module) (s : Nat) (f : Steward → Steward) : (m.modStw s f).obj = m.obj := rfl
@[simp] theorem Module.modStw_xlat (m : Module) (s : Nat) (f : Steward → Steward) : (m.modStw s f).xlat = m.xlat := rfl
@[simp] theorem Module.modStw_mem (m : Module) (s : Nat) (f : Steward → Steward) : (m.modStw s f).mem = m.mem := rfl
@[simp] theorem Module.modStw_ras (m : Module) (s : Nat) (f : Steward → Steward) : (m.modStw s f).ras = m.ras := rfl
@[simp] theorem Module.modStw_comp (m : Module) (s : Nat) (f : Steward → Steward) : (m.modStw s f).comp = m.comp := rfl
@[simp] theorem Module.modStw_seq (m : Module) (s : Nat) (f : Steward → Steward) : (m.modStw s f).seq = m.seq := rfl
@[simp] theorem Module.modStw_ctrlQ (m : Module) (s : Nat) (f : Steward → Steward) : (m.modStw s f).ctrlQ = m.ctrlQ := rfl
@[simp] theorem Module.modStw_coll (m : Module) (s : Nat) (f : Steward → Steward) : (m.modStw s f).coll = m.coll := rfl
@[simp] theorem Module.modStw_twin (m : Module) (s : Nat) (f : Steward → Steward) : (m.modStw s f).twin = m.twin := rfl
@[simp] theorem Module.modStw_pwr (m : Module) (s : Nat) (f : Steward → Steward) : (m.modStw s f).pwr = m.pwr := rfl
@[simp] theorem Module.modStw_nvj (m : Module) (s : Nat) (f : Steward → Steward) : (m.modStw s f).nvj = m.nvj := rfl
@[simp] theorem Module.modStw_mgmt (m : Module) (s : Nat) (f : Steward → Steward) : (m.modStw s f).mgmt = m.mgmt := rfl
@[simp] theorem Module.modStw_links (m : Module) (s : Nat) (f : Steward → Steward) : (m.modStw s f).links = m.links := rfl
@[simp] theorem Module.modStw_inbox (m : Module) (s : Nat) (f : Steward → Steward) : (m.modStw s f).inbox = m.inbox := rfl
@[simp] theorem Module.modStw_rxData (m : Module) (s : Nat) (f : Steward → Steward) : (m.modStw s f).rxData = m.rxData := rfl
@[simp] theorem Module.modStw_seams (m : Module) (s : Nat) (f : Steward → Steward) : (m.modStw s f).seams = m.seams := rfl
@[simp] theorem Module.modStw_pcie (m : Module) (s : Nat) (f : Steward → Steward) : (m.modStw s f).pcie = m.pcie := rfl
@[simp] theorem Module.modStw_sec (m : Module) (s : Nat) (f : Steward → Steward) : (m.modStw s f).sec = m.sec := rfl
@[simp] theorem Module.modStw_rst (m : Module) (s : Nat) (f : Steward → Steward) : (m.modStw s f).rst = m.rst := rfl
@[simp] theorem Module.modStw_pins (m : Module) (s : Nat) (f : Steward → Steward) : (m.modStw s f).pins = m.pins := rfl
@[simp] theorem Module.modStw_fuse (m : Module) (s : Nat) (f : Steward → Steward) : (m.modStw s f).fuse = m.fuse := rfl

end Sys2Proof.Machine
end

