-- ==== Sys2Proof/Laws/Steward.lean ====
section
/-!
SUPPORT. Small lemmas about a hart's registers: what writing a register, writing a CSR and going on to the next instruction leave.
-/
namespace Sys2Proof.Machine

/-- x0 reads zero. -/
@[simp] theorem Hart.xr_zero (t : Hart) : t.xr 0 = 0 := rfl

/-- Writes of x0 are discarded. -/
@[simp] theorem Hart.setReg_zero (t : Hart) (v : Nat) : t.setReg 0 v = t := rfl

/-- A register write changes nothing but the register files. -/
theorem Hart.setReg_frame (t : Hart) (r v : Nat) :
    ∃ x f w, t.setReg r v = { t with x := x, f := f, v := w } := by
  unfold Hart.setReg
  split
  · exact ⟨t.x, t.f, t.v, rfl⟩
  split
  · exact ⟨_, t.f, t.v, rfl⟩
  split
  · exact ⟨t.x, _, t.v, rfl⟩
  · exact ⟨t.x, t.f, _, rfl⟩

@[simp] theorem Hart.setReg_pc (t : Hart) (r v : Nat) : (t.setReg r v).pc = t.pc := by
  obtain ⟨x, f, w, h⟩ := t.setReg_frame r v; rw [h]
@[simp] theorem Hart.setReg_csr (t : Hart) (r v : Nat) : (t.setReg r v).csr = t.csr := by
  obtain ⟨x, f, w, h⟩ := t.setReg_frame r v; rw [h]
@[simp] theorem Hart.setReg_due (t : Hart) (r v : Nat) : (t.setReg r v).due = t.due := by
  obtain ⟨x, f, w, h⟩ := t.setReg_frame r v; rw [h]
@[simp] theorem Hart.setReg_late (t : Hart) (r v : Nat) : (t.setReg r v).late = t.late := by
  obtain ⟨x, f, w, h⟩ := t.setReg_frame r v; rw [h]

@[simp] theorem Hart.setCsr_x (t : Hart) (n v : Nat) : (t.setCsr n v).x = t.x := rfl
@[simp] theorem Hart.setCsr_f (t : Hart) (n v : Nat) : (t.setCsr n v).f = t.f := rfl
@[simp] theorem Hart.setCsr_v (t : Hart) (n v : Nat) : (t.setCsr n v).v = t.v := rfl
@[simp] theorem Hart.setCsr_pc (t : Hart) (n v : Nat) : (t.setCsr n v).pc = t.pc := rfl
@[simp] theorem Hart.skip_x (t : Hart) (n : Nat) : (t.skip n).x = t.x := rfl
@[simp] theorem Hart.skip_f (t : Hart) (n : Nat) : (t.skip n).f = t.f := rfl
@[simp] theorem Hart.skip_v (t : Hart) (n : Nat) : (t.skip n).v = t.v := rfl
@[simp] theorem Hart.skip_csr (t : Hart) (n : Nat) : (t.skip n).csr = t.csr := rfl

/-- An instruction is two bytes long or four. -/
theorem Hart.decode_len (t : Hart) (lo hi : Nat) : (t.decode lo hi).len = 2 ∨ (t.decode lo hi).len = 4 := by
  unfold Hart.decode
  dsimp only
  repeat' split
  all_goals first | exact .inl rfl | exact .inr rfl

end Sys2Proof.Machine
end

