-- ==== Sys2Proof/WellFormed.lean ====
section
/-!
DEFINITION. Well-formed commands: every operand lies in the range that its place in the module, its message or its register
gives it (a core, a port, a slot, a 16-bit or 32-bit field). One arm per command.
-/
namespace Sys2Proof

/-- Fits 16 bits. -/
def u16 (n : Nat) : Bool := decide (n < 2 ^ 16)

/-- Fits 32 bits. -/
def u32 (n : Nat) : Bool := decide (n < 2 ^ 32)

/-- A frame number of 48 bits (R6). -/
def frameOk (n : Nat) : Bool := decide (n < 2 ^ 48)

/-- The fields of a flit in their widths (R211). -/
def Machine.Flit.wf (f : Machine.Flit) : Bool :=
  decide (f.ty < 16 && f.pos < 16 && f.hops < 16 && f.slot < 64 && f.body.length ≤ 208) && u16 f.dst && u16 f.src && u16 f.seqNo && u16 f.ack && u16 f.entry

/-- A detected event names a core, a port or fields in the widths of a log record (R390). -/
def Machine.Detected.wf : Machine.Detected → Bool
  | .core c cause line => decide (c < 1024 && 1 ≤ cause && cause ≤ 7 && cause != 5 && line < 49152)
  | .plateCe c => decide (c < 1024)
  | .replay p => decide (p < 17)
  | .staging p coll => decide (p < 17 && coll < 64)
  | .other cls cause sub unitType unit part ctx detail =>
    decide (cls < 16) && decide (cause < 256) && decide (sub < 256) && decide (unitType < 256) && u16 unit && decide ((part.getD 0) < 64) &&
    decide ((ctx.getD 0) < 2 ^ 31) && decide (detail < 2 ^ 64)

/-- Is every operand of a command in its range? -/
def Instr.wf : Instr → Bool
  | .shutterWindow _ _ => true
  | .pickupCutoff => true
  | .shutterEdge => true
  | .tileReady c _ => decide (c < 1024)
  | .budgetOverrun c _ => decide (c < 1024)
  | .nop c => decide (c < 1024)
  | .tileEnd c => decide (c < 1024)
  | .anchor c => decide (c < 1024)
  | .accClear c => decide (c < 1024)
  | .mma c => decide (c < 1024)
  | .accRead c => decide (c < 1024)
  | .vop c => decide (c < 1024)
  | .vred c => decide (c < 1024)
  | .convert c => decide (c < 1024)
  | .copy c => decide (c < 1024)
  | .fill c => decide (c < 1024)
  | .xferIn c => decide (c < 1024)
  | .xferOut c => decide (c < 1024)
  | .peerPush c => decide (c < 1024)
  | .gather c => decide (c < 1024)
  | .reducePost c => decide (c < 1024)
  | .postStagingFree c => decide (c < 1024)
  | .wait c => decide (c < 1024)
  | .waitResume c => decide (c < 1024)
  | .signal c => decide (c < 1024)
  | .pred c => decide (c < 1024)
  | .srset c => decide (c < 1024)
  | .fence c => decide (c < 1024)
  | .opComplete c _ _ => decide (c < 1024)
  | .injResidue c => decide (c < 1024)
  | .injPlateCe c => decide (c < 1024)
  | .injPlateUe c => decide (c < 1024)
  | .injAccParity c => decide (c < 1024)
  | .tagFlush c => decide (c < 1024)
  | .stewardInstruction s0 h _ _ => decide (s0 < 64) && decide (h < 16)
  | .tlcommit s0 h rd n _ => decide (s0 < 64) && decide (h < 16) && decide (rd < 32) && u16 n
  | .edgewait s0 h rd => decide (s0 < 64) && decide (h < 16) && decide (rd < 32)
  | .edgewaitResume s0 h => decide (s0 < 64) && decide (h < 16)
  | .stewardReadDone s0 h => decide (s0 < 64) && decide (h < 16)
  | .injTcm s0 => decide (s0 < 64)
  | .memRequest write part off len cls _ data _ _ _ => decide (part < 256) && decide (off % 256 + len ≤ 256) && decide (1 ≤ len && len ≤ 256) && decide (cls < 8) && decide (data.length = (if write then len else 0))
  | .enlargerEntryClose die line => decide (die < 4) && decide (line % 256 = 0)
  | .memReadReturn line _ _ _ => decide (line % 256 = 0)
  | .scrubRead ch _ => decide (ch < 524)
  | .fillReport l => l.all (fun e => decide (e.1 < 524 && e.2.1 < 8))
  | .clearingDone ch gib => decide (ch < 524) && u16 gib
  | .channelZeroed ch => decide (ch < 524)
  | .injHbmCe d => decide (d < 4)
  | .injHbmUe d => decide (d < 4)
  | .injDdrCe d => decide (d < 4)
  | .injDdrUe d => decide (d < 4)
  | .injDdrMac d => decide (d < 4)
  | .memLatRcRead die n cls => decide (die < 4) && decide (n < 131) && decide (cls < 8)
  | .seqOpen => true
  | .seqAppend => true
  | .seqPull => true
  | .seqDemote => true
  | .seqRemap => true
  | .seqTruncate => true
  | .seqClose => true
  | .seqOffer => true
  | .seqRenew => true
  | .seqReclaim => true
  | .pullComplete id page => u32 id && u32 page
  | .demoteComplete id page => u32 id && u32 page
  | .holdLimit _ => true
  | .tier2ReadFail x => (match x with | .gather c => decide (c < 1024) | .copy id page => decide (id < 4096 ∧ page < 65536) | .repair _ => true)
  | .leaseExpiry _ => true
  | .leaseOfferReceived sender seg epoch commitSeq expiry => u16 sender && decide (seg < 2 ^ 64) && u32 epoch && decide (commitSeq < 2 ^ 64) && frameOk expiry
  | .leaseAcceptReceived sender seg epoch commitSeq expiry => u16 sender && decide (seg < 2 ^ 64) && u32 epoch && decide (commitSeq < 2 ^ 64) && frameOk expiry
  | .leaseReleaseReceived sender seg epoch commitSeq expiry => u16 sender && decide (seg < 2 ^ 64) && u32 epoch && decide (commitSeq < 2 ^ 64) && frameOk expiry
  | .leaseEpochReceived sender seg epoch commitSeq expiry => u16 sender && decide (seg < 2 ^ 64) && u32 epoch && decide (commitSeq < 2 ^ 64) && frameOk expiry
  | .seqPoolWrite k pages value => decide (k < 512) && decide (value < if pages then 2 ^ 32 else 2 ^ 42)
  | .translationCompletion fn pasid page _ _ sizeLog _ _ => decide (fn ≤ 64) && decide (pasid < 2 ^ 20) && decide (page < 2 ^ 64) && decide (12 ≤ sizeLog && sizeLog ≤ 63)
  | .prgResponse fn _ code => decide (fn ≤ 64) && decide (code < 16)
  | .priTimeout fn pasid page => decide (fn ≤ 64) && decide (pasid < 2 ^ 20) && decide (page < 2 ^ 64)
  | .invalidateRequest fn pasid _ _ tag => decide (fn ≤ 64) && decide ((pasid.getD 0) < 2 ^ 20) && decide (tag < 32)
  | .xlatFlush value => u32 value
  | .seamCrcFail d k dir g _ => decide (d < 4) && decide (k < 5) && decide (dir < 2) && decide (g < 34)
  | .seamInjCrc d k => decide (d < 4) && decide (k < 5)
  | .runReceived p sess _ _ raws => decide (p < 17) && decide (sess < 16) && decide (raws.length ≤ 16) && raws.all (fun r => decide (r.length = 256))
  | .nakReceived p sess ack => decide (p < 17) && decide (sess < 16) && u16 ack
  | .ackTimeout p sess => decide (p < 17) && decide (sess < 16)
  | .laneDropDone p trips => decide (p < 17) && decide (trips.length = 1024)
  | .linkTrained p _ width trips _ => decide (p < 17) && decide (width ≤ 4) && decide (trips.length = 1024)
  | .trainFail p => decide (p < 17)
  | .authReceived p sess mid port code serial epoch chal0 chal => decide (p < 17) && decide (sess < 16) && u16 mid && decide (port < 17) && u16 code && decide (serial.length = 16) && u32 epoch && decide (chal0.length = 16) && decide (chal.length ≤ 16)
  | .proofReceived p sess tag => decide (p < 17) && decide (sess < 16) && decide (tag.length = 16)
  | .authRetry p sess _ => decide (p < 17) && decide (sess < 16)
  | .runCounterEnd p sess _ => decide (p < 17) && decide (sess < 16)
  | .tickMarkReceived p frame _ _ _ _ _ => decide (p < 17) && frameOk frame
  | .tickMarkTimeout => true
  | .holdoverEnter => true
  | .slotsHeld => true
  | .relock => true
  | .tickOrphan => true
  | .tickRelockRequest up => frameOk up
  | .skewExceeded => true
  | .tickRefPulse _ => true
  | .tickRefLost => true
  | .ptpSyncReceived p domain seqNo _ _ _ _ => decide (p < 17) && decide (domain < 256) && u16 seqNo
  | .ptpFollowUpReceived p domain seqNo _ _ => decide (p < 17) && decide (domain < 256) && u16 seqNo
  | .ptpDelayReqReceived p domain seqNo ident _ _ => decide (p < 17) && decide (domain < 256) && u16 seqNo && decide (ident < 2 ^ 80)
  | .ptpDelayRespReceived p domain seqNo _ _ => decide (p < 17) && decide (domain < 256) && u16 seqNo
  | .ptpSyncSend p => decide (p < 17)
  | .ptpDelayReqSend p _ => decide (p < 17)
  | .ptpSyncTimeout => true
  | .slotStart p slot _ => decide (p < 17) && decide (slot < 64)
  | .messageRoute => true
  | .ethFrameReceived p _ => decide (p < 17)
  | .ethFrameTimeout p sess => decide (p < 17) && decide (sess < 16)
  | .portDown p _ => decide (p < 17)
  | .linkEnableWrite p _ => decide (p < 17)
  | .linkRetrain p => decide (p < 17)
  | .linkInjCrc p => decide (p < 17)
  | .linkInjTag p => decide (p < 17)
  | .recalibrationSlice port k => decide (k < (if port then 17 else 16))
  | .collDefine => true
  | .collDestroy => true
  | .chunkReceived port entry src => decide (port < 17) && u16 entry && u16 src
  | .instanceComplete port id => decide (port < 17) && decide (id < 64)
  | .collTimeout port id => decide (port < 17) && decide (id < 64)
  | .collAbortReceived src id inst => u16 src && decide (id < 64) && u32 inst
  | .submitImage slot k => decide (slot < 8) && decide (k < 4)
  | .storeProfile slot k => decide (slot < 8) && decide (k < 4)
  | .applyProfile slot k => decide (slot < 8) && decide (k < 4)
  | .cancel slot k => decide (slot < 8) && decide (k < 4)
  | .validationDone slot _ _ => decide (slot < 8)
  | .profileCommitted slot => decide (slot < 8)
  | .slotRelease slot => decide (slot < 8)
  | .armFire _ nDest => decide (nDest ≤ 16)
  | .armReceived id => u32 id
  | .statusReceived state code id => decide (state < 8) && decide (code < 256) && u32 id
  | .tallyReset id => u32 id
  | .migStart d i => decide (d < 4) && decide (i < 2)
  | .migRelease d i => decide (d < 4) && decide (i < 2)
  | .migCancel d i => decide (d < 4) && decide (i < 2)
  | .migSliceDone d i _ => decide (d < 4) && decide (i < 2)
  | .hello frame mid claimed serial claimedSerial period digest => frameOk frame && u16 mid && u16 claimed && decide (serial.length = 16) && decide (claimedSerial.length = 16) && u32 period && decide (digest.length = 48)
  | .join j _ => frameOk j
  | .beat => true
  | .neg vd f _ _ => u16 vd && frameOk f
  | .mwrite vd f off data => u16 vd && frameOk f && decide (off % 64 = 0) && decide (data.length % 64 = 0 && data.length ≤ 4032)
  | .print vd f print0 flags tiles => u16 vd && frameOk f && decide (print0 < 2 ^ 256) && decide (flags < 256) && u32 tiles
  | .sync vd digest _ => u16 vd && decide (digest.length = 48)
  | .failed => true
  | .detach => true
  | .resetReq => true
  | .swap vd f => u16 vd && frameOk f
  | .seedCopyDone vd => u16 vd
  | .twinVdSwap vd => u16 vd
  | .twinVdClear vd f => u16 vd && frameOk f
  | .twinInjPrint => true
  | .twinInjBeatStop => true
  | .pcieLinkChange gen lanes => decide (gen ≤ 4) && decide (lanes ≤ 16)
  | .vfEnableWrite _ _ numVfs bar => decide (numVfs ≤ 64) && u16 bar
  | .vfMboxSend v => decide (1 ≤ v && v ≤ 64)
  | .vfMboxInAck v => decide (1 ≤ v && v ≤ 64)
  | .pfMboxAck => true
  | .pfMboxSend => true
  | .windowAccess fn write _ len data => decide (fn ≤ 64) && decide (1 ≤ len && len ≤ 4096) && decide (data.length = (if write then len else 0))
  | .atomicOpReceived => true
  | .msixUnmask fn w => decide (fn ≤ 64) && (match w with | .vector vec => decide (vec < 2048) | .control _ _ => true)
  | .ideInsecure stream => decide (stream ≤ 8)
  | .tail fn slot v upper => decide (fn ≤ 64) && u16 slot && u32 v && decide (upper < 2 ^ 30)
  | .ref fn slot value upper => decide (fn ≤ 64) && u16 slot && u32 value && decide (upper < 2 ^ 30)
  | .unref fn slot value upper => decide (fn ≤ 64) && u16 slot && u32 value && decide (upper < 2 ^ 30)
  | .abort fn slot i upper => decide (fn ≤ 64) && u16 slot && u32 i && decide (upper < 2 ^ 30)
  | .qcHead fn slot v => decide (fn ≤ 64) && u16 slot && u32 v
  | .hostRefWrite value upper => u32 value && decide (upper < 2 ^ 30)
  | .hostEnable => true
  | .hostLock => true
  | .execCommand => true
  | .signalCommand => true
  | .create => true
  | .moveCtx => true
  | .loseCtx => true
  | .badKindCommand => true
  | .errorLogRecord e => e.wf
  | .logDrain die => decide (die < 14)
  | .ringHeadWrite v => u32 v
  | .historyWindowClose row _ => decide (row < 12)
  | .moraineRemove => true
  | .faultReportSend => true
  | .faultReportReceived cls cause ut unit subject frame reporter => decide (cls < 16) && decide (cause < 256) && decide (ut < 256) && u16 unit && u16 subject && frameOk frame && u16 reporter
  | .damperUpdate cls ut unit subject => decide (cls < 16) && decide (ut < 256) && u16 unit && u16 subject
  | .damperEntryClose cls ut unit subject => decide (cls < 16) && decide (ut < 256) && u16 unit && u16 subject
  | .damperOverflowReport => true
  | .powerEstimate x => x.rails.all (fun e => decide (e.rail < 40))
  | .beResume => true
  | .calibration l => l.all (fun e => decide (e.1 < 40))
  | .clampTrip rail => decide (rail < 40)
  | .clampRelease rail _ => decide (rail < 40)
  | .railFault rail => decide (rail < 40)
  | .inputOutOfRange _ => true
  | .converterFail conv => u16 conv
  | .tempSample l => l.all (fun e => decide (e.1 < 14))
  | .thermtrip => true
  | .pwrCapWrite w => u32 w
  | .pwrPeakWrite w => u32 w
  | .capInForce => true
  | .setNumericEffecterValue id value => u16 id && u32 value
  | .getSensorReading id => u16 id
  | .getStateSensorReadings id => u16 id
  | .revocationSubmit _ _ => true
  | .getVersion tr => decide (tr < 3)
  | .getCapabilities tr => decide (tr < 3)
  | .negotiateAlgorithms tr _ => decide (tr < 3)
  | .getDigests tr sess => decide (tr < 3) && decide ((sess.getD 0) < 4)
  | .getCertificate tr sess slot off len => decide (tr < 3) && decide ((sess.getD 0) < 4) && decide (slot < 8) && u16 off && u16 len
  | .challenge tr slot => decide (tr < 3) && decide (slot < 8)
  | .getMeasurements tr sess idx _ => decide (tr < 3) && decide ((sess.getD 0) < 4) && decide (idx < 256)
  | .keyExchange tr => decide (tr < 3)
  | .finish k _ => decide (k < 4)
  | .keyUpdate k => decide (k < 4)
  | .endSession k => decide (k < 4)
  | .getHssEndorsement tr sess => decide (tr < 3) && decide ((sess.getD 0) < 4)
  | .getHssSignature tr sess => decide (tr < 3) && decide ((sess.getD 0) < 4)
  | .ideKmQuery sess => decide (sess < 4)
  | .ideKmKeyProg sess stream set lo hi => decide (sess < 4) && decide (stream ≤ 8) && decide (set < 2) && u16 lo && u16 hi
  | .ideKmKSetGo sess stream set => decide (sess < 4) && decide (stream ≤ 8) && decide (set < 2)
  | .ideKmKSetStop sess stream set => decide (sess < 4) && decide (stream ≤ 8) && decide (set < 2)
  | .lcsTokenGo _ _ => true
  | .newChallenge rnd => decide (rnd.length = 16)
  | .debugRelock => true
  | .fusePulseDone _ _ => true
  | .powerOn _ => true
  | .railsInRegulation => true
  | .pwrEnLow => true
  | .rstNAssert => true
  | .perstAssert => true
  | .perstDeassert => true
  | .hotReset => true
  | .pfFlr => true
  | .vfFlr v => decide (1 ≤ v && v ≤ 64)
  | .hostResetComplete => true
  | .moduleReset w => u32 w
  | .holdoffStart _ => true
  | .internalResetAssert _ => true
  | .internalResetRelease slot => decide (slot < 64)
  | .bringupStepEnd _ => true
  | .watchdogExpiry => true
  | .swrstCounters blk i => decide (blk < 256) && u16 i
  | .swrstUnit blk i => decide (blk < 256) && u16 i
  | .swrstUnitDone => true
  | .journalCommit => true
  | .flashProgramDone _ _ => true
  | .flashEraseDone => true
  | .fwActivate part slot _ _ => decide (part < 4) && decide (slot < 2)
  | .fwReady part => decide (part < 4)
  | .fwTrialTimeout part _ _ => decide (part < 4)
  | .requestUpdate => true
  | .passComponentTable _ => true
  | .updateComponent id => u16 id
  | .transferComplete _ _ _ => true
  | .verifyComplete => true
  | .applyComplete => true
  | .activateFirmware _ _ => true
  | .ddrOffline ch => decide (ch < 12)
  | .ddrOnline ch => decide (ch < 12)
  | .dimmPowerWaitDone gib speed _ serial => u16 gib && decide (speed < 256) && u32 serial
  | .ddrTrainingDone _ => true
  | .ddrInitDone => true
  | .getStatus tag => decide (tag < 256)
  | .readReg tag off => decide (tag < 256) && u32 off
  | .writeReg tag off value facts => decide (tag < 256) && u32 off && u32 value && decide (facts.rnd.length ≤ 16)
  | .mgmtMemRead tag _ _ => decide (tag < 256)
  | .mgmtMemWrite tag _ _ => decide (tag < 256)
  | .mgmtReset tag => decide (tag < 256)
  | .token tag _ _ _ => decide (tag < 256)
  | .debugCommand tag s0 _ => decide (tag < 256) && decide (s0 < 64)
  | .traceRead tag core _ => decide (tag < 256) && decide (core < 1024)
  | .setProfile tag k _ => decide (tag < 256) && decide (k < 4)
  | .writeSlot tag part slot off _ _ _ _ => decide (tag < 256) && decide (part < 4) && decide (slot < 2) && u32 off
  | .formatJournal tag => decide (tag < 256)
  | .mgmtCtrlReceived src tag _ => u16 src && decide (tag < 256)
  | .i3cEntdaa addr => decide (addr < 128)
  | .twinPresentChange _ => true
  | .registerWrite space off len _ value facts => decide (space ≤ 65) && decide (off + len ≤ 2 ^ 26) && decide (value < 256 ^ len) && decide (1 ≤ len && len ≤ 4096) && decide (facts.rnd.length ≤ 16)
  | .priEnableWrite fn alloc => decide (fn ≤ 64) && decide (alloc < 2 ^ 32)
  | .mctpControl cmd _ => decide (cmd < 256)

end Sys2Proof
end

