-- ==== Sys2Proof/Tests/Slice0.lean ====
section
/-!
SUPPORT. Tests: an ill-formed command for each check of WellFormed, worked examples of the chapters, and for each
statement with hypotheses (and each of its clauses) a state and operands that meet them together.
-/
open Sys2Proof Sys2Proof.Machine

namespace Sys2Proof.Tests

/-! ### Ill-formed commands -/

theorem test_wf_frames_and_ops : ([.budgetOverrun 1024 0, .tileReady 1024 0, .mma 1024, .opComplete 1024 0 0] : List Instr).all
    (fun i => !i.wf) = true := by decide

theorem test_wf_steward : ([.stewardInstruction 64 0 (.stop 0) .clean, .stewardInstruction 0 16 (.stop 0) .clean, .tlcommit 0 0 32 0 0, .tlcommit 0 0 0 65536 0,
    .edgewait 0 0 32] : List Instr).all (fun i => !i.wf) = true := by decide

theorem test_wf_memory : ([.memRequest false 256 0 64 0 .host [] .clean 0 0, .memRequest false 0 255 2 0 .host [] .clean 0 0,
    .memRequest false 0 0 0 0 .host [] .clean 0 0, .memRequest false 0 0 64 8 .host [] .clean 0 0, .memRequest true 0 0 2 0 .host [1] .clean 0 0,
    .enlargerEntryClose 4 0, .enlargerEntryClose 0 128, .memReadReturn 32 0 .clean 0, .scrubRead 524 .clean,
    .fillReport [(0, 8, 0)], .memLatRcRead 0 131 0] : List Instr).all (fun i => !i.wf) = true := by decide

theorem test_wf_sequences : ([.pullComplete (2 ^ 32) 0, .leaseOfferReceived 0 (2 ^ 64) 0 0 0, .leaseOfferReceived 0 0 0 0 (2 ^ 48),
    .seqPoolWrite 512 true 0, .seqPoolWrite 2 true (2 ^ 32), .seqPoolWrite 2 false (2 ^ 42),
    .tier2ReadFail (.gather 1024), .tier2ReadFail (.copy 4096 0)] : List Instr).all (fun i => !i.wf) = true := by decide

theorem test_wf_translation : ([.translationCompletion 65 0 0 true 0 12 true true,
    .translationCompletion 0 (2 ^ 20) 0 true 0 12 true true, .translationCompletion 0 0 (2 ^ 64) true 0 12 true true,
    .translationCompletion 0 0 0 true 0 11 true true, .prgResponse 0 0 16, .invalidateRequest 0 (some (2 ^ 20)) 0 0 0,
    .invalidateRequest 0 none 0 0 32] : List Instr).all (fun i => !i.wf) = true := by decide

/-- A flit of type CTRL. -/
def flit : Flit :=
  { ty := 2, pos := 0, first := true, last := true, sched := false, seqNo := 0, ack := 0, ackValid := false, nak := false, hops := 0,
    slot := 0, dst := 0, src := 0, entry := 0, body := [] }

set_option maxRecDepth 8000 in
theorem test_wf_links : ([.seamCrcFail 0 5 0 0 false, .seamCrcFail 0 0 2 0 false, .seamCrcFail 0 0 0 34 false, .linkRetrain 17,
    .runReceived 0 0 0 [] (List.replicate 17 (zeros 256)), .runReceived 0 0 0 [] [zeros 255],
    .authReceived 0 0 0 0 0 [] 0 (zeros 16) [], .authReceived 0 0 0 0 0 (zeros 16) 0 (zeros 16) (zeros 17),
    .slotStart 0 64 0] : List Instr).all (fun i => !i.wf) = true := by decide

set_option maxRecDepth 8000 in
theorem test_wf_flit : ([{ flit with hops := 16 }, { flit with dst := 65536 }, { flit with ty := 16 }, { flit with body := zeros 209 }] :
    List Flit).all (fun f => !f.wf) = true ∧ flit.wf = true := by decide

theorem test_wf_chunk : ([.chunkReceived 17 0 0, .chunkReceived 0 65536 0, .chunkReceived 0 0 65536] : List Instr).all (fun i => !i.wf) = true := by
  decide

theorem test_wf_images_and_twins : ([.submitImage 8 0, .storeProfile 0 4, .armFire true 17, .migStart 4 0, .migStart 0 2,
    .hello 0 0 0 (zeros 16) (zeros 16) 0 (zeros 47), .mwrite 0 0 0 (zeros 63), .mwrite 0 0 32 (zeros 64),
    .print 0 0 (2 ^ 256) 0 0] : List Instr).all (fun i => !i.wf) = true := by decide

theorem test_wf_host : ([.pcieLinkChange 5 4, .pcieLinkChange 1 17, .vfMboxSend 0, .vfMboxSend 65, .windowAccess 0 false 0 0 [],
    .windowAccess 0 false 0 4097 [], .msixUnmask 0 (.vector 2048), .msixUnmask 65 (.control true false), .ideInsecure 9, .tail 0 0 0 (2 ^ 30), .vfEnableWrite true true 65 0,
    .registerWrite 66 0 4 true 0 ⟨true, true, [], 0⟩, .registerWrite 0 0 2 true 65536 ⟨true, true, [], 0⟩,
    .registerWrite 0 (2 ^ 26 - 3) 4 true 0 ⟨true, true, [], 0⟩, .writeReg 0 0 0 ⟨true, true, zeros 17, 0⟩] : List Instr).all
    (fun i => !i.wf) = true := by decide

theorem test_wf_faults_and_power : ([.errorLogRecord (.other 0 0 0 0 0 (some 64) none 0), .errorLogRecord (.core 0 5 0), .errorLogRecord (.plateCe 1024),
    .errorLogRecord (.replay 17), .errorLogRecord (.staging 0 64),
    .logDrain 14, .historyWindowClose 12 0, .calibration [(40, 0)], .clampTrip 40, .tempSample [(14, 0)],
    .powerEstimate ⟨[⟨40, [], []⟩], 0, 0, false⟩, .budgetOverrun 1024 0, .clampRelease 40 0] :
    List Instr).all (fun i => !i.wf) = true := by decide

theorem test_wf_management : ([.getVersion 3, .getDigests 0 (some 4), .getCertificate 0 none 8 0 0, .newChallenge (zeros 15),
    .swrstUnit 256 0, .fwActivate 4 0 true true, .fwActivate 0 2 true true, .ddrOffline 12, .i3cEntdaa 128, .traceRead 0 1024 0, .getStatus 256,
    .mctpControl 256 [], .internalResetRelease 256] : List Instr).all (fun i => !i.wf) = true := by decide

theorem test_wf_accepts : ([.mma 1023, .tlcommit 63 15 31 65535 0, .memRequest true 255 192 64 7 .host (zeros 64) .clean 0 0, .linkRetrain 16,
    .tail 64 65535 (2 ^ 32 - 1) 0, .registerWrite 65 (2 ^ 26 - 4) 4 true 0 ⟨true, true, [], 0⟩, .newChallenge (zeros 16)] :
    List Instr).all (·.wf) = true := by decide

/-! ### Worked examples of the chapters -/

/-- An op without predicate control. -/
def op (b : OpBody) : TileOp := { psel := 0, pen := false, pinv := false, body := b }

def anchorOp : AnchorOp :=
  { mode := 1, fmtA := fmtE4M3, fmtB := fmtE4M3, smode := 1, anchor := 0, aLine := 0, bLine := 2048, saLine := 4096, sbLine := 4160,
    kb := 32, row0 := 0, m := 128, col0 := 0, n := 128 }

def mmaOp : MmaOp :=
  { fmtA := fmtE4M3, fmtB := fmtE4M3, smode := 1, aLine := 0, bLine := 2048, saLine := 4096, sbLine := 4160, kb := 32, row0 := 0,
    m := 128, col0 := 0, n := 128 }

def readOp : AccReadOp :=
  { fmtOut := fmtBF16, ieee := false, sr := false, raw := false, mx := false, mxDim := 0, afxSame := false, outLine := 5000,
    auxLine := lineNone, alphaLine := lineNone, betaLine := lineNone, row0 := 0, m := 128, col0 := 0, n := 128, anchorOut := 0 }

/-- XFER_OUT of 512 lines through both engines. -/
def outOp (line : Nat) : XferOp :=
  { engine := 0, both := true, path := 0, slot := 0, plateLine := line, lines := 512, offset := 0, tag := 0, rows := 1, stride := 0 }

/-- GATHER of 8 pages of 8,192 bytes. -/
def gatherOp : GatherOp :=
  { engine := 0, both := false, seqId := 0, dstLine := 0, firstPage := 0, pages := 8, pageOff := 0, bpp := 8192, tag := 0 }

/-- The first form of the worked example of 03_core_and_tile_ops.md costs 2,062 ac. -/
theorem test_cost_first_form : tileCost ⟨32, 32, 32⟩ 0 [op (.anchor anchorOp), op (.mma mmaOp), op (.accRead readOp),
    op (.xferOut (outOp 5000)), op (.signal 0 1), op .endOp] = some 2062 := by decide

/-- The second form costs 1,248 ac, and its last tile 826 ac. -/
theorem test_cost_second_form : tileCost ⟨32, 32, 32⟩ 0 [op (.anchor anchorOp), op (.xferOut (outOp 6000)), op (.mma mmaOp),
    op (.accRead readOp), op (.signal 0 1), op .endOp] = some 1248 ∧
    tileCost ⟨32, 32, 32⟩ 0 [op (.xferOut (outOp 6000)), op (.signal 0 1), op .endOp] = some 826 := by decide

/-- One engine gathers 8 pages of 8,192 bytes from tier 0 in 960 ac (06_sequence_state.md). -/
theorem test_cost_gather : opCost ⟨32, 32, 32⟩ 0 (op (.gather gatherOp)) = some (.te0, 640, 320) := by decide

/-- The four products of the worked example of R53 sum to 2.0 in any order: 2^70 units of 2^-69. -/
theorem test_sum_in_any_order : let t (v s : Int) : Sys2Proof.Machine.Num × Flags := ((Num.ofInt v s), flags0)
    ([t 1 25, t (-1) 25, t 1 0, t 1 0].foldl (addTerm 42) cell0).val = 2 ^ 70 ∧
    ([t 1 25, t 1 0, t (-1) 25, t 1 0].foldl (addTerm 42) cell0).val = 2 ^ 70 ∧
    toFloat fmtFP32 false none (cellValue 42 ([t 1 25, t 1 0, t 1 0, t (-1) 25].foldl (addTerm 42) cell0)) = (0x4000_0000, flags0) := by
  decide

/-- The MX block of the worked example of R65: scale 0x80, elements 0x7E with sat, 0x3C and 0xB0. -/
theorem test_mx_block : (let r := mxBlock fmtE4M3 ([Num.ofInt 940 0, Num.ofInt 25 (-3), Num.ofInt (-1) 0, Num.ofInt 0 0].map (fun v => (v, none)))
    (r.1, r.2.1, r.2.2)) = (0x80, [0x7E, 0x3C, 0xB0, 0x00], flagSat) := by decide

/-- 1.5625 rounds stochastically to 1.625 for r[63:32] = 0x3A7C_0000 and to 1.5 for 0x9100_0000 (R67). -/
theorem test_stochastic : (toFloat fmtE4M3 false (some 0x3A7C_0000) (Num.ofInt 25 (-4))).1 = 0x3D ∧
    (toFloat fmtE4M3 false (some 0x9100_0000) (Num.ofInt 25 (-4))).1 = 0x3C := by decide

/-- At 850 MHz with the default frame L is 15,976 ac, at 600 MHz 10,976 (R12). -/
theorem test_limit : (State.reset.m.setFld (PWR_BLOCK_point 0) 5 |>.setTick (fun t => { t with frame := 1 })).limitAc 0 = 15976 ∧
    (State.reset.m.setFld (PWR_BLOCK_point 0) 0 |>.setTick (fun t => { t with frame := 1 })).limitAc 0 = 10976 := by decide

theorem test_mix64_zero : mix64 0 = 0 := by decide

/-- The bytes of "123456789". -/
def nine : List Byte := (List.range 9).map (fun i => BitVec.ofNat 8 (0x31 + i))

set_option maxRecDepth 16000 in
/-- The published check values of the three CRCs: CRC-32C (iSCSI), the frame check sequence of Ethernet, and polynomial 0x8BB7. -/
theorem test_crc_check_values : crc32c nine = 0xE3069283 ∧ crc32 nine = 0xCBF43926 ∧ crc16 nine = 0xD0DB := by decide

/-- The example of FIPS 197 appendix C.3: AES-256 with key 00 01 … 1F on the block 00 11 … FF. -/
theorem test_aes : aesEnc ((List.range 32).map (fun i => BitVec.ofNat 8 i)) ((List.range 16).map (fun i => BitVec.ofNat 8 (17 * i))) =
    [0x8E, 0xA2, 0xB7, 0xCA, 0x51, 0x67, 0x45, 0xBF, 0xEA, 0xFC, 0x49, 0x90, 0x4B, 0x49, 0x60, 0x89] := by decide +kernel

/-! ### States and operands that meet the hypotheses of the statements -/

/-- The state after reset with one change of its module. -/
def at_ (f : Module → Module) : State := State.reset.after f

theorem test_met_live : Live State.reset := by unfold Live; decide

theorem test_met_empty_queue : State.reset.pending = [] := by decide

theorem test_met_command_acts : exec .beat State.reset = .next (State.reset.after effBeat) := rfl

def inReset : State := at_ (·.setRst (fun r => { r with inReset := true }))

theorem test_met_internal_reset : inReset.m.rst.inReset = true ∧ actsInReset .beat = false := by decide

/-- A burn of fuse word 3 with its pulse of bit 2 under way. -/
def burning : State := at_ (·.setSec (fun x => { x with burn := some { target := 3, words := [3], pulse := some 2, tries := 1, phase := 3 } }))

theorem test_met_fuse_pulse : burning.fusesWf = true ∧
    (effFusePulse false true burning).otp ≠ burning.otp ∧ exec (.fusePulseDone false true) burning = .next (effFusePulse false true burning) :=
  ⟨by decide, by decide, rfl⟩

theorem test_met_fuses_hold : State.reset.fusesWf = true ∧ FusesHold State.reset burning ∧
    step { burning with pending := [.fusePulseDone false true] } = .next (effFusePulse false true burning) :=
  ⟨by decide, fun _ _ h => h, rfl⟩

theorem test_met_event_bits : SMap.wf regReset State.reset.m.regs = true ∧ SEQ_EVENT ∈ [GLB_EVENT, SEQ_EVENT] ∧
    State.reset.m.trafficOk 0 = true := by decide

/-- The link stream 0 has left the Secure state. -/
def failedStream : State := at_ (·.setPcie (fun p => { p with ide := [(0, { sel := false, lo := 0, hi := 64, secure := false, failed := true, keys := [], cur := none })] }))

theorem test_met_failed_stream : failedStream.m.trafficOk 0 = false ∧ Live failedStream := by unfold Live; decide

theorem test_met_power_on : let s := at_ (·.setRst (fun r => { r with good := false, latched := true, failed := [0, 1, 2, 3] }))
    s.m.rst.good = false ∧ s.m.rst.failed.length ≤ 4 ∧ (s.m.rst.latched = false ∨ true = true) := by decide

theorem test_met_rails : let s := at_ (·.setRst (fun r => { r with good := false, inputOk := true, pwrEn := true, latched := false }))
    s.m.rst.good = false ∧ s.m.rst.inputOk = true ∧ s.m.rst.pwrEn = true ∧ s.m.rst.latched = false := by decide

def up : State := at_ (·.setRst (fun r => { r with stepNo := 14, good := true }))

theorem test_met_management : up.m.mgmtUp = true ∧ up.m.pins.slotId < 64 ∧ Live up := by unfold Live; decide

theorem test_met_release : (at_ (·.setRst (fun r => { r with good := true, inReset := true }))).m.rst.good = true ∧
    (at_ (·.setRst (fun r => { r with good := true, inReset := true }))).m.rst.inReset = true := by decide

/-- A tile of core 0 that declares `n` ac. -/
def tile (be : Bool) (n : Nat) (ops : List TileOp) : Tile :=
  { uid := 1, ctx := 0, be := be, label := 0, src := .steward 0 0, stream := 0, offset := 0, vd := 0,
    hdr := { nOps := ops.length, declared := n, anyCore := false, fill := false, streamId := 0, cand := [0], deps := [], objs := [], inps := [] },
    ops := ops, core := 0, loaded := true, joined := true, held := false, overruns := 0, errEnds := 0, lastErr := 0, lastErrCore := 0,
    ueLine := none, hold := 0, tagSpans := [], waitRepair := none, candBad := false, noCore := false }

def listed (l : List Tile) : State := at_ (fun m => { m with lists := l })

theorem test_met_sequencer : let s := listed [tile false 100 []]
    Live s ∧ s.m.rst.hold = none ∧ s.m.tick.phase = .open_ ∧ (s.m.core 0).run = none ∧ (s.m.core 0).clearing = false := by
  unfold Live; decide

theorem test_met_lc_starts : FirstStart (listed [tile false 100 []]).m 0 0 false (tile false 100 []) :=
  ⟨[], [], rfl, ⟨rfl, rfl, rfl, by decide, by simp, by decide, by decide, by simp [Tile.cmdKey, tile]⟩, by simp⟩

/-- A tile of the other class cannot start. -/
theorem none_starts (be : Bool) : NoneStarts (listed [tile (!be) 100 []]).m 0 0 be := by
  intro p q u h hc
  have : u = tile (!be) 100 [] := by
    have h : [tile (!be) 100 []] = p ++ u :: q := h
    cases p with
    | nil => simp at h; exact h.1.symm
    | cons a r => simp at h
  have h2 := hc.2.1
  rw [this] at h2
  cases be <;> simp [tile] at h2

theorem test_met_be_starts : NoneStarts (listed [tile true 100 []]).m 0 0 false ∧
    (listed [tile true 100 []]).m.flag (PWR_DIE_be_suspended (0 / 128)) = false ∧
    FirstStart (listed [tile true 100 []]).m 0 0 true (tile true 100 []) :=
  ⟨none_starts false, by decide,
    [], [], rfl, ⟨rfl, rfl, rfl, by decide, by simp, by decide, by decide, by simp [Tile.cmdKey, tile]⟩, by simp⟩

theorem test_met_none_starts : NoneStarts State.reset.m 0 0 false ∧ NoneStarts State.reset.m 0 0 true := by
  constructor <;> (intro p q u h; exact absurd h (by show ([] : List Tile) ≠ _; simp))

/-- Core 0 with a tile whose one op is next. -/
def issuing (o : TileOp) : State := at_ (·.modCore 0 (fun k => { k with run := some (runInit (tile false 100 [o]) 0) }))

theorem test_met_op_off : let o : TileOp := { psel := 0, pen := true, pinv := false, body := .mma mmaOp }
    ((issuing o).m.core 0).run = some (runInit (tile false 100 [o]) 0) ∧ (runInit (tile false 100 [o]) 0).nextOp = some o ∧
    (issuing o).m.canIssue 0 (runInit (tile false 100 [o]) 0) o = true ∧ o.selected 0 = false := by decide

theorem test_met_op_on : ∀ b ∈ [OpBody.nop 1, .fence, .signal 1 1, .srset 1 2 3,
      .pred { pdst := 1, kind := 0, sel := 0, word := 0, line := 0, imm := 0, pa := 0, pb := 0, lop := 0 }],
    (issuing (op b)).m.canIssue 0 (runInit (tile false 100 [op b]) 0) (op b) = true ∧ (op b).selected 0 = true ∧
    (op b).readsPlate = false := by decide

/-- One op of every kind that computes, waits or moves data. -/
def computeOps : List OpBody :=
  let an : AnchorOp := { mode := 0, fmtA := 0, fmtB := 0, smode := 0, anchor := 0, aLine := 0, bLine := 0, saLine := 0, sbLine := 0, kb := 1, row0 := 0, m := 1, col0 := 0, n := 1 }
  [.copy 0 1 1, .fill 0 1 0, .vop { fn := 0, fmtIn := 0, fmtOut := 0, aLine := 0, bLine := 0, cLine := 0, dLine := 0, n := 1, immB := 0, immC := 0, ieee := false, sr := false },
   .vred { fn := 0, fmtIn := 0, srcLine := 0, dstLine := 0, n := 1, groups := 1 },
   .convert { fmtIn := 0, fmtOut := 0, ieee := false, sr := false, mxIn := false, mxOut := false, srcLine := 0, dstLine := 0, scaleIn := 0, scaleOut := 0, n := 1, rowLen := 1, anchor := 0 },
   .anchor an, .accClear an, .mma mmaOp,
   .accRead { fmtOut := 0, ieee := false, sr := false, raw := true, mx := false, mxDim := 0, afxSame := false, outLine := 0, auxLine := 0, alphaLine := 0, betaLine := 0, row0 := 0, m := 1, col0 := 0, n := 1, anchorOut := 0 },
   .wait 7 1 0, .xferIn { engine := 0, both := false, path := 0, slot := 0, plateLine := 0, lines := 1, offset := 0, tag := 0, rows := 1, stride := 0 }]

theorem test_met_compute_ops : ∀ b ∈ computeOps,
    (issuing (op b)).m.canIssue 0 (runInit (tile false 100 [op b]) 0) (op b) = true ∧ (op b).selected 0 = true ∧
    ((issuing (op b)).m.core 0).injPlateUe = false ∧ ((issuing (op b)).m.core 0).injPlateCe = false ∧
    ((issuing (op b)).m.core 0).injAccParity = false ∧ ((issuing (op b)).m.core 0).injResidue = false := by decide

/-- Core 0 about to issue the op b, its accumulator clean, and timeline 7 of value v. -/
def waiting (b : OpBody) (v : Nat) : State := (issuing (op b)).after (fun m => (m.setAcc 0 (accClean 0)).setObj (fun o =>
  { o with tls := o.tls.put 7 { state := .live, lost := false, exhausted := false, ctx := 1, value := v, shadowVa := 0, hostCount := 0, devCount := 0, unrefAt := [] } }))

theorem test_met_acc_good : ((waiting (.nop 1) 0).m.accOf 0).2.bad = [] := by decide

theorem test_met_wait : ((waiting (.wait 7 1 0) 1).m.obj.tls.get? 7).map (fun t => (t.lost, t.reached 1)) = some (false, true) ∧
    ((waiting (.wait 7 1 0) 0).m.obj.tls.get? 7).map (fun t => (t.lost, t.reached 1)) = some (false, false) := by decide

/-- A composition of the given records. -/
def composed (r : Recs) : State := up.after (fun m => { m with comp := { m.comp with present := true, recs := r } })

/-- Partition 5, confidential, binds core 0 and steward core 0 as device 1, and VF 1 serves it. -/
def recs5 : Recs := [(0x0201 * 2 ^ 64 + 5, setBytes (zeros 16) 8 [1]), (0x0401 * 2 ^ 64 + 1, setBytes (zeros 16) 8 [5]),
  (0x0501 * 2 ^ 64 + 1, setBytes (setBytes (zeros 208) 8 [1]) 200 [1]), (0x0B01 * 2 ^ 64 + 5, setBytes (zeros 16) 8 [1])]

theorem test_met_core_open : State.reset.m.coreOpen 0 = true ∧ (composed recs5).m.coreOpen 0 = false ∧ Live (composed recs5) := by
  unfold Live; decide

theorem test_met_terms : ([(Num.ofInt 1 0, flags0), (.nan, flags0)] : List (Sys2Proof.Machine.Num × Flags)).Perm [(.nan, flags0), (Num.ofInt 1 0, flags0)] :=
  List.Perm.swap _ _ _

/-- Steward core 0 serves, and hart 3 has the turn with `n` entries free. -/
def serving (n : Nat) (ph : Phase) : State := (composed recs5).after (fun m =>
  ((m.modStw 0 (fun k => { k with supReady := true })).modHart 0 3 (fun h => { h with running := true, due := 256 - n })).setTick
    (fun t => { t with phase := ph }))

theorem test_met_commit : (serving 4 .open_).m.stwServes 0 = true ∧ (serving 4 .open_).m.stwTurn 0 = some 3 ∧
    ((serving 4 .open_).m.hart 0 3).free < 5 ∧ 4 ≤ ((serving 4 .open_).m.hart 0 3).free := by decide

theorem test_met_commit_early : max (serving 4 .open_).m.tick.ns 100 < (serving 4 .open_).m.dieCutoffNs 0 ∧
    (serving 4 .open_).m.tick.phase = .open_ := by decide

theorem test_met_commit_late : (serving 4 .picking).m.stwServes 0 = true ∧ (serving 4 .picking).m.stwTurn 0 = some 3 ∧
    4 ≤ ((serving 4 .picking).m.hart 0 3).free ∧ ¬ (max (serving 4 .picking).m.tick.ns 100 < (serving 4 .picking).m.dieCutoffNs 0 ∧
      (serving 4 .picking).m.tick.phase = .open_) := by decide

/-- The system carve-out holds HBM channels 0 to 7. -/
def recsSys : Recs := [(0x0301 * 2 ^ 64 + 0xFF, setBytes (zeros 256) 8 [0xFF])]

/-- Stack 0 is trained, and the PF's bucket holds tokens. -/
def memUp : State := (composed recsSys).after (·.setMem (fun y => { y with hbmTrained := [0] }))

theorem test_met_host_write : let s := memUp
    s.memWf = true ∧ 192 % 256 + (zeros 64).length ≤ 256 ∧ s.m.allowed 0xFF 192 (zeros 64).length = true ∧ chanOf 192 < 512 ∧
    s.m.mem.migs = [] ∧ s.m.recalibrates 192 = false ∧ Live s ∧
    (s.m.takeTokens .host 0xFF (s.m.reqClass .host 0xFF 0) 192 (chargeOf true 192 (zeros 64).length) 0).2.isSome = true := by
  unfold Live; decide

def holding (us : Nat) : State := at_ (·.setTick (fun t => { t with state := .holdover, holdoverUs := us }))

set_option maxRecDepth 8000 in
theorem test_met_holdover : (holding 900000).m.tick.state = .holdover ∧
    windowAc (holding 900000).m.recs * 500 < ((holding 900000).m.skewBound + 2 * ((holding 900000).m.tick.holdoverUs / 1000)) * (holding 900000).m.slowestMHz := by
  decide

set_option maxRecDepth 8000 in
theorem test_met_holdover_within : ((holding 1000).m.skewBound + 2 * ((holding 1000).m.tick.holdoverUs / 1000)) * (holding 1000).m.slowestMHz ≤
    windowAc (holding 1000).m.recs * 500 ∧ (holding 1000).m.tick.holdoverUs < 1000000 ∧ State.reset.m.tick.state ≠ .holdover ∧
    1000000 ≤ (holding 1000000).m.tick.holdoverUs := by decide

/-- A collective of three members and seven chunks. -/
def coll3 : Coll :=
  { raw := setBytes (zeros 512) 12 [7, 0, 0, 0, 3], part := 0, ctx := 0, next := 0, counts := [], ahead := [], aborted := 0, inst := none }

theorem test_met_coll : 0 < coll3.members ∧ 6 < coll3.nChunks ∧ coll3.owned 0 1 = [0, 1] ∧ coll3.owned 1 2 = [2, 3] ∧
    coll3.owned 2 3 = [4, 5, 6] := by decide

/-- Slot 1 and migration 0 of die 0 in given states. -/
def slotMig (x : SlotState) (g : Nat) : State := at_ (fun m => (m.setComp (fun c =>
  { c with slots := [(1, { slotInit with state := x })] })).setMem (fun y =>
    { y with migs := [(0, { ddr := false, src := 0, dst := 0, size := 0, bound := 0, slice := 0, state := g, sliceDone := false, resume := false, release := false })] }))

theorem test_met_slots : ((slotMig .applied 1).m.slot 1).state = .applied ∧ ((slotMig .rejected 1).m.slot 1).state = .rejected ∧
    ((slotMig .validated 1).m.slot 1).state ≠ .applied ∧ ((slotMig .validated 1).m.slot 1).state ≠ .rejected := by decide

theorem test_met_migrations : (slotMig .free 1).m.migState 0 0 = 1 ∧ (slotMig .free 2).m.migState 0 0 ≠ 1 ∧
    (slotMig .free 2).m.migState 0 0 ≠ 4 ∧ (slotMig .free 4).m.migState 0 0 = 4 := by decide

def paired (faulty : Bool) : State := up.after (·.setTwin (fun t => { t with state := tsPAIRED, faulty := faulty }))

theorem test_met_twin_reset : (paired true).m.twin.state = tsPAIRED ∧ (paired true).m.twin.faulty = true ∧ (paired true).m.rst.good = true ∧
    (paired true).m.rst.hold = none ∧ Live (paired true) ∧ (paired false).m.twin.faulty ≠ true := by unfold Live; decide

def aQueue : Queue :=
  { state := .live, dbSlot := 2, ctx := 1, cmdVa := 0, cplVa := 0, log2 := 1, vector := 0, tail := 1, picked := 0, written := 0,
    head := 0, hostCount := 0, devCount := 0, cswBase := 0, tailSeen := 0, cmdBad := false, cplBad := false, replies := [],
    tags := [], unrefAt := [] }

/-- Queue 5 of context 1 on slot 2 with two entries: index 0 with state word `st`. -/
def queued (st : Nat) : State := up.after (fun m => m.setObj (fun o => { o with
  running := true,
  ctxs := [(1, { state := .live, lost := false, be := false, label := 0, cause := 0, part := 0xFF, pasid := 0, vd := 0, fn := 0, queues := 1,
                 hostCount := 0, devCount := 0, lostFrame := 0, stale := 0, tiles := 0, lastError := [], unrefAt := [] })],
  queues := [(5, aQueue)],
  csw := if st = 0 then [] else [(0, BitVec.ofNat 32 st)] }))

theorem test_met_queue : let s := queued 1
    s.m.servesFn 0 = true ∧ s.m.slotQueue 0 2 = some (5, aQueue) ∧ s.m.slotQueue 0 3 = none ∧
    s.m.isLockstep (s.m.queueVd aQueue) = false ∧ Live s := by unfold Live; decide

theorem test_met_tail : let k := aQueue
    subMod 32 2 k.picked ≤ 2 ^ k.log2 ∧ subMod 32 2 k.tail ≤ 2 ^ k.log2 ∧ 2 ^ k.log2 < subMod 32 3 k.picked ∧
    2 ^ k.log2 < subMod 32 0 k.tail := by decide

theorem test_met_abort : (∀ st ∈ [cswEMPTY, cswQUEUED, cswPICKED, cswDONE, cswABORTED],
      bits ((queued st).m.csw (aQueue.word 0)) 0 3 = st) ∧
    (let k := aQueue; 1 ≤ subMod 32 k.tail 0 ∧ subMod 32 k.tail 0 ≤ 2 ^ k.log2 ∧ ¬ (1 ≤ subMod 32 k.tail 1)) := by decide

/-- VF 1 with given mailbox bits. -/
def mailbox (busy pend full : Bool) : State := (composed (recs5.take 1)).after (fun m =>
  (((({ m with pcie := { m.pcie with ari := true, vfEnable := true, numVfs := 1 } }.setFld (VF_MBOX_CTRL_out_busy 1) (b2n busy)).setFld (mboxPend 1)
    (b2n pend)).setFld (VF_MBOX_CTRL_in_full 1) (b2n full)).setFld GLB_MBOX_SEL_vf 1))

theorem test_met_mailbox : ((mailbox false true false).m.vfThere 1 = true ∧ (mailbox false true false).m.flag (VF_MBOX_CTRL_out_busy 1) = false ∧
      (mailbox false true false).m.fld GLB_MBOX_SEL_vf = 1 ∧ (mailbox false true false).m.flag (mboxPend 1) = true ∧
      (mailbox false true false).m.flag (VF_MBOX_CTRL_in_full 1) = false ∧ (mailbox false true false).m.trafficOk 0 = true) ∧
    (mailbox true true true).m.flag (VF_MBOX_CTRL_out_busy 1) = true ∧ (mailbox true true true).m.flag (VF_MBOX_CTRL_in_full 1) = true := by
  decide

/-- The PF with MSI-X enabled, and vector 2047 pending. -/
def msixOn : State := at_ (fun m => { m with msixPend := [(0, 2047)], pcie := { m.pcie with msix := [(0, (true, false))] } })

theorem test_met_msix : let s := msixOn
    (0, 2047) ∉ s.m.unmasked ∧ s.m.mayLeave 0 = true ∧ s.m.quiet = false ∧ s.m.msixControl 0 = (true, false) ∧ s.m.msixPend.Nodup ∧ (0, 2047) ∈ s.m.msixPend ∧
    (0, 0) ∉ s.m.msixPend ∧ (∀ e ∈ s.m.msixPend, e ∉ s.m.unmasked) ∧
    (at_ (·.setFld HOST_CTRL_lock 1)).m.flag HOST_CTRL_lock = true := by decide

theorem test_met_msix_control : msixOn.m.fnNamed 0 = true ∧ msixOn.m.trafficOk 0 = true ∧ msixOn.m.fnNamed 64 = false ∧
    msixOn.m.trafficOk 64 = true := by decide

/-- VF 1 of a confidential partition without a Secure stream, and the PF. -/
theorem test_met_discarded : (composed recs5).m.trafficOk 1 = false ∧ (composed recs5).m.fnConf 1 = true ∧
    failedStream.m.fnConf 0 = false := by decide

def trained (gen w : Nat) : State := up.after (fun m => (m.setFld GLB_PCIE_gen gen).setFld GLB_PCIE_width w)

theorem test_met_link_change : (trained 1 0).m.pcieArmed = true ∧ widthCode 16 = some 2 ∧
    (4, 2) ≠ ((trained 1 0).m.fld GLB_PCIE_gen, (trained 1 0).m.fld GLB_PCIE_width) ∧
    SMap.wf regReset (trained 1 0).m.regs = true := by decide

/-- RESERVE cores 5, 20 and 300. -/
def spare : Module := { State.reset.m with ras := { State.reset.m.ras with reserve := [300, 20, 5] } }

theorem test_met_promised : { spare with ras := { spare.ras with retire :=
    [{ unitType := 1, unit := 4, cause := 0, frame := 0, count := 1, bound := true, promoted := some 5 }] } }.promote 3 = some 20 := by decide

theorem test_met_promote : spare.promote 3 = some 5 ∧ spare.promote 40 = some 5 ∧ spare.promote 17 = some 20 ∧
    spare.promote 500 = some 5 ∧ { spare with ras := { spare.ras with reserve := [] } }.promote 500 = none := by decide

theorem test_met_ring_head : subMod 32 (State.reset.m.reg RAS_RING_TAIL) 0 ≤ 65536 ∧
    65536 < subMod 32 (State.reset.m.reg RAS_RING_TAIL) 1 := by decide

theorem test_met_history : let s := at_ (fun m => (m.setTick (fun t => { t with frame := 10 })).setRas (fun r =>
      { r with hist := [(5, { count := 1, opened := 0, frames := 11, lines := [] }), (6, { count := 1, opened := 0, frames := 10, lines := [] })] }))
    (s.m.ras.hist.get? (0 * 2 ^ 16 + 5)).any s.m.histOpen = true ∧
    (s.m.ras.hist.get? (0 * 2 ^ 16 + 6)).any (fun h => !s.m.histOpen h) = true := by decide

theorem test_met_caps : (at_ (·.setFld PWR_INPUT_volts 4800)).m.fld PWR_INPUT_volts ≠ 0 ∧
    SMap.wf regReset (at_ (·.setFld PWR_INPUT_volts 4800)).m.regs = true ∧ State.reset.m.fld PWR_CAP_watts ≤ 6500 := by decide

theorem test_met_rom : State.reset.m.rst.stepNo ≤ 5 := by decide

theorem test_met_life_cycle : (∃ i < 4, (fun i => if i = 3 then 0x25 else 0xA5) i ≠ 0 ∧ (fun i => if i = 3 then 0x25 else 0xA5) i ≠ 0xA5) ∧
    (∀ i < 4, (fun i => if i = 1 then 0 else 0xA5) i = 0 ∨ (fun i => if i = 1 then 0 else 0xA5) i = 0xA5) ∧
    (∃ i < 4, ∃ j < 4, i < j ∧ (fun i => if i = 1 then 0 else 0xA5) i = 0 ∧ (fun i => if i = 1 then 0 else 0xA5) j = 0xA5) ∧
    (∀ i < 4, (fun _ => 0xA5) i = 0xA5) := by
  refine ⟨⟨3, by decide⟩, by decide, ⟨1, by decide, 2, by decide⟩, by decide⟩

theorem test_met_access_size : ¬ (8 = 4 ∧ 4 % 4 = 0) ∧ ¬ (8 = 8 ∧ 4 % 8 = 0) := by decide

theorem test_met_pri : (∀ r ∈ (trained 1 0).m.xlat.pages, r.sent = true) ∧ (trained 1 0).m.fld GLB_PCIE_gen ≠ 0 ∧
    8 < (trained 1 0).m.rst.stepNo ∧ (trained 1 0).m.trafficOk 0 = true := by decide

theorem test_met_pri_early : let s := (trained 1 0).after (·.setRst (fun r => { r with stepNo := 8 }))
    s.m.fld GLB_PCIE_gen ≠ 0 ∧ s.m.rst.stepNo ≤ 8 ∧ Live s ∧ State.reset.m.fld GLB_PCIE_gen = 0 := by unfold Live; decide

/-- A flit with every field at its largest value. -/
def fullFlit : Flit :=
  { flit with
    ty := 15, pos := 15, sched := true, nak := true, seqNo := 65535, ack := 65535, hops := 15, slot := 63
    dst := 65535, src := 65535, entry := 65535, body := [1] }

theorem test_met_flit : fullFlit.ty < 16 ∧ fullFlit.pos < 16 ∧ fullFlit.seqNo < 2 ^ 16 ∧ fullFlit.ack < 2 ^ 16 ∧ fullFlit.hops < 16 ∧
    fullFlit.slot < 64 ∧ fullFlit.dst < 2 ^ 16 ∧ fullFlit.src < 2 ^ 16 ∧ fullFlit.entry < 2 ^ 16 ∧ fullFlit.body.length ≤ 208 := by decide

theorem test_met_relock : State.reset.m.lcState ≠ 0 ∧ (at_ (·.setFld LCS_STATE_state 0)).m.lcState = 0 ∧ (zeros 16).length = 16 := by decide

theorem test_met_hold_off : up.m.rst.good = true ∧ up.m.rst.hold = none ∧ up.m.flag RST_CFG_perst_scope = false ∧
    (up.after (·.setFld RST_CFG_hotrst_scope 0)).m.flag RST_CFG_hotrst_scope = false ∧ 0x1D2 % 256 = 0xD2 ∧ bit 0x1D2 8 = true ∧
    bit 0xD2 8 = false := by decide

def heldOff : State := up.after (·.setRst (fun r => { r with hold := some (31, 0) }))

theorem test_met_internal_reset_assert : heldOff.m.rst.hold = some (31, 0) ∧ heldOff.m.pulseBusy = false ∧ heldOff.m.rst.holdOff = false ∧
    SMap.wf regReset heldOff.m.regs = true := by decide

/-- A journal with given superblock copies in a step of its compaction. -/
def sbs (x y : List Byte) (c : Nat) : Nvj := { Nvj.init with sbs := [x, y], compact := c }

theorem test_super_first : superFirst = superBytes 0 1 ∧ superOf superFirst = some (0, 1) := by decide +kernel

theorem test_met_superblocks : (sbs superFirst superFirst 3).sb 0 = some (0, 1) ∧ (sbs superFirst superFirst 3).sb 1 = some (0, 1) ∧
    (sbs [] superFirst 3).super = some (0, 1) ∧ (sbs superFirst [] 6).super = some (0, 1) ∧ (sbs superFirst [] 6).active < 2 ∧
    (sbs superFirst [] 6).gen + 1 < 2 ^ 64 ∧ (sbs superFirst [] 5).resuming = 0 := by decide +kernel

/-- DDR5 channel 11 in a state, with a service request busy or not. -/
def ddr (x : DdrState) (busy : Bool) : State := at_ (fun m => (m.setMem (fun y =>
  { y with ddr := [(11, { state := x, speed := 0, gib := 0, dimm := 0, x8 := false, serial := none, powered := true })] })).setFld NVJ_DDR_STATUS_status
  (b2n busy))

theorem test_met_ddr : (ddr .online true).m.fld NVJ_DDR_STATUS_status = 1 ∧ (ddr .init false).m.fld NVJ_DDR_STATUS_status ≠ 1 ∧
    (ddr .init false).m.ddrState 11 ≠ .online ∧ (ddr .init false).m.ddrState 11 ≠ .retired ∧ (ddr .online false).m.ddrState 11 = .online ∧
    (ddr .retired false).m.ddrState 11 = .retired ∧ recsOf (ddr .online false).m.recs 0x0301 = [] ∧ SMap.wf regReset (ddr .online false).m.regs = true ∧ (ddr .online false).m.mem.migs = [] := by
  decide

/-! ### Instructions of steward programs (R111): words from the RISC-V specification -/

/-- addi x5, x5, -1, from 7. -/
theorem test_rv_addi : (Hart.decode { hartInit with x := [(5, 7)] } 0x8293 0xFFF2).res = .done { hartInit with x := [(5, 6)], pc := 4 } := by
  decide

/-- c.addi sp, -16 stands for addi sp, sp, -16. -/
theorem test_rv_compressed : expandC 0x1141 = some 0xFF01_0113 := by decide

/-- Sixteen zero bits are illegal. -/
theorem test_rv_zeros_illegal : (Hart.decode hartInit 0 0).res = .trap 2 := by decide

/-- -10 divided by 3 is -3, and the remainder -1. -/
theorem test_rv_div : rvDiv 64 (2 ^ 64 - 10) 3 = 2 ^ 64 - 3 ∧ rvRem 64 (2 ^ 64 - 10) 3 = 2 ^ 64 - 1 := by decide

/-- 3.0 / 7.0 rounds to nearest, inexact. -/
theorem test_rv_fdiv : fpD.div .rne (fpD.value 0x4008_0000_0000_0000) (fpD.value 0x401C_0000_0000_0000) = (0x3FDB_6DB6_DB6D_B6DB, 1) := by
  decide

/-- vsetvli x5, x10, e32, m1 with 100 elements asked for: 16 fit. -/
theorem test_rv_vsetvli : (Hart.decode { hartInit with x := [(10, 100)] } 0x72D7 0x0105).res =
    .done { hartInit with x := [(5, 16), (10, 100)], csr := [(0xC20, 16), (0xC21, 16)], pc := 4 } := by decide

/-- A leaf of level 1 covers 2 MiB. -/
theorem test_rv_leaf : leafAddr 1 (0x600 * 2 ^ 10) 0x3F_F123 = 0x7F_F123 := by decide

end Sys2Proof.Tests
end

section
/-!
PROOF. A write of an event register clears exactly the event bits written as 1 (R8, R9), and a write of any other width or
alignment changes nothing.
-/
namespace Sys2Proof.Machine

/-! ### The bits of a word that a write leaves (R8) -/

/-- The lowest bit that a word shares with a mask, as a number. -/
theorem and_mod_two (n x : Nat) : (n &&& x) % 2 = n % 2 * (x % 2) := by
  have hpow : (n &&& x) % 2 ^ 1 = n % 2 ^ 1 &&& x % 2 ^ 1 := Nat.and_mod_two_pow
  rw [Nat.pow_one] at hpow
  rcases Nat.mod_two_eq_zero_or_one n with hn | hn <;> rcases Nat.mod_two_eq_zero_or_one x with hx | hx <;>
    rw [hpow, hn, hx] <;> rfl

/-- Taking away the shared bits takes no borrow from the lowest bit, so halving goes through. -/
theorem sub_and_div_two (n x : Nat) : (n - (n &&& x)) / 2 = n / 2 - (n / 2 &&& x / 2) := by
  have hle : n &&& x ≤ n := Nat.and_le_left
  have hdiv : (n &&& x) / 2 = n / 2 &&& x / 2 := Nat.and_div_two
  have hlow : (n &&& x) % 2 ≤ n % 2 := by
    have hx : x % 2 ≤ 1 := by omega
    rw [and_mod_two]
    exact Nat.le_trans (Nat.mul_le_mul_left _ hx) (Nat.le_of_eq (Nat.mul_one _))
  omega

/-- Taking away the bits that a word shares with a mask clears exactly the mask's bits. -/
theorem testBit_sub_and (n x i : Nat) : (n - (n &&& x)).testBit i = (n.testBit i && !x.testBit i) := by
  induction i generalizing n x with
  | zero =>
    have hle : n &&& x ≤ n := Nat.and_le_left
    have hlow := and_mod_two n x
    have hpar : (n - (n &&& x)) % 2 = n % 2 * (1 - x % 2) := by
      rcases Nat.mod_two_eq_zero_or_one n with hn | hn <;> rcases Nat.mod_two_eq_zero_or_one x with hx | hx <;>
        rw [hn, hx] at hlow ⊢ <;> omega
    rw [Nat.testBit_zero, Nat.testBit_zero, Nat.testBit_zero, hpar]
    rcases Nat.mod_two_eq_zero_or_one n with hn | hn <;> rcases Nat.mod_two_eq_zero_or_one x with hx | hx <;>
      rw [hn, hx] <;> rfl
  | succ i ih => rw [Nat.testBit_succ, Nat.testBit_succ, Nat.testBit_succ, sub_and_div_two, ih]

/-- A write without writable bits only clears the write-1-to-clear bits that are written as 1. -/
theorem testBit_writtenWord_readOnly (old w1c v i : Nat) :
    (writtenWord old 0 w1c v).testBit i = (old.testBit i && !(v.testBit i && w1c.testBit i)) := by
  simp only [writtenWord, Nat.and_zero, Nat.sub_zero, Nat.add_zero, testBit_sub_and, Nat.testBit_and]

/-! ### Event registers -/

/-- The event registers of the blocks of PF BAR0 that O9 names. -/
def eventRegs : List Nat :=
  [GLB_EVENT, TICK_EVENT, COMP_EVENT, COMP_ARM_EVENT, HOST_EVENT, XLAT_EVENT, RAS_EVENT, PWR_EVENT, SEC_EVENT, LCS_EVENT,
    RST_EVENT, NVJ_EVENT, TWIN_EVENT, SEQ_EVENT]

/-- A row of the register map without writable bits, which is no half of a 64-bit pair. -/
def RegDesc.clearOnly (d : RegDesc) : Prop := d.rw = 0 ∧ d.rwl = 0 ∧ d.pair = 0

theorem exists_descOf_eventReg {off : Nat} (h : off ∈ eventRegs) : ∃ d, descOf off = some d ∧ d.clearOnly := by
  have hall : ∀ off ∈ eventRegs, (descOf off).any (fun d => d.rw == 0 && d.rwl == 0 && d.pair == 0) = true := by decide
  simpa [RegDesc.clearOnly, Option.any_eq_true, and_assoc] using hall off h

/-- A write of a register without writable bits sets it to its word with the written event bits cleared. -/
theorem Module.plainWrite_clearOnly {off : Nat} {d : RegDesc} (hd : descOf off = some d) (hc : d.clearOnly)
    (m : Module) (v : Nat) : m.plainWrite off v = m.setReg off (writtenWord (m.reg off) 0 d.w1c v) := by
  obtain ⟨hrw, hrwl, hpair⟩ := hc
  simp [plainWrite, hd, writeMask, hrw, hrwl, hpair]

/-- No value written to an event register is ignored, and none starts anything. -/
theorem Module.writeReg_eventReg {off : Nat} (h : off ∈ eventRegs) (m : Module) (v : Nat) (f : WriteFacts) :
    m.writeReg off v f = m.plainWrite off v := by
  simp only [eventRegs, List.mem_cons, List.not_mem_nil, or_false] at h
  rcases h with rfl | rfl | rfl | rfl | rfl | rfl | rfl | rfl | rfl | rfl | rfl | rfl | rfl | rfl <;> rfl

theorem eventReg_aligned {off : Nat} (h : off ∈ eventRegs) : off % 4 = 0 := by
  have hall : ∀ off ∈ eventRegs, off % 4 = 0 := by decide
  exact hall off h

/-- A register without writable bits, after a write of it, reads as its word with the written event bits cleared. -/
theorem Module.testBit_reg_plainWrite_clearOnly {m : Module} (hwf : m.regsWf) {off : Nat} {d : RegDesc}
    (hd : descOf off = some d) (hc : d.clearOnly) (v : Nat) {i : Nat} (hi : i < 32) :
    ((m.plainWrite off v).reg off).testBit i = ((m.reg off).testBit i && !(v.testBit i && d.w1c.testBit i)) := by
  rw [plainWrite_clearOnly hd hc, reg_setReg_same hwf, Nat.testBit_mod_two_pow, testBit_writtenWord_readOnly]
  simp [hi]

/-! ### Register accesses of the host (R8, R343, R344) -/

/-- What a write of a register space does while the internal reset is not asserted. -/
theorem exec_registerWrite {s : State} (hl : Live s) (sp off len v : Nat) (f : WriteFacts) :
    exec (.registerWrite sp off len true v f) s = .next (s.after (effRegisterWrite sp off len true v f)) :=
  runOn_live hl _

/-- While the PF's traffic is not accepted, its writes change nothing: the PF is not confidential, so that the discarded
TLP is no refused access. -/
theorem effRegisterWrite_pf_discarded {m : Module} (ht : m.trafficOk 0 = false) (off len v : Nat) (f : WriteFacts) :
    effRegisterWrite 0 off len true v f m = m := by
  simp [effRegisterWrite, ht, Module.dropTlp, Module.fnConf]

/-- A write that is no aligned access of 32 or of 64 bits changes nothing. -/
theorem effRegisterWrite_misfit {m : Module} {sp off len : Nat} (ht : m.trafficOk (if sp = 65 then 0 else sp) = true)
    (h4 : ¬ (len = 4 ∧ off % 4 = 0)) (h8 : ¬ (len = 8 ∧ off % 8 = 0)) (v : Nat) (f : WriteFacts) :
    effRegisterWrite sp off len true v f m = m := by
  simp [effRegisterWrite, ht, h4, h8]

/-- An accepted aligned 32-bit write of a register of the PF is a write of that register. -/
theorem effRegisterWrite_pf_word {m : Module} (ht : m.trafficOk 0 = true) {off v : Nat} (ha : off % 4 = 0) (hv : v < 2 ^ 32)
    (f : WriteFacts) : effRegisterWrite 0 off 4 true v f m = m.writeReg off v f := by
  have hlow : v % 4294967296 = v := Nat.mod_eq_of_lt hv
  simp [effRegisterWrite, ht, ha, Module.writeWord, hlow]

/-- Settles O9: an event register has no writable bits and its write starts nothing, so a write of it is one of its own
word, in which the bits that are written as 1 and are event bits clear. -/
theorem eventBitsClearByWritingOne : Obligations.EventBitsClearByWritingOne := by
  unfold Obligations.EventBitsClearByWritingOne
  refine ⟨fun s sp off len v f hl ht h4 h8 => ?_, fun s off v f hl hwf hv => ⟨fun ht => ?_, fun ht hoff => ?_⟩⟩
  · rw [exec_registerWrite hl, State.after, effRegisterWrite_misfit ht h4 h8]
  · rw [exec_registerWrite hl, State.after, effRegisterWrite_pf_discarded ht]
  · obtain ⟨d, hd, hc⟩ := exists_descOf_eventReg hoff
    have heff : effRegisterWrite 0 off 4 true v f s.m = s.m.plainWrite off v := by
      rw [effRegisterWrite_pf_word ht (eventReg_aligned hoff) hv, Module.writeReg_eventReg hoff]
    refine ⟨d, s.after (fun m => m.plainWrite off v), hd, ?_, ?_, fun i hi => ?_, fun other hne => ?_⟩
    · rw [exec_registerWrite hl, State.after, heff, State.after]
    · simp only [State.after, Module.plainWrite_clearOnly hd hc]
      rfl
    · exact Module.testBit_reg_plainWrite_clearOnly hwf hd hc v hi
    · rw [State.after_m, Module.plainWrite_clearOnly hd hc, Module.reg_setReg_other hwf _ hne]

/-- The state after reset with four events of GLB_EVENT set meets the hypotheses of O9, and a write of 5 leaves events 1 and
3 set. -/
theorem exists_state_with_glbEvents : ∃ s : State, Live s ∧ s.m.regsWf ∧ s.m.trafficOk 0 = true ∧ s.m.reg GLB_EVENT = 0xF ∧
    ((s.m.writeReg GLB_EVENT 5 ⟨true, true, [], 0⟩).reg GLB_EVENT) = 0xA := by
  refine ⟨State.reset.after (fun m => m.setReg GLB_EVENT 0xF), rfl, ?_, ?_, ?_, ?_⟩
  · exact Module.regsWf_setReg (by unfold Module.regsWf; decide) _ _
  · decide
  · decide
  · decide

end Sys2Proof.Machine
end

section
/-!
PROOF. The commands of frames and the shutter: an idle core starts the first LC tile that is ready and fits, else the first
such BE tile (R15, R16, R412), and every command of the family completes.
-/
namespace Sys2Proof.Machine

/-- Two effects that agree on the module of a state lead to the same state. -/
theorem State.after_congr {s : State} {f g : Module → Module} (h : f s.m = g s.m) : s.after f = s.after g := by
  simp only [State.after, h]

/-- An effect that leaves the module of a state alone leaves the state alone. -/
theorem State.after_eq_self {s : State} {f : Module → Module} (h : f s.m = s.m) : s.after f = s := by
  simp only [State.after, h]

/-! ### The search for a tile (R15) -/

section
variable {m : Module} {c ac : Nat} {be : Bool}

/-- The sequencer takes the tile at hand when it can start, and goes on behind it otherwise. -/
theorem Module.pickTile_go_cons (before rest : List Tile) (t : Tile) [Decidable (CanStart m c ac be before t)] :
    pickTile.go m c ac be before (t :: rest) =
      if CanStart m c ac be before t then some t else pickTile.go m c ac be (before ++ [t]) rest := by
  rw [pickTile.go]
  refine ite_congr (propext ?_) (fun _ => rfl) (fun _ => rfl)
  rcases hk : t.cmdKey with _ | ⟨q, i⟩ <;> simp [CanStart, hk, and_assoc]

/-- The search skips the tiles that cannot start, and takes the one that can. -/
theorem Module.pickTile_go_eq_some {before pre post : List Tile} {t : Tile} (ht : CanStart m c ac be (before ++ pre) t)
    (hpre : ∀ p q u, pre = p ++ u :: q → ¬ CanStart m c ac be (before ++ p) u) :
    pickTile.go m c ac be before (pre ++ t :: post) = some t := by
  classical
  induction pre generalizing before with
  | nil =>
    have ht : CanStart m c ac be before t := by simpa using ht
    rw [List.nil_append, pickTile_go_cons, if_pos ht]
  | cons u pre ih =>
    have hu : ¬ CanStart m c ac be before u := by simpa using hpre [] pre u rfl
    rw [List.cons_append, pickTile_go_cons, if_neg hu]
    refine ih (by simpa using ht) fun p q v hv => ?_
    simpa using hpre (u :: p) q v (by rw [hv, List.cons_append])

/-- The search of a list in which no tile can start finds none. -/
theorem Module.pickTile_go_eq_none {before l : List Tile}
    (hl : ∀ p q u, l = p ++ u :: q → ¬ CanStart m c ac be (before ++ p) u) : pickTile.go m c ac be before l = none := by
  classical
  induction l generalizing before with
  | nil => rfl
  | cons u l ih =>
    have hu : ¬ CanStart m c ac be before u := by simpa using hl [] l u rfl
    rw [pickTile_go_cons, if_neg hu]
    refine ih fun p q v hv => ?_
    simpa using hl (u :: p) q v (by rw [hv, List.cons_append])

theorem Module.pickTile_of_firstStart {t : Tile} (h : FirstStart m c ac be t) : m.pickTile c ac be = some t := by
  obtain ⟨pre, post, hlists, ht, hpre⟩ := h
  rw [pickTile, hlists]
  exact pickTile_go_eq_some ht hpre

theorem Module.pickTile_of_noneStarts (h : NoneStarts m c ac be) : m.pickTile c ac be = none :=
  pickTile_go_eq_none h

end

/-! ### TILE_READY (R15, R16, R412) -/

/-- The module with the time of an event at cycle `ac` of core `c`'s block in TICK_PHASE (log entry 62). -/
def Module.timedAt (m : Module) (c ac : Nat) : Module := m.setTick (fun t => { t with ns := ac * 1000 / m.blockMHz c })

/-! The time of an event decides nothing about which tile can start. -/

theorem firstStart_timedAt {m : Module} {c ac : Nat} {be : Bool} {t : Tile} :
    FirstStart (m.timedAt c ac) c ac be t ↔ FirstStart m c ac be t := Iff.rfl

theorem noneStarts_timedAt {m : Module} {c ac : Nat} {be : Bool} :
    NoneStarts (m.timedAt c ac) c ac be ↔ NoneStarts m c ac be := Iff.rfl

theorem Module.flag_timedAt (m : Module) (c ac : Nat) (f : Fld) : (m.timedAt c ac).flag f = m.flag f := rfl

/-- The tile leaves the lists and runs on the core from cycle `ac`, and the core's fog stops (R16, R414). -/
def Module.startTile (m : Module) (c ac : Nat) (t : Tile) : Module :=
  (({ m with lists := m.lists.filter (fun x => x.uid != t.uid) } : Module).modCore c
    (fun k => { k with run := some (runInit t ac), acc := none, lastCtx := some t.ctx })).fogStop c

/-- The BE tile that the sequencer would start: none while BE is suspended on the die (R412). -/
def Module.beTile (m : Module) (c ac : Nat) : Option Tile :=
  if m.flag (PWR_DIE_be_suspended (c / 128)) then none else m.pickTile c ac true

/-- The tile that the sequencer starts: LC before BE. -/
def Module.nextTile (m : Module) (c ac : Nat) : Option Tile := (m.pickTile c ac false).or (m.beTile c ac)

/-- TILE_READY starts the next tile, if there is one, on an idle core in an open frame; else it sets the time alone. -/
theorem effTileReady_eq (m : Module) (c ac : Nat) :
    effTileReady c ac m =
      if m.tick.phase != .open_ || (m.running? c).isSome || (m.core c).clearing || m.quiet then m.timedAt c ac
      else ((m.timedAt c ac).nextTile c ac).elim (m.timedAt c ac) ((m.timedAt c ac).startTile c ac) := by
  refine ite_congr rfl (fun _ => rfl) fun _ => ?_
  change (match (match (m.timedAt c ac).pickTile c ac false with | some t => some t | none => (m.timedAt c ac).beTile c ac) with
    | none => m.timedAt c ac
    | some t => (m.timedAt c ac).startTile c ac t) = _
  rw [Module.nextTile]
  cases (m.timedAt c ac).pickTile c ac false with
  | some t => rfl
  | none => cases (m.timedAt c ac).beTile c ac <;> rfl

theorem effTileReady_idle {m : Module} {c : Nat} (hphase : m.tick.phase = .open_) (hrun : m.running? c = none)
    (hclear : (m.core c).clearing = false) (hquiet : m.quiet = false) (ac : Nat) :
    effTileReady c ac m = ((m.timedAt c ac).nextTile c ac).elim (m.timedAt c ac) ((m.timedAt c ac).startTile c ac) := by
  rw [effTileReady_eq, if_neg (by simp [hphase, hrun, hclear, hquiet])]

/-- The first LC tile that can start is next; the first BE tile is when no LC tile can start and BE is not suspended. -/
theorem Module.nextTile_eq_some {m : Module} {c ac : Nat} {t : Tile}
    (h : FirstStart m c ac false t ∨
      (NoneStarts m c ac false ∧ m.flag (PWR_DIE_be_suspended (c / 128)) = false ∧ FirstStart m c ac true t)) :
    m.nextTile c ac = some t := by
  rcases h with hlc | ⟨hlc, hsusp, hbe⟩
  · simp [nextTile, pickTile_of_firstStart hlc]
  · simp [nextTile, beTile, pickTile_of_noneStarts hlc, hsusp, pickTile_of_firstStart hbe]

theorem Module.nextTile_eq_none {m : Module} {c ac : Nat} (hlc : NoneStarts m c ac false)
    (hbe : m.flag (PWR_DIE_be_suspended (c / 128)) = true ∨ NoneStarts m c ac true) : m.nextTile c ac = none := by
  rcases hbe with hsusp | hbe
  · simp [nextTile, beTile, pickTile_of_noneStarts hlc, hsusp]
  · simp [nextTile, beTile, pickTile_of_noneStarts hlc, pickTile_of_noneStarts hbe]

/-- While neither a hold-off nor the internal reset is in force, the module is not quiet. -/
theorem Module.quiet_of_live {s : State} (hl : Live s) (hhold : s.m.rst.hold = none) : s.m.quiet = false := by
  unfold Live at hl
  simp [Module.quiet, hhold, hl]

theorem exec_tileReady {s : State} (hl : Live s) (c ac : Nat) : exec (.tileReady c ac) s = .next (s.after (effTileReady c ac)) :=
  runOn_live hl _

/-- Settles O11: the search over the lists takes the first tile that can start, LC before BE, and setting the time of the
event changes nothing that the search reads. -/
theorem sequencerStartsFirstThatFits : Obligations.SequencerStartsFirstThatFits := by
  unfold Obligations.SequencerStartsFirstThatFits
  intro s c ac hl hhold hphase hrun hclear
  have heff := effTileReady_idle hphase hrun hclear (Module.quiet_of_live hl hhold) ac
  refine ⟨fun t ht => ?_, fun hlc hbe => ?_⟩
  · have hnext : (s.m.timedAt c ac).nextTile c ac = some t :=
      Module.nextTile_eq_some (by simpa only [firstStart_timedAt, noneStarts_timedAt, Module.flag_timedAt] using ht)
    rw [exec_tileReady hl]
    exact congrArg _ (State.after_congr (by rw [heff, hnext]; rfl))
  · have hnext : (s.m.timedAt c ac).nextTile c ac = none :=
      Module.nextTile_eq_none (noneStarts_timedAt.mpr hlc) (by simpa only [noneStarts_timedAt, Module.flag_timedAt] using hbe)
    rw [exec_tileReady hl]
    exact congrArg _ (State.after_congr (by rw [heff, hnext]; rfl))

/-- Settles O43: each command of the family runs its effect while the internal reset is not asserted. -/
theorem frameCommandsComplete : Obligations.FrameCommandsComplete := by
  unfold Obligations.FrameCommandsComplete
  intro s hl
  exact ⟨fun _ _ => runOn_live hl _, runOn_live hl _, runOn_live hl _, exec_tileReady hl, fun _ _ => runOn_live hl _⟩

end Sys2Proof.Machine
end

section
/-!
PROOF. The commands of the tick: in HOLDOVER sending in scheduled slots stops beyond the limit of R39 and the module becomes
ORPHAN after 1 s (R41), and every command of the family completes.
-/
namespace Sys2Proof.Machine

theorem exec_slotsHeld {s : State} (hl : Live s) : exec .slotsHeld s = .next (s.after effSlotsHeld) := runOn_live hl _

theorem exec_tickOrphan {s : State} (hl : Live s) : exec .tickOrphan s = .next (s.after effTickOrphan) := runOn_live hl _

/-! ### Scheduled slots in HOLDOVER (R39) -/

/-- Scheduled slots may be used within the limit. -/
theorem Module.slotsAllowed_iff (m : Module) :
    m.slotsAllowed = true ↔ (m.skewBound + 2 * (m.tick.holdoverUs / 1000)) * m.slowestMHz ≤ windowAc m.recs * 500 := by
  rw [slotsAllowed, decide_eq_true_iff]

theorem effSlotsHeld_beyond {m : Module} (hstate : m.tick.state = .holdover) (hlimit : m.slotsAllowed = false) :
    effSlotsHeld m = m.setTick (fun t => { t with slotsHeld := true }) := by
  simp [effSlotsHeld, hstate, hlimit]

theorem effSlotsHeld_within {m : Module} (h : m.tick.state ≠ .holdover ∨ m.slotsAllowed = true) : effSlotsHeld m = m := by
  rcases h with hstate | hlimit
  · simp [effSlotsHeld, hstate]
  · simp [effSlotsHeld, hlimit]

/-! ### From HOLDOVER to ORPHAN (R41) -/

theorem effTickOrphan_after {m : Module} (hstate : m.tick.state = .holdover) (hus : 1000000 ≤ m.tick.holdoverUs) :
    effTickOrphan m = (m.setTick (fun t => { t with state := .orphan, slotsHeld := true, nextShift := 0 })).raiseIf
      TICK_EVENT_orphan (m.flag TICK_CTRL_orphan_irq_en) := by
  simp [effTickOrphan, hstate, hus]

theorem effTickOrphan_before {m : Module} (h : m.tick.state ≠ .holdover ∨ m.tick.holdoverUs < 1000000) : effTickOrphan m = m := by
  rcases h with hstate | hus
  · simp [effTickOrphan, hstate]
  · simp [effTickOrphan, Nat.not_le.mpr hus]

/-- Settles O24: each bound of the statement is the one that the effect tests. -/
theorem holdoverEndsScheduledSlots : Obligations.HoldoverEndsScheduledSlots := by
  unfold Obligations.HoldoverEndsScheduledSlots
  intro s hl
  rw [exec_slotsHeld hl, exec_tickOrphan hl]
  refine ⟨fun hstate hlimit => ?_, fun h => ?_, fun hstate hus => ?_, fun h => ?_⟩
  · have hlimit : s.m.slotsAllowed = false := by
      rw [← Bool.not_eq_true, Module.slotsAllowed_iff]
      exact Nat.not_le.mpr hlimit
    exact congrArg _ (State.after_congr (effSlotsHeld_beyond hstate hlimit))
  · rw [← Module.slotsAllowed_iff] at h
    exact congrArg _ (State.after_eq_self (effSlotsHeld_within h))
  · exact congrArg _ (State.after_congr (effTickOrphan_after hstate hus))
  · exact congrArg _ (State.after_eq_self (effTickOrphan_before h))

/-- Settles O50: each command of the family runs its effect while the internal reset is not asserted. -/
theorem tickCommandsComplete : Obligations.TickCommandsComplete := by
  unfold Obligations.TickCommandsComplete
  intro s hl
  exact ⟨fun _ _ _ _ _ _ _ => runOn_live hl _, runOn_live hl _, runOn_live hl _, exec_slotsHeld hl, runOn_live hl _,
    exec_tickOrphan hl, fun _ => runOn_live hl _, runOn_live hl _, fun _ => runOn_live hl _, runOn_live hl _,
    fun _ _ _ _ _ _ _ => runOn_live hl _, fun _ _ _ _ _ => runOn_live hl _, fun _ _ _ _ _ _ => runOn_live hl _,
    fun _ _ _ _ _ => runOn_live hl _, fun _ => runOn_live hl _, fun _ _ => runOn_live hl _, runOn_live hl _⟩

end Sys2Proof.Machine
end

section
/-!
PROOF. The arithmetic of the tile core: an accumulator element holds the same sum in whatever order its terms arrive
(R53 to R56), and mix64 is a bijection on 64-bit values (R68).
-/
namespace Sys2Proof.Machine

/-! ### The register of an element (R54) -/

theorem wrap144_congr (v : Int) : (wrap144 v - v) % 2 ^ 144 = 0 := by
  unfold wrap144
  omega

theorem wrap144_mem (v : Int) : -2 ^ 143 ≤ wrap144 v ∧ wrap144 v < 2 ^ 143 := by
  unfold wrap144
  omega

/-- A sum that was reduced on the way is the sum that is reduced at the end. -/
theorem wrap144_wrap144_add (v x : Int) : wrap144 (wrap144 v + x) = wrap144 (v + x) := by
  unfold wrap144
  omega

/-! ### What a term does to each part of an element (R53 to R56) -/

/-- The rounded term that a finite value gives under an anchor: a multiple of 2^(a - 111) (R53). -/
def roundedTerm (a : Int) (neg : Bool) (n : Nat) (e : Int) : Int := rneScale (if neg then -(n : Int) else n) (e - (a - 111))

/-- The register after a term: a term that is not finite adds nothing (R54, R56). -/
def addToRegister (a v : Int) : Num → Int
  | .fin neg n e => wrap144 (v + roundedTerm a neg n e)
  | _ => v

/-- The special class of a term (R56). -/
def Num.accClass : Num → AccClass
  | .nan => .nan
  | .inf neg => if neg then .negInf else .posInf
  | .fin _ _ _ => .finite

/-- Is the rounded term too large to be held exactly (R55)? -/
def Num.faultsUnder (a : Int) : Num → Bool
  | .fin neg n e => decide ((roundedTerm a neg n e).natAbs ≥ 2 ^ 127)
  | _ => false

section
variable (a : Int) (c : AccCell) (t : Num × Flags)

theorem addTerm_val : (addTerm a c t).val = addToRegister a c.val t.1 := by
  obtain ⟨_ | _ | _, _⟩ := t <;> rfl

theorem combineClass_finite (k : AccClass) : combineClass k .finite = k := by
  cases k <;> rfl

theorem addTerm_cls : (addTerm a c t).cls = combineClass c.cls t.1.accClass := by
  obtain ⟨_ | _ | _, _⟩ := t
  case nan => rfl
  case inf => rfl
  case fin => exact (combineClass_finite c.cls).symm

theorem addTerm_afault : (addTerm a c t).afault = (c.afault || t.1.faultsUnder a) := by
  obtain ⟨_ | _ | _, _⟩ := t
  case nan => exact (Bool.or_false _).symm
  case inf => exact (Bool.or_false _).symm
  case fin => rfl

end

/-! ### Two terms in either order -/

/-- Two terms add to the register in either order: one that is not finite adds nothing, and two finite ones add modulo 2^144. -/
theorem addToRegister_right_comm (a v : Int) (x y : Num) :
    addToRegister a (addToRegister a v x) y = addToRegister a (addToRegister a v y) x := by
  cases x <;> cases y
  case fin.fin => simp only [addToRegister, wrap144_wrap144_add, Int.add_right_comm]
  all_goals rfl

/-- The table of R56 is commutative in the terms. -/
theorem combineClass_right_comm (c k l : AccClass) : combineClass (combineClass c k) l = combineClass (combineClass c l) k := by
  cases c <;> cases k <;> cases l <;> rfl

/-- A part of an element that each term changes by an operation that takes terms in either order does not depend on the order
of the terms. -/
theorem foldl_addTerm_perm {β : Type} {a : Int} {part : AccCell → β} {f : β → Num → β}
    (hpart : ∀ c t, part (addTerm a c t) = f (part c) t.1) (hcomm : ∀ v x y, f (f v x) y = f (f v y) x)
    (c : AccCell) {l l' : List (Num × Flags)} (h : l.Perm l') :
    part (l.foldl (addTerm a) c) = part (l'.foldl (addTerm a) c) := by
  have hfold (l : List (Num × Flags)) : l.foldl (fun v t => f v t.1) (part c) = part (l.foldl (addTerm a) c) :=
    List.foldl_hom part fun c t => (hpart c t).symm
  rw [← hfold, ← hfold]
  exact h.foldl_eq' (fun x _ y _ v => hcomm v x.1 y.1) (part c)

/-- Settles O14: the register, the class and afault are each changed by an operation that takes terms in either order. -/
theorem termsAddInAnyOrder : Obligations.TermsAddInAnyOrder := by
  unfold Obligations.TermsAddInAnyOrder
  refine ⟨fun a c neg n e fl => ?_, fun a c l l' h => ⟨?_, ?_, ?_⟩⟩
  · rw [addTerm_val]
    exact ⟨wrap144_congr _, wrap144_mem _⟩
  · exact foldl_addTerm_perm (addTerm_val a) (addToRegister_right_comm a) c h
  · exact foldl_addTerm_perm (f := fun k x => combineClass k x.accClass) (addTerm_cls a)
      (fun k x y => combineClass_right_comm k x.accClass y.accClass) c h
  · exact foldl_addTerm_perm (f := fun b x => b || x.faultsUnder a) (addTerm_afault a)
      (fun b x y => Bool.or_right_comm b (x.faultsUnder a) (y.faultsUnder a)) c h

/-! ### Undoing an xor-shift and an odd factor (R68) -/

/-- A value xored with itself shifted down. -/
def xorShift (s x : Nat) : Nat := x ^^^ (x >>> s)

/-- Undoes an xor-shift of a 64-bit value by a third of its width or more. -/
def unXorShift (s y : Nat) : Nat := xorShift s y ^^^ (y >>> (s + s))

theorem xorShift_lt {x : Nat} (s : Nat) (hx : x < 2 ^ 64) : xorShift s x < 2 ^ 64 :=
  Nat.xor_lt_two_pow hx (Nat.lt_of_le_of_lt (Nat.shiftRight_le x s) hx)

theorem unXorShift_lt {y : Nat} (s : Nat) (hy : y < 2 ^ 64) : unXorShift s y < 2 ^ 64 :=
  Nat.xor_lt_two_pow (xorShift_lt s hy) (Nat.lt_of_le_of_lt (Nat.shiftRight_le y (s + s)) hy)

/-- A value that stands on both sides of an xor drops out of it. -/
theorem xor_xor_cancel_middle (a b c : Nat) : (a ^^^ b) ^^^ (b ^^^ c) = a ^^^ c := by
  rw [Nat.xor_assoc, ← Nat.xor_assoc b b c, Nat.xor_self, Nat.zero_xor]

/-- Three shifts by s move every bit of a 64-bit value out. -/
theorem shiftRight_three_eq_zero {s x : Nat} (hs : 64 ≤ s + s + s) (hx : x < 2 ^ 64) : x >>> (s + s + s) = 0 := by
  rw [Nat.shiftRight_eq_div_pow]
  exact Nat.div_eq_of_lt (Nat.lt_of_lt_of_le hx (Nat.pow_le_pow_right (by decide) hs))

/-- The shifts of x by s and by 2 s cancel, and the shift by 3 s is 0. -/
theorem unXorShift_xorShift {s x : Nat} (hs : 64 ≤ s + s + s) (hx : x < 2 ^ 64) : unXorShift s (xorShift s x) = x := by
  unfold unXorShift xorShift
  rw [Nat.shiftRight_xor_distrib, Nat.shiftRight_xor_distrib, ← Nat.shiftRight_add, ← Nat.shiftRight_add,
    xor_xor_cancel_middle, Nat.add_comm s (s + s), xor_xor_cancel_middle, shiftRight_three_eq_zero hs hx, Nat.xor_zero]

theorem xorShift_unXorShift {s y : Nat} (hs : 64 ≤ s + s + s) (hy : y < 2 ^ 64) : xorShift s (unXorShift s y) = y := by
  unfold unXorShift xorShift
  rw [Nat.shiftRight_xor_distrib, Nat.shiftRight_xor_distrib, ← Nat.shiftRight_add, ← Nat.shiftRight_add,
    shiftRight_three_eq_zero hs hy, Nat.xor_zero, Nat.xor_assoc y, Nat.xor_assoc y (_ ^^^ _), Nat.xor_self, Nat.xor_zero]

/-- Factors that are inverse modulo 2^64 undo each other on 64-bit values. -/
theorem mul_mod_mul_mod_of_inverse {k k' x : Nat} (hk : k * k' % 2 ^ 64 = 1) (hx : x < 2 ^ 64) :
    x * k % 2 ^ 64 * k' % 2 ^ 64 = x := by
  calc x * k % 2 ^ 64 * k' % 2 ^ 64 = x * (k * k') % 2 ^ 64 := by rw [Nat.mod_mul_mod, Nat.mul_assoc]
    _ = x * (k * k' % 2 ^ 64) % 2 ^ 64 := by rw [Nat.mul_mod_mod]
    _ = x := by rw [hk, Nat.mul_one, Nat.mod_eq_of_lt hx]

/-! ### The steps of mix64 and what undoes them (R68) -/

theorem mixStep_eq_xorShift_mul (s k x : Nat) : mixStep s k x = xorShift s x * k % 2 ^ 64 := rfl

/-- Undoes the step of a shift s and a factor whose inverse modulo 2^64 is k. -/
def unmixStep (s k y : Nat) : Nat := unXorShift s (y * k % 2 ^ 64)

theorem mixStep_lt (s k x : Nat) : mixStep s k x < 2 ^ 64 := Nat.mod_lt _ (Nat.two_pow_pos 64)

theorem unmixStep_lt (s k y : Nat) : unmixStep s k y < 2 ^ 64 := unXorShift_lt s (Nat.mod_lt _ (Nat.two_pow_pos 64))

theorem unmixStep_mixStep {s k k' x : Nat} (hs : 64 ≤ s + s + s) (hk : k * k' % 2 ^ 64 = 1) (hx : x < 2 ^ 64) :
    unmixStep s k' (mixStep s k x) = x := by
  rw [unmixStep, mixStep_eq_xorShift_mul, mul_mod_mul_mod_of_inverse hk (xorShift_lt s hx), unXorShift_xorShift hs hx]

theorem mixStep_unmixStep {s k k' y : Nat} (hs : 64 ≤ s + s + s) (hk : k * k' % 2 ^ 64 = 1) (hy : y < 2 ^ 64) :
    mixStep s k (unmixStep s k' y) = y := by
  rw [unmixStep, mixStep_eq_xorShift_mul, xorShift_unXorShift hs (Nat.mod_lt _ (Nat.two_pow_pos 64))]
  exact mul_mod_mul_mod_of_inverse (by rwa [Nat.mul_comm]) hy

/-! ### mix64 and its inverse (R68) -/

/-- mix64 is the chain of its steps. -/
theorem mix64_of_lt {x : Nat} (hx : x < 2 ^ 64) : mix64 x = xorShift 29 (mixStep 33 0xC39E_4A71_D85B_16F3
    (mixStep 27 0x6B1D_E85A_0F37_C2A5 (mixStep 31 0xA4C2_7F1B_93D6_5E07 x))) := by
  rw [mix64, Nat.mod_eq_of_lt hx, xorShift]

/-- The steps of mix64 undone, the last one first. -/
def unmix64 (y : Nat) : Nat :=
  unmixStep 31 0x8D67_AF1B_5DA4_AFB7 (unmixStep 27 0x1E9C_7B1C_F6AA_552D (unmixStep 33 0x14C4_C4FA_4F70_F23B (unXorShift 29 y)))

theorem mix64_lt {x : Nat} (hx : x < 2 ^ 64) : mix64 x < 2 ^ 64 := by
  rw [mix64_of_lt hx]
  exact xorShift_lt 29 (mixStep_lt 33 _ _)

theorem unmix64_lt (y : Nat) : unmix64 y < 2 ^ 64 := unmixStep_lt 31 _ _

theorem unmix64_mix64 {x : Nat} (hx : x < 2 ^ 64) : unmix64 (mix64 x) = x := by
  rw [mix64_of_lt hx, unmix64, unXorShift_xorShift (by decide) (mixStep_lt 33 _ _),
    unmixStep_mixStep (by decide) (by decide) (mixStep_lt 27 _ _),
    unmixStep_mixStep (by decide) (by decide) (mixStep_lt 31 _ _), unmixStep_mixStep (by decide) (by decide) hx]

theorem mix64_unmix64 {y : Nat} (hy : y < 2 ^ 64) : mix64 (unmix64 y) = y := by
  rw [mix64_of_lt (unmix64_lt y), unmix64, mixStep_unmixStep (by decide) (by decide) (unmixStep_lt 27 _ _),
    mixStep_unmixStep (by decide) (by decide) (unmixStep_lt 33 _ _),
    mixStep_unmixStep (by decide) (by decide) (unXorShift_lt 29 hy), xorShift_unXorShift (by decide) hy]

/-- Settles O15: unmix64 undoes mix64 on either side. -/
theorem mix64IsABijection : Obligations.Mix64IsABijection := by
  unfold Obligations.Mix64IsABijection
  refine ⟨fun _ hx => mix64_of_lt hx, fun _ hx => mix64_lt hx, fun x hx y hy h => ?_,
    fun y hy => ⟨unmix64 y, unmix64_lt y, mix64_unmix64 hy⟩, by decide⟩
  calc x = unmix64 (mix64 x) := (unmix64_mix64 hx).symm
    _ = unmix64 (mix64 y) := by rw [h]
    _ = y := unmix64_mix64 hy

end Sys2Proof.Machine
end

section
/-!
PROOF. The tile ops and the injections: an op that meets no hazard issues with its own effect or, selected off, as an empty op
(R83 to R101), an injection arms its one error (R110, R149, R240, R328), and every command of the family completes.
-/
namespace Sys2Proof.Machine

/-! ### One core's record (R73) -/

/-- The last record put under an identifier is the one that stands. -/
@[simp] theorem Tbl.put_put_same {α : Type} (t : Tbl α) (k : Nat) (v w : α) : (t.put k v).put k w = t.put k w := by
  induction t with
  | nil => simp [put]
  | cons e t ih =>
    obtain ⟨j, u⟩ := e
    by_cases hjk : j = k
    · simp [put, hjk]
    · by_cases hkj : k < j
      · simp [put, hjk, hkj]
      · simp [put, hjk, hkj, ih]

@[simp] theorem Module.core_setCore_same (m : Module) (c : Nat) (k : Core) : (m.setCore c k).core c = k := by
  simp [core]

@[simp] theorem Module.setCore_setCore_same (m : Module) (c : Nat) (k l : Core) : (m.setCore c k).setCore c l = m.setCore c l := by
  simp [setCore]

theorem Module.modCore_modCore (m : Module) (c : Nat) (f g : Core → Core) :
    (m.modCore c f).modCore c g = m.modCore c (fun k => g (f k)) := by
  simp [modCore]

/-- A change of a core's record is what it makes of the record that is there. -/
theorem Module.modCore_congr {m : Module} {c : Nat} {f g : Core → Core} (h : f (m.core c) = g (m.core c)) :
    m.modCore c f = m.modCore c g := congrArg (m.setCore c) h

theorem Module.modRun_modRun (m : Module) (c : Nat) (f g : Running → Running) :
    (m.modRun c f).modRun c g = m.modRun c (fun r => g (f r)) := by
  simp [modRun, modCore_modCore, Function.comp_def]

theorem Module.modRun_congr {m : Module} {c : Nat} {r : Running} {f g : Running → Running} (hrun : (m.core c).run = some r)
    (h : f r = g r) : m.modRun c f = m.modRun c g := by
  refine modCore_congr ?_
  simp only [hrun, Option.map_some, h]

@[simp] theorem Module.core_noteIssue (m : Module) (c d : Nat) : (m.noteIssue c).core d = m.core d := by
  unfold noteIssue
  split <;> rfl

@[simp] theorem Module.noteIssue_obj (m : Module) (c : Nat) : (m.noteIssue c).obj = m.obj := by
  unfold noteIssue
  split <;> rfl

@[simp] theorem Module.core_accOf (m : Module) (c d : Nat) : (m.accOf c).1.core d = m.core d := by
  unfold accOf
  split <;> rfl

@[simp] theorem Core.mma_bad (k : Core) (o : MmaOp) (a : Acc) : (k.mma o a).1.bad = a.bad := rfl

/-- Clearing a residue error that is not armed adds nothing to a new accumulator. -/
theorem Module.setAcc_of_residueClear {m : Module} {c : Nat} (h : (m.core c).injResidue = false) (a : Acc) :
    (m.modCore c (fun k => { k with injResidue := false })).setAcc c a = m.setAcc c a := by
  rw [setAcc, modCore_modCore]
  exact modCore_congr (by simp [h])

/-! ### Issue (R83, R96, R101) -/

/-- Op `op` of the attempt `r` is next to issue on core `c`, and nothing holds it. -/
structure Issuable (m : Module) (c : Nat) (r : Running) (op : TileOp) : Prop where
  running : (m.core c).run = some r
  next : r.nextOp = some op
  can : m.canIssue c r op = true

/-- A plate read of core `c` meets no injected error. -/
structure PlateClean (m : Module) (c : Nat) : Prop where
  noUe : (m.core c).injPlateUe = false
  noCe : (m.core c).injPlateCe = false

theorem Module.plateRead_clean {m : Module} {c : Nat} (h : PlateClean m c) (line : Nat) (byAttempt : Bool) :
    m.plateRead c line byAttempt = (m, true) := by
  simp [plateRead, h.noUe, h.noCe]

theorem PlateClean.noteIssue {m : Module} {c : Nat} (h : PlateClean m c) : PlateClean (m.noteIssue c) c :=
  ⟨by simpa using h.noUe, by simpa using h.noCe⟩

/-- The next op stands in flight with nothing left to move, and the op behind it is next. -/
def Running.putInFlight (r : Running) (on : Bool) (f : Flags) : Running :=
  { r with next := r.next + 1, inflight := r.inflight ++ [{ idx := r.next, on := on, flags := f, moved := true }] }

section
variable {m : Module} {c : Nat} {r : Running} {op : TileOp} {kind : OpBody → Bool} {f : Module → Running → TileOp → OpOut}

theorem Module.issue_off (h : Issuable m c r op) (hkind : kind op.body = true) (hoff : op.selected r.preds = false) :
    Module.issue c kind f m = (m.noteIssue c).modRun c (·.putInFlight false flags0) := by
  simp only [issue, running?, h.running, h.next, hkind, h.can, hoff]
  rfl

/-- A selected op acts on the module in which its issue is noted, and its outcome decides how it goes on. -/
theorem Module.issue_on (h : Issuable m c r op) (hkind : kind op.body = true) (hon : op.selected r.preds = true)
    (hread : op.readsPlate = true → PlateClean m c) :
    Module.issue c kind f m = Module.settle c r.next (f (m.noteIssue c) r op) := by
  simp only [issue, running?, h.running, h.next, hkind, h.can, hon]
  cases hplate : op.readsPlate with
  | false => rfl
  | true =>
    have hclean := (hread hplate).noteIssue
    simp [plateRead_clean hclean]

/-- An op that changes the attempt alone, and none of its ops in flight, is in flight with that change. -/
theorem Module.settle_simple (hrun : (m.core c).run = some r) {g : Running → Running} (hflight : (g r).inflight = r.inflight) :
    Module.settle c r.next (simple g c m) = m.modRun c (fun x =>
      { g x with next := x.next + 1,
                 inflight := x.inflight ++ [{ idx := x.next, on := true, flags := flags0, moved := true }] }) := by
  change (m.modRun c g).modRun c _ = _
  rw [modRun_modRun]
  exact modRun_congr hrun (by simp only [hflight])

end

/-- Every op but END issues by the one rule of issue, as an op of its own kind. -/
theorem exec_opCommand (c : Nat) {b : OpBody} (hb : b ≠ .endOp) :
    ∃ kind f, (∀ s, exec (opCommand c b) s = runOn s (Module.issue c kind f)) ∧ kind b = true := by
  cases b
  case endOp => exact absurd rfl hb
  all_goals exact ⟨_, _, fun _ => rfl, rfl⟩

/-- The ops of the transfer engines (R91 to R94). -/
def OpBody.isTransfer : OpBody → Bool
  | .xferIn _ | .xferOut _ | .peerPush _ | .gather _ | .reducePost _ => true
  | _ => false

/-- A transfer op issues with the movement of its data. -/
theorem exec_opCommand_transfer (c : Nat) {b : OpBody} (hb : b.isTransfer = true) :
    ∃ kind, (∀ s, exec (opCommand c b) s = runOn s (Module.issue c kind (fun m r op => m.moveOp c r op))) ∧
      kind b = true := by
  cases b
  case xferIn | xferOut | peerPush | gather | reducePost => exact ⟨_, fun _ => rfl, rfl⟩
  all_goals exact absurd hb Bool.false_ne_true

theorem runOn_eq {s : State} (hl : Live s) {f g : Module → Module} (h : f s.m = g s.m) : runOn s f = .next (s.after g) := by
  rw [runOn_live hl, State.after_congr h]

/-! ### What each op does as it issues -/

section
variable {m : Module} {c : Nat} {r : Running} {op : TileOp} (h : Issuable m c r op) (hon : op.selected r.preds = true)
  (hread : op.readsPlate = true → PlateClean m c)
include h hon hread

/-! The sequencer's ops (R94, R95, R100) -/

theorem effNop_issued {k : Nat} (hb : op.body = .nop k) :
    effNop c m = Module.settle c r.next (simple id c (m.noteIssue c)) :=
  Module.issue_on h (by rw [hb]) hon hread

theorem effFence_issued (hb : op.body = .fence) : effFence c m = Module.settle c r.next (simple id c (m.noteIssue c)) :=
  Module.issue_on h (by rw [hb]; rfl) hon hread

theorem effSignalOp_issued {tl v : Nat} (hb : op.body = .signal tl v) :
    effSignalOp c m = Module.settle c r.next
      (simple (fun x => { x with signals := x.signals ++ [(tl, v)] }) c (m.noteIssue c)) := by
  rw [effSignalOp, Module.issue_on h (by rw [hb]) hon hread]
  simp only [hb]

theorem effSrset_issued {seed base stride : Nat} (hb : op.body = .srset seed base stride) :
    effSrset c m = Module.settle c r.next
      (simple (fun x => { x with seed := seed, idxBase := base, idxStride := stride }) c (m.noteIssue c)) := by
  rw [effSrset, Module.issue_on h (by rw [hb]) hon hread]
  simp only [hb]

theorem effPred_issued {o : PredOp} (hb : op.body = .pred o) :
    effPred c m = Module.settle c r.next (simple
      (fun x => { x with preds := putField x.preds o.pdst 1 (b2n ((m.core c).predResult o r.status r.preds)) })
      c (m.noteIssue c)) := by
  rw [effPred, Module.issue_on h (by rw [hb]) hon hread]
  simp only [hb, Module.core_noteIssue]

theorem effWait_issued_reached {tl v n : Nat} {t : Timeline} (hb : op.body = .wait tl v n) (ht : m.obj.tls.get? tl = some t)
    (hlost : t.lost = false) (hv : t.reached v = true) :
    effWait c m = Module.settle c r.next (okRes (m.noteIssue c) flags0) := by
  rw [effWait, Module.issue_on h (by rw [hb]) hon hread]
  simp [hb, ht, hlost, hv]

theorem effWait_issued_waiting {tl v n : Nat} {t : Timeline} (hb : op.body = .wait tl v n) (ht : m.obj.tls.get? tl = some t)
    (hlost : t.lost = false) (hv : t.reached v = false) :
    effWait c m = Module.settle c r.next (simple (fun x => { x with stall := .timeline tl v }) c (m.noteIssue c)) := by
  rw [effWait, Module.issue_on h (by rw [hb]) hon hread]
  simp [hb, ht, hlost, hv]

/-! The vector ops (R88 to R90, R94) -/

theorem effCopy_issued {a d n : Nat} (hb : op.body = .copy a d n) :
    effCopy c m = Module.settle c r.next
      (okRes ((m.noteIssue c).plateWrite c d ((m.core c).readPlate a (64 * n)) 0 0) flags0) := by
  rw [effCopy, Module.issue_on h (by rw [hb]) hon hread]
  simp only [hb, Module.core_noteIssue]

theorem effFill_issued {d n p : Nat} (hb : op.body = .fill d n p) :
    effFill c m = Module.settle c r.next
      (okRes ((m.noteIssue c).plateWrite c d ((List.replicate (16 * n) (leBytes 4 p)).flatten) 0 0) flags0) := by
  rw [effFill, Module.issue_on h (by rw [hb]) hon hread]
  simp only [hb]

theorem effVop_issued {o : VopOp} (hres : (m.core c).injResidue = false) (hb : op.body = .vop o) :
    let v := (m.core c).vop o r.seed r.idxBase r.idxStride
    effVop c m = Module.settle c r.next (okRes ((m.noteIssue c).plateWrite c o.dLine v.1 0 0) v.2) := by
  rw [effVop, Module.issue_on h (by rw [hb]) hon hread]
  simp [hb, hres]

theorem effVred_issued {o : VredOp} (hb : op.body = .vred o) :
    let v := (m.core c).vred o
    effVred c m = Module.settle c r.next (okRes ((m.noteIssue c).plateWrite c o.dstLine v.1 0 0) v.2) := by
  rw [effVred, Module.issue_on h (by rw [hb]) hon hread]
  simp only [hb, Module.core_noteIssue]

theorem effConvert_issued {o : ConvOp} (hb : op.body = .convert o) :
    let v := (m.core c).convert o r.seed r.idxBase r.idxStride
    let w := (m.noteIssue c).plateWrite c o.dstLine v.1 0 0
    effConvert c m = Module.settle c r.next (okRes (if v.2.1.isEmpty then w else w.plateWrite c o.scaleOut v.2.1 0 0) v.2.2) := by
  rw [effConvert, Module.issue_on h (by rw [hb]) hon hread]
  simp only [hb, Module.core_noteIssue]

/-! The accumulator's ops (R84 to R87) -/

theorem effAnchor_issued {o : AnchorOp} (hmode : o.mode ≠ 2) (hb : op.body = .anchor o) :
    effAnchor c m = Module.settle c r.next
      (okRes ((m.noteIssue c).setAcc c ((m.core c).anchorOp o (accClean 0))) flags0) := by
  rw [effAnchor, Module.issue_on h (by rw [hb]) hon hread]
  simp [anchorEff, hb, hmode]

theorem effAccClear_issued {o : AnchorOp} (hmode : o.mode ≠ 2) (hb : op.body = .accClear o) :
    effAccClear c m = Module.settle c r.next
      (okRes ((m.noteIssue c).setAcc c ((m.core c).anchorOp o (accClean 0))) flags0) := by
  rw [effAccClear, Module.issue_on h (by rw [hb]) hon hread]
  simp [anchorEff, hb, hmode]

theorem effMma_issued {o : MmaOp} (hpar : (m.core c).injAccParity = false) (hres : (m.core c).injResidue = false)
    (hb : op.body = .mma o) :
    let acc := (m.noteIssue c).accOf c
    let v := (m.core c).mma o acc.2
    effMma c m = Module.settle c r.next (okRes (acc.1.setAcc c { v.1 with bad := acc.2.bad }) v.2) := by
  rw [effMma, Module.issue_on h (by rw [hb]) hon hread]
  simp [hb, Module.accRead?, hpar, hres, Module.setAcc_of_residueClear]

theorem effAccRead_issued {o : AccReadOp} (hpar : (m.core c).injAccParity = false) (hb : op.body = .accRead o)
    (hbad : ((m.noteIssue c).accOf c).2.bad = []) :
    let acc := (m.noteIssue c).accOf c
    let v := (m.core c).accRead o acc.2 r.seed r.idxBase r.idxStride
    let w := v.1.zipIdx.foldl (fun m x => m.plateWrite c (o.outLine + x.2 * ceilDiv (accReadRow o) 64) x.1 0 0)
      (acc.1.setAcc c acc.2)
    effAccRead c m = Module.settle c r.next (okRes (if v.2.1.isEmpty then w else w.plateWrite c o.auxLine v.2.1 0 0) v.2.2) := by
  rw [effAccRead, Module.issue_on h (by rw [hb]) hon hread]
  simp [hb, Module.accRead?, hpar, hbad]

end

/-- Settles O12: an op selected off goes in flight as an empty op, and each of the selected ops changes the attempt alone. -/
theorem opsIssueInOrder : Obligations.OpsIssueInOrder := by
  unfold Obligations.OpsIssueInOrder
  intro s c r op hl hrun hnext hcan
  have h : Issuable s.m c r op := ⟨hrun, hnext, hcan⟩
  have hrun' : ((s.m.noteIssue c).core c).run = some r := by rw [Module.core_noteIssue, hrun]
  refine ⟨fun hoff hpred => ?_, fun hon hplate => ?_⟩
  · have hb : op.body ≠ .endOp := fun hb => by simp [hb] at hpred
    obtain ⟨kind, f, hexec, hkind⟩ := exec_opCommand c hb
    rw [hexec]
    exact runOn_eq hl (Module.issue_off h hkind hoff)
  · have hread : op.readsPlate = true → PlateClean s.m c := fun hp => by simp [hplate] at hp
    refine ⟨fun k hb => ?_, fun hb => ?_, fun tl v hb => ?_, fun seed base stride hb => ?_, fun o hb => ?_⟩
    · exact runOn_eq hl ((effNop_issued h hon hread hb).trans (Module.settle_simple hrun' rfl))
    · exact runOn_eq hl ((effFence_issued h hon hread hb).trans (Module.settle_simple hrun' rfl))
    · exact runOn_eq hl ((effSignalOp_issued h hon hread hb).trans (Module.settle_simple hrun' rfl))
    · exact runOn_eq hl ((effSrset_issued h hon hread hb).trans (Module.settle_simple hrun' rfl))
    · exact runOn_eq hl ((effPred_issued h hon hread hb).trans (Module.settle_simple hrun' rfl))

/-- Settles O13: each selected op acts on the module in which its issue is noted, and settling its outcome puts it in flight. -/
theorem computeOpsGiveTheirResults : Obligations.ComputeOpsGiveTheirResults := by
  unfold Obligations.ComputeOpsGiveTheirResults
  intro s c r op hl hrun hnext hcan hon hue hce hpar hres
  have h : Issuable s.m c r op := ⟨hrun, hnext, hcan⟩
  have hread : op.readsPlate = true → PlateClean s.m c := fun _ => ⟨hue, hce⟩
  refine ⟨fun a d n hb => ?copy, fun d n p hb => ?fill, fun o hb => ?vop, fun o hb => ?vred, fun o hb => ?convert,
    fun o hmode => ⟨fun hb => ?anchor, fun hb => ?accClear⟩, fun o hb => ?mma, fun o hb hbad => ?accRead,
    fun tl v n t hb ht hlost => ⟨fun hv => ?reached, fun hv => ?waiting⟩, fun hb => ?transfer⟩
  case copy => exact runOn_eq hl (effCopy_issued h hon hread hb)
  case fill => exact runOn_eq hl (effFill_issued h hon hread hb)
  case vop => exact runOn_eq hl (effVop_issued h hon hread hres hb)
  case vred => exact runOn_eq hl (effVred_issued h hon hread hb)
  case convert => exact runOn_eq hl (effConvert_issued h hon hread hb)
  case anchor => exact runOn_eq hl (effAnchor_issued h hon hread hmode hb)
  case accClear => exact runOn_eq hl (effAccClear_issued h hon hread hmode hb)
  case mma => exact runOn_eq hl (effMma_issued h hon hread hpar hres hb)
  case accRead => exact runOn_eq hl (effAccRead_issued h hon hread hpar hb hbad)
  case reached => exact runOn_eq hl (effWait_issued_reached h hon hread hb ht hlost hv)
  case waiting => exact runOn_eq hl (effWait_issued_waiting h hon hread hb ht hlost hv)
  case transfer =>
    have htransfer : op.body.isTransfer = true := by
      cases hbody : op.body <;> simp [hbody, OpBody.isTransfer] at hb ⊢
    obtain ⟨kind, hexec, hkind⟩ := exec_opCommand_transfer c htransfer
    rw [hexec]
    exact runOn_eq hl (Module.issue_on h hkind hon hread)

/-! ### Injections (R110, R434) -/

/-- An injection on a core that no confidential partition holds changes the record of that core. -/
theorem runOn_injection_open {s : State} (hl : Live s) {c : Nat} (hopen : s.m.coreOpen c = true) (f : Core → Core) :
    runOn s (fun m => if m.coreOpen c then m.modCore c f else m) = .next (s.after (·.modCore c f)) :=
  runOn_eq hl (if_pos hopen)

/-- An injection on a core of a confidential partition changes nothing. -/
theorem runOn_injection_closed {s : State} (hl : Live s) {c : Nat} (hclosed : s.m.coreOpen c = false) (f : Core → Core) :
    runOn s (fun m => if m.coreOpen c then m.modCore c f else m) = .next s := by
  rw [runOn_live hl]
  exact congrArg _ (State.after_eq_self (if_neg (by simp [hclosed])))

/-- Settles O22: an injection on a core asks whether the core is open, and every other one acts at once. -/
theorem injectedErrorsArm : Obligations.InjectedErrorsArm := by
  unfold Obligations.InjectedErrorsArm
  intro s c p d k hl
  refine ⟨fun hopen => ?_, fun hclosed => ?_, runOn_live hl _, runOn_live hl _, runOn_live hl _, runOn_live hl _,
    runOn_live hl _, runOn_live hl _, runOn_live hl _, runOn_live hl _, runOn_live hl _, runOn_live hl _, runOn_live hl _⟩
  · exact ⟨runOn_injection_open hl hopen _, runOn_injection_open hl hopen _, runOn_injection_open hl hopen _,
      runOn_injection_open hl hopen _⟩
  · exact ⟨runOn_injection_closed hl hclosed _, runOn_injection_closed hl hclosed _, runOn_injection_closed hl hclosed _,
      runOn_injection_closed hl hclosed _⟩

/-- Settles O44: each command of the family runs its effect while the internal reset is not asserted. -/
theorem tileCommandsComplete : Obligations.TileCommandsComplete := by
  unfold Obligations.TileCommandsComplete
  intro s hl
  exact ⟨fun _ => runOn_live hl _, fun _ => runOn_live hl _, fun _ => runOn_live hl _, fun _ => runOn_live hl _,
    fun _ => runOn_live hl _, fun _ => runOn_live hl _, fun _ => runOn_live hl _, fun _ => runOn_live hl _,
    fun _ => runOn_live hl _, fun _ => runOn_live hl _, fun _ => runOn_live hl _, fun _ => runOn_live hl _,
    fun _ => runOn_live hl _, fun _ => runOn_live hl _, fun _ => runOn_live hl _, fun _ => runOn_live hl _,
    fun _ => runOn_live hl _, fun _ => runOn_live hl _, fun _ => runOn_live hl _, fun _ => runOn_live hl _,
    fun _ => runOn_live hl _, fun _ => runOn_live hl _, fun _ => runOn_live hl _, fun _ _ _ => runOn_live hl _,
    fun _ => runOn_live hl _, fun _ => runOn_live hl _, fun _ => runOn_live hl _, fun _ => runOn_live hl _,
    fun _ => runOn_live hl _⟩

end Sys2Proof.Machine
end

section
/-!
PROOF. The steward cores: a write of tlcommit that retires takes ring entries for the coming frame or the one after, or is
ignored, or is dropped (R117, R118), and every command of the family completes.
-/
namespace Sys2Proof.Machine

/-! ### The records of a steward core and its harts (R111) -/

@[simp] theorem Module.stwCore_modStw_same (m : Module) (k : Nat) (f : Steward → Steward) :
    (m.modStw k f).stwCore k = f (m.stwCore k) := by
  simp [stwCore]

@[simp] theorem Module.hart_modHart_same (m : Module) (k h : Nat) (f : Hart → Hart) :
    (m.modHart k h f).hart k h = f (m.hart k h) := by
  simp [hart, modHart]

@[simp] theorem Module.hart_passTurn (m : Module) (k h i : Nat) : (m.passTurn k h).hart k i = m.hart k i := by
  simp [hart, passTurn]

@[simp] theorem Module.hart_setTick (m : Module) (f : Tick → Tick) (k h : Nat) : (m.setTick f).hart k h = m.hart k h := rfl

/-! ### What a write of tlcommit takes (R117, R118) -/

section
variable {m : Module} {k h n cutoff : Nat}

theorem Module.commitEntries_zero : m.commitEntries k h 0 cutoff = m := rfl

theorem Module.commitEntries_above_free (hn : n ≠ 0) (hfree : (m.hart k h).free < n) :
    m.commitEntries k h n cutoff = m.count (STW_LIST_DROP_count k) 1 := by
  rw [commitEntries, if_neg hn, if_pos hfree]

theorem Module.commitEntries_early (hn : n ≠ 0) (hfree : n ≤ (m.hart k h).free)
    (hearly : m.tick.ns < cutoff ∧ m.tick.phase = .open_) :
    m.commitEntries k h n cutoff = m.modHart k h (fun t => { t with due := t.due + n }) := by
  rw [commitEntries, if_neg hn, if_neg (Nat.not_lt.mpr hfree), if_pos (by simpa using hearly)]

theorem Module.commitEntries_late (hn : n ≠ 0) (hfree : n ≤ (m.hart k h).free)
    (hlate : ¬ (m.tick.ns < cutoff ∧ m.tick.phase = .open_)) :
    m.commitEntries k h n cutoff =
      (m.modHart k h (fun t => { t with late := t.late + n })).count (STW_LIST_LATE_count k) 1 := by
  rw [commitEntries, if_neg hn, if_neg (Nat.not_lt.mpr hfree), if_neg (by simpa using hlate)]

end

/-! ### TLCOMMIT (R111, R117, R120) -/

/-- The module once hart `h` of core `k` has retired its write of tlcommit, `ns` into the frame: the hart's register reads 0,
its program goes on, and the turn passes on. -/
def Module.retireCommit (m : Module) (k h rd ns : Nat) : Module :=
  ((m.setTick (fun t => { t with ns := max t.ns ns })).modHart k h
    (fun t => { t.setReg rd 0 with pc := (t.pc + 4) % 2 ^ 64 })).passTurn k h

section
variable (m : Module) (k h rd ns : Nat)

@[simp] theorem Module.retireCommit_ns : (m.retireCommit k h rd ns).tick.ns = max m.tick.ns ns := rfl

@[simp] theorem Module.retireCommit_phase : (m.retireCommit k h rd ns).tick.phase = m.tick.phase := rfl

/-- The write itself frees no ring entry and takes none. -/
@[simp] theorem Module.free_hart_retireCommit : ((m.retireCommit k h rd ns).hart k h).free = (m.hart k h).free := by
  simp [retireCommit, Hart.free]

/-- The windows open by the composition and the clocks of the blocks, which the write leaves alone. -/
@[simp] theorem Module.dieCutoffNs_retireCommit (die : Nat) : (m.retireCommit k h rd ns).dieCutoffNs die = m.dieCutoffNs die := rfl

end

/-- The hart that has the turn on a serving core retires its write, and the entries are taken at the time it retires. -/
theorem effTlcommit_turn {m : Module} {k h : Nat} (hserves : m.stwServes k = true) (hturn : m.stwTurn k = some h)
    (rd n ns : Nat) :
    effTlcommit k h rd n ns m = (m.retireCommit k h rd ns).commitEntries k h n (m.dieCutoffNs (k / 8)) := by
  rw [← m.dieCutoffNs_retireCommit k h rd ns]
  simp [effTlcommit, hserves, hturn, Module.retireCommit]

/-- Settles O16: the write retires first and changes neither the free entries nor the cutoff, so that the branch of the
commit is the one that the state before it names. -/
theorem commitTakesRingEntries : Obligations.CommitTakesRingEntries := by
  unfold Obligations.CommitTakesRingEntries
  intro s k h rd n ns hl hserves hturn
  have hexec {g : Module} (hg : (s.m.retireCommit k h rd ns).commitEntries k h n (s.m.dieCutoffNs (k / 8)) = g) :
      exec (.tlcommit k h rd n ns) s = .next (s.after (fun _ => g)) :=
    runOn_eq hl ((effTlcommit_turn hserves hturn rd n ns).trans hg)
  refine ⟨fun hn => ?zero, fun hn hfree => ?above, fun hn hfree hearly => ?early, fun hn hfree hlate => ?late⟩
  case zero =>
    subst hn
    exact hexec Module.commitEntries_zero
  case above => exact hexec (Module.commitEntries_above_free hn (by simpa using hfree))
  case early => exact hexec (Module.commitEntries_early hn (by simpa using hfree) (by simpa using hearly))
  case late => exact hexec (Module.commitEntries_late hn (by simpa using hfree) (by simpa using hlate))

/-- Settles O45: each command of the family runs its effect while the internal reset is not asserted. -/
theorem stewardCommandsComplete : Obligations.StewardCommandsComplete := by
  unfold Obligations.StewardCommandsComplete
  intro s hl
  exact ⟨fun _ _ _ _ => runOn_live hl _, fun _ _ _ _ _ => runOn_live hl _, fun _ _ _ => runOn_live hl _, fun _ _ => runOn_live hl _,
    fun _ _ => runOn_live hl _, fun _ => runOn_live hl _⟩

end Sys2Proof.Machine
end

section
/-!
PROOF. Device memory: a write of the host path that is granted stores its bytes outside the object tables and changes no
other byte (R129, R132, R350), and every command of the family completes.
-/
namespace Sys2Proof.Machine

/-! ### What the carve-out check and the object tables rest on (R129, R348) -/

/-- The carve-out check asks only the composition and the DDR5 channels. -/
theorem Module.allowed_congr {m n : Module} (hcomp : m.comp = n.comp) (hddr : m.mem.ddr = n.mem.ddr) (p off len : Nat) :
    m.allowed p off len = n.allowed p off len := by
  simp only [allowed, ownsHbm, ownsDdr, ddrReach, compOn, recs, hcomp, hddr]

/-- The table ranges are those that the HOST registers name. -/
theorem Module.tables_congr {m n : Module} (hregs : m.regs = n.regs) : m.tables = n.tables := by
  simp only [tables, ctxBase, qBase, tlBase, moBase, moCount, cswTable, cswWords, reg64, fld, reg, hregs]

/-- The module holds its object tables by HOST_CTRL.enable, or by registers that meet R348. -/
theorem Module.tablesHeld_congr {m n : Module} (hregs : m.regs = n.regs) (hobj : m.obj = n.obj) (hcomp : m.comp = n.comp)
    (hddr : m.mem.ddr = n.mem.ddr) : m.tablesHeld = n.tablesHeld := by
  have hcount : m.moCount = n.moCount := by simp only [moCount, fld, reg, hregs]
  have hwords : m.cswWords = n.cswWords := by simp only [cswWords, fld, reg, hregs]
  simp only [tablesHeld, tablesOk, tables_congr hregs, allowed_congr hcomp hddr, hobj, hcount, hwords]

/-- Where the object tables lie rests on nothing else. -/
theorem Module.inTable_congr {m n : Module} (hregs : m.regs = n.regs) (hobj : m.obj = n.obj) (hcomp : m.comp = n.comp)
    (hddr : m.mem.ddr = n.mem.ddr) (a : Nat) : m.inTable a = n.inTable a := by
  simp only [inTable, tables_congr hregs, tablesHeld_congr hregs hobj hcomp hddr]

/-! ### A request that has been let through (R145, R198) -/

/-- The module once a request that arrives at `now` has left the buckets at `b` and its load on the seams at `x`. -/
def Module.letThrough (m : Module) (b : Tbl Bucket) (x : Seams) (now : Nat) : Module :=
  ((m.setMem (fun y => { y with buckets := b })).setSeams (fun _ => x)).setMem (fun y => { y with now := max y.now now })

section
variable (m : Module) (b : Tbl Bucket) (x : Seams) (now : Nat)

@[simp] theorem Module.bytes_letThrough : (m.letThrough b x now).mem.bytes = m.mem.bytes := rfl

@[simp] theorem Module.migs_letThrough : (m.letThrough b x now).mem.migs = m.mem.migs := rfl

@[simp] theorem Module.hostMem_letThrough : (m.letThrough b x now).hostMem = m.hostMem := rfl

@[simp] theorem Module.twinMem_letThrough : (m.letThrough b x now).twinMem = m.twinMem := rfl

@[simp] theorem Module.allowed_letThrough (p off len : Nat) : (m.letThrough b x now).allowed p off len = m.allowed p off len :=
  allowed_congr (m := m.letThrough b x now) (n := m) rfl rfl p off len

@[simp] theorem Module.inTable_letThrough (a : Nat) : (m.letThrough b x now).inTable a = m.inTable a :=
  inTable_congr (m := m.letThrough b x now) (n := m) rfl rfl rfl rfl a

end

/-- A request that gets its tokens is let through. -/
theorem Module.exists_letThrough {m m' : Module} {req : Requester} {p cls off n now : Nat} {mark : Bool}
    (htokens : m.takeTokens req p cls off n now = (m', some mark)) (write : Bool) :
    ∃ b x, (m'.reqLoad req p cls off write mark).setMem (fun y => { y with now := max y.now now }) = m.letThrough b x now := by
  obtain ⟨b, hb⟩ := m.takeTokens_cases req p cls off n now
  have hm' : m' = m.setMem (fun y => { y with buckets := b }) := by rw [← hb, htokens]
  obtain ⟨x, hx⟩ := m'.reqLoad_cases req p cls off write mark
  exact ⟨b, x, by rw [hx, hm']; rfl⟩

/-! ### Stores and latencies -/

/-- With no migration listed, no store is redirected (R296). -/
theorem Module.store_of_no_migs {m : Module} (h : m.mem.migs = []) (off : Nat) (bs : List Byte) : m.store off bs = m.storeRaw off bs := by
  simp [store, h]

section
variable (m : Module) (ch cls lat : Nat) (conf : Bool)

@[simp] theorem Module.bytes_noteLat : (m.noteLat ch cls lat conf).mem.bytes = m.mem.bytes := by
  obtain ⟨a, b, h⟩ := m.noteLat_cases ch cls lat conf
  rw [h, setMem_mem]

@[simp] theorem Module.hostMem_noteLat : (m.noteLat ch cls lat conf).hostMem = m.hostMem := by
  obtain ⟨a, b, h⟩ := m.noteLat_cases ch cls lat conf
  rw [h, setMem_hostMem]

@[simp] theorem Module.twinMem_noteLat : (m.noteLat ch cls lat conf).twinMem = m.twinMem := by
  obtain ⟨a, b, h⟩ := m.noteLat_cases ch cls lat conf
  rw [h, setMem_twinMem]

end

/-! ### MEM_REQUEST (R129, R140, R350) -/

/-- An offset lies in an object table: the HOST registers name one, and a range of theirs holds it. -/
theorem Module.inTable_iff (m : Module) (a : Nat) :
    m.inTable a = true ↔ m.tablesHeld = true ∧ ∃ r ∈ m.tables, r.1 ≤ a ∧ a < r.1 + r.2 := by
  simp [inTable]

/-- A granted host write of HBM lets its request through, stores its bytes and notes its latency. -/
theorem effMemRequest_hostWrite_hbm {m m' : Module} {p off cls at_ : Nat} {data : List Byte} {mark : Bool} (hdata : data ≠ [])
    (hline : off % 256 + data.length ≤ 256) (hallowed : m.allowed p off data.length = true) (hhbm : chanOf off < 512)
    (hmigs : m.mem.migs = []) (hslice : m.recalibrates off = false)
    (htokens : m.takeTokens .host p (m.reqClass .host p cls) off (chargeOf true off data.length) at_ = (m', some mark))
    (errs : ReadErrs) (done : Nat) :
    ∃ b x, effMemRequest true p off 0 cls .host data errs at_ done m = ((m.letThrough b x at_).storeRaw off data).noteLat
      (chanOf (m'.readAt (alignDown off 256))) (m.reqClass .host p cls) (done - at_)
      (((m.letThrough b x at_).storeRaw off data).conf p) := by
  obtain ⟨b, x, hthrough⟩ := Module.exists_letThrough htokens true
  have hn : ¬ (data.length = 0 ∨ off % 256 + data.length > 256) := by
    have := List.length_pos_iff.mpr hdata
    omega
  have hstore : (m.letThrough b x at_).memWriteErrs p off data errs = ((m.letThrough b x at_).storeRaw off data, .ok) := by
    rw [Module.memWriteErrs_hbm hhbm, Module.allowed_letThrough, if_pos hallowed, Module.store_of_no_migs (by simpa using hmigs)]
  have hhost : (Requester.host == Requester.control) = false := rfl
  refine ⟨b, x, ?_⟩
  simp only [effMemRequest, hn, hslice, hallowed, hhost, htokens, hthrough, hstore, Bool.or_eq_true, decide_eq_true_eq,
    Bool.and_false, Bool.false_and, Bool.not_true, Bool.false_eq_true, if_true, if_false]

/-- Settles O17: letting the request through and noting its latency leave every byte, so that memory after the write is what
the store makes of memory before it. -/
theorem hostRequestWritesExactlyItsBytes : Obligations.HostRequestWritesExactlyItsBytes := by
  unfold Obligations.HostRequestWritesExactlyItsBytes
  intro s p off cls at_ done data errs mark m' hl hwf hdata hline hallowed hhbm hmigs hslice htokens hidden
  have hhidden (a : Nat) : s.m.inTable a = true ↔ hidden a := s.m.inTable_iff a
  obtain ⟨b, x, heff⟩ := effMemRequest_hostWrite_hbm hdata hline hallowed hhbm hmigs hslice htokens errs done
  simp only [State.memWf, Bool.and_eq_true] at hwf
  obtain ⟨⟨hbytes, hhost⟩, htwin⟩ := hwf
  obtain ⟨hbytes', hhost', htwin'⟩ := Module.storeRaw_mem (m := s.m.letThrough b x at_) hbytes off data
  refine ⟨s.after (fun _ => _), runOn_eq hl heff, ?stored, ?kept, ?form, ?host, ?twin, rfl⟩
  case stored =>
    intro i hi hout
    have hin : off ≤ off + i ∧ off + i < off + data.length ∧ s.m.inTable (off + i) = false :=
      ⟨by omega, by omega, by rw [← Bool.not_eq_true, hhidden]; exact hout⟩
    simp [Module.storeRaw_byte (m := s.m.letThrough b x at_) hbytes, hin]
  case kept =>
    intro a ha
    have hout : ¬ (off ≤ a ∧ a < off + data.length ∧ s.m.inTable a = false) := by
      rintro ⟨hlow, hhigh, hfree⟩
      rcases ha with hrange | htable
      · exact hrange ⟨hlow, hhigh⟩
      · rw [(hhidden a).mpr htable] at hfree
        exact absurd hfree (by decide)
    simp [Module.storeRaw_byte (m := s.m.letThrough b x at_) hbytes, hout]
  case form => simp [State.memWf, hbytes', hhost', htwin', hhost, htwin]
  case host => simp [hhost']
  case twin => simp [htwin']

/-- Settles O46: each command of the family runs its effect while the internal reset is not asserted. -/
theorem memoryCommandsComplete : Obligations.MemoryCommandsComplete := by
  unfold Obligations.MemoryCommandsComplete
  intro s hl
  exact ⟨fun _ _ _ _ _ _ _ _ _ _ => runOn_live hl _, fun _ _ => runOn_live hl _, fun _ _ _ _ => runOn_live hl _,
    fun _ _ => runOn_live hl _, fun _ => runOn_live hl _, fun _ _ => runOn_live hl _, fun _ => runOn_live hl _,
    fun _ => runOn_live hl _, fun _ => runOn_live hl _, fun _ => runOn_live hl _, fun _ => runOn_live hl _,
    fun _ => runOn_live hl _, fun _ _ _ => runOn_live hl _⟩

end Sys2Proof.Machine
end

section
/-!
PROOF. Sequence state and leases: a received lease message is held, to act at the next shutter edge or at the one after
(R166 to R168), and every command of the family completes.
-/
namespace Sys2Proof.Machine

/-! ### The received lease messages (R166 to R168) -/

section
variable {s : State} (hl : Live s) (sender seg epoch commitSeq expiry : Nat)
include hl

theorem exec_leaseOfferReceived : exec (.leaseOfferReceived sender seg epoch commitSeq expiry) s =
    .next (s.after (effLeaseReceived 1 sender seg epoch commitSeq expiry)) := runOn_live hl _

theorem exec_leaseAcceptReceived : exec (.leaseAcceptReceived sender seg epoch commitSeq expiry) s =
    .next (s.after (effLeaseReceived 2 sender seg epoch commitSeq expiry)) := runOn_live hl _

theorem exec_leaseReleaseReceived : exec (.leaseReleaseReceived sender seg epoch commitSeq expiry) s =
    .next (s.after (effLeaseReceived 3 sender seg epoch commitSeq expiry)) := runOn_live hl _

theorem exec_leaseEpochReceived : exec (.leaseEpochReceived sender seg epoch commitSeq expiry) s =
    .next (s.after (effLeaseReceived 4 sender seg epoch commitSeq expiry)) := runOn_live hl _

end

/-- Whatever its kind, a message only joins those received; it is due at the next edge if it came before the window. -/
theorem State.after_effLeaseReceived (s : State) (kind sender seg epoch commitSeq expiry : Nat) :
    s.after (effLeaseReceived kind sender seg epoch commitSeq expiry) = s.after (·.setSeq (fun x => { x with
      msgs := x.msgs ++ [{ kind := kind, sender := sender, seg := seg, epoch := epoch, commitSeq := commitSeq,
                           expiry := expiry, due := s.m.tick.phase == .open_ }] })) :=
  State.after_congr rfl

/-- Settles O18: the four messages differ in their kind alone, and the effect that they share does nothing but hold the
message. -/
theorem leaseMessagesWaitForTheEdge : Obligations.LeaseMessagesWaitForTheEdge := by
  unfold Obligations.LeaseMessagesWaitForTheEdge
  intro s src seg ep cs ex hl put
  have hput (k : Nat) : s.after (effLeaseReceived k src seg ep cs ex) = put k := s.after_effLeaseReceived k src seg ep cs ex
  refine ⟨?offer, ?accept, ?release, ?epoch⟩
  case offer => rw [exec_leaseOfferReceived hl, hput]
  case accept => rw [exec_leaseAcceptReceived hl, hput]
  case release => rw [exec_leaseReleaseReceived hl, hput]
  case epoch => rw [exec_leaseEpochReceived hl, hput]

/-- Settles O47: each command of the family runs its effect while the internal reset is not asserted. -/
theorem sequenceCommandsComplete : Obligations.SequenceCommandsComplete := by
  unfold Obligations.SequenceCommandsComplete
  intro s hl
  exact ⟨runOn_live hl _, runOn_live hl _, runOn_live hl _, runOn_live hl _, runOn_live hl _, runOn_live hl _,
    runOn_live hl _, runOn_live hl _, runOn_live hl _, runOn_live hl _, fun _ _ => runOn_live hl _,
    fun _ _ => runOn_live hl _, fun _ => runOn_live hl _, fun _ => runOn_live hl _, fun _ => runOn_live hl _,
    exec_leaseOfferReceived hl, exec_leaseAcceptReceived hl, exec_leaseReleaseReceived hl, exec_leaseEpochReceived hl,
    fun _ _ _ => runOn_live hl _⟩

end Sys2Proof.Machine
end

section
/-!
PROOF. Address translation: an Invalidate Request waits for step 5 of the window (R187), setting PRI Enable again ends the
failing state of a function (R185), and every command of the family completes.
-/
namespace Sys2Proof.Machine

section
variable {s : State} (hl : Live s)
include hl

theorem exec_invalidateRequest (fn : Nat) (pasid : Option Nat) (base size tag : Nat) :
    exec (.invalidateRequest fn pasid base size tag) s =
      .next (s.after (tlp fn (effInvalidateRequest fn pasid base size tag))) := runOn_live hl _

theorem exec_priEnableWrite (fn alloc : Nat) :
    exec (.priEnableWrite fn alloc) s = .next (s.after (cfgWrite (effPriEnable fn alloc))) := runOn_live hl _

end

/-! ### TLPs and configuration writes (R343, R344, R460) -/

section
variable {m : Module} {fn : Nat}

/-- A TLP on accepted traffic brings about its effect. -/
theorem tlp_of_trafficOk (h : m.trafficOk fn = true) (f : Module → Module) : tlp fn f m = f m := if_pos h

/-- Off accepted traffic, a TLP of a confidential function is a refused access and nothing more. -/
theorem tlp_of_not_trafficOk_conf (h : m.trafficOk fn = false) (hconf : m.fnConf fn = true) (f : Module → Module) :
    tlp fn f m = m.confRefused := by
  simp [tlp, Module.dropTlp, h, hconf]

/-- Off accepted traffic, a TLP of any other function leaves no trace. -/
theorem tlp_of_not_trafficOk_open (h : m.trafficOk fn = false) (hopen : m.fnConf fn = false) (f : Module → Module) :
    tlp fn f m = m := by
  simp [tlp, Module.dropTlp, h, hopen]

/-- With the link down no configuration write arrives. -/
theorem cfgWrite_linkDown (h : m.fld GLB_PCIE_gen = 0) (f : Module → Module) : cfgWrite f m = m := if_pos h

/-- Before the functions are ready, a configuration write is answered with Request Retry Status. -/
theorem cfgWrite_notReady (hlink : m.fld GLB_PCIE_gen ≠ 0) (hstep : m.rst.stepNo ≤ 8) (f : Module → Module) :
    cfgWrite f m = m.emit (.response 2 []) := by
  rw [cfgWrite, if_neg hlink, if_pos hstep]

/-- Once the functions are ready, a configuration write on accepted traffic of the PF brings about its effect. -/
theorem cfgWrite_ready (hlink : m.fld GLB_PCIE_gen ≠ 0) (hstep : 8 < m.rst.stepNo) (ht : m.trafficOk 0 = true)
    (f : Module → Module) : cfgWrite f m = f m := by
  rw [cfgWrite, if_neg hlink, if_neg (Nat.not_le.mpr hstep), tlp_of_trafficOk ht]

end

/-! ### Invalidations and Page Requests (R184, R185, R187) -/

/-- An invalidation that is received joins those that wait, and the sent translation requests of its function remember it. -/
theorem Module.addInval_eq (m : Module) (i : Inval) : m.addInval i = m.setXlat (fun x => { x with
    invals := x.invals ++ [i],
    ats := x.ats.map (fun r => if r.sent = true ∧ r.fn = i.fn then { r with after := r.after ++ [i] } else r) }) := by
  simp only [addInval, Bool.and_eq_true, beq_iff_eq]

/-- With every Page Request sent, the pump passes over each of them. -/
theorem Module.pagePump_of_all_sent {m : Module} (h : ∀ r ∈ m.xlat.pages, r.sent = true) : m.pagePump = m :=
  List.foldlRecOn (motive := (· = m)) m.xlat.pages _ rfl (fun acc hacc r hr => by simp [h r hr, hacc])

/-- Setting PRI Enable again sends nothing when no Page Request waits: the requests are those of before. -/
theorem effPriEnable_of_all_sent {m : Module} (h : ∀ r ∈ m.xlat.pages, r.sent = true) (fn alloc : Nat) :
    effPriEnable fn alloc m = m.setXlat (fun x =>
      { x with failed := x.failed.filter (fun f => f != fn), alloc := x.alloc.put fn alloc }) :=
  Module.pagePump_of_all_sent h

/-- Settles O19: an Invalidate Request is a TLP of its function and a write of PRI Enable a configuration write, and each
clause of the statement is one case of what becomes of these. -/
theorem invalidationsAndPriEnable : Obligations.InvalidationsAndPriEnable := by
  unfold Obligations.InvalidationsAndPriEnable
  intro s fn alloc pasid base size tag hl i
  rw [exec_invalidateRequest hl, exec_priEnableWrite hl]
  refine ⟨fun ht => ?accepted, fun ht => ?discarded, fun hlink hstep ht hsent => ?ready, fun hlink hstep => ?notReady,
    fun hlink => ?linkDown⟩
  case accepted =>
    exact congrArg _ (State.after_congr ((tlp_of_trafficOk ht _).trans (s.m.addInval_eq i)))
  case discarded =>
    cases hconf : s.m.fnConf fn with
    | true => exact congrArg _ (State.after_congr (tlp_of_not_trafficOk_conf ht hconf _))
    | false => exact congrArg _ (State.after_eq_self (tlp_of_not_trafficOk_open ht hconf _))
  case ready =>
    exact congrArg _ (State.after_congr ((cfgWrite_ready hlink hstep ht _).trans (effPriEnable_of_all_sent hsent fn alloc)))
  case notReady => exact congrArg _ (State.after_congr (cfgWrite_notReady hlink hstep _))
  case linkDown => exact congrArg _ (State.after_eq_self (cfgWrite_linkDown hlink _))

/-- Settles O48: each command of the family runs its effect while the internal reset is not asserted. -/
theorem translationCommandsComplete : Obligations.TranslationCommandsComplete := by
  unfold Obligations.TranslationCommandsComplete
  intro s hl
  exact ⟨fun _ _ _ _ _ _ _ _ => runOn_live hl _, fun _ _ _ => runOn_live hl _, fun _ _ _ => runOn_live hl _,
    exec_invalidateRequest hl, fun _ => runOn_live hl _, exec_priEnableWrite hl⟩

end Sys2Proof.Machine
end

section
/-!
PROOF. Seams and links: every command of the fabric's seams (R202) and of the ports, their sessions and their frames (R214,
R217, R229, R235) completes.
-/
namespace Sys2Proof.Machine

/-- Settles O49: each command of the family runs its effect while the internal reset is not asserted. -/
theorem linkCommandsComplete : Obligations.LinkCommandsComplete := by
  unfold Obligations.LinkCommandsComplete
  intro s hl
  exact ⟨fun _ _ _ _ _ => runOn_live hl _, fun _ _ => runOn_live hl _, fun _ _ _ _ _ => runOn_live hl _,
    fun _ _ _ => runOn_live hl _, fun _ _ => runOn_live hl _, fun _ _ => runOn_live hl _,
    fun _ _ _ _ _ => runOn_live hl _, fun _ => runOn_live hl _, fun _ _ _ _ _ _ _ _ _ => runOn_live hl _,
    fun _ _ _ => runOn_live hl _, fun _ _ _ => runOn_live hl _, fun _ _ _ => runOn_live hl _,
    fun _ _ _ => runOn_live hl _, runOn_live hl _, fun _ _ => runOn_live hl _, fun _ _ => runOn_live hl _,
    fun _ _ => runOn_live hl _, fun _ _ => runOn_live hl _, fun _ => runOn_live hl _, fun _ => runOn_live hl _,
    fun _ => runOn_live hl _, fun _ _ => runOn_live hl _⟩

end Sys2Proof.Machine
end

section
/-!
PROOF. The flits of a link: the 16 header bytes and the padded body of a flit give it back (R211), and the CRC of every stripe of the
256 bytes holds, but for that of stripe 0 when an error is injected (R213, R240).
-/
namespace Sys2Proof

/-! ### Fields of byte strings -/

/-- A string whose first byte differs holds another number. -/
theorem leNat_cons_ne {a b : Byte} (h : a ≠ b) (bs : List Byte) : leNat (a :: bs) ≠ leNat (b :: bs) := fun he =>
  h (BitVec.eq_of_toNat_eq (Nat.add_right_cancel he))

/-- A field that the first part of a record holds whole. -/
theorem fieldOf_append_left {a : List Byte} (b : List Byte) {off len : Nat} (h : off + len ≤ a.length) :
    fieldOf (a ++ b) off len = fieldOf a off len := by
  rw [fieldOf, fieldOf, List.drop_append_of_le_length (by omega), List.take_append_of_le_length (by rw [List.length_drop]; omega)]

/-- In a row of entries of `w` bytes each, entry `i` holds its own number. -/
theorem fieldOf_flatMap_leBytes {α : Type} (w : Nat) (g : α → Nat) (l : List α) {i : Nat} (hi : i < l.length) :
    fieldOf (l.flatMap (fun x => leBytes w (g x))) (w * i) w = g l[i] % 256 ^ w := by
  induction l generalizing i with
  | nil => simp at hi
  | cons x xs ih =>
    cases i with
    | zero => simp [fieldOf_leBytes]
    | succ i =>
      rw [List.flatMap_cons, fieldOf_skip w (g x) _ w (Nat.le_mul_of_pos_right w i.succ_pos), Nat.mul_succ, Nat.add_sub_cancel]
      exact ih (Nat.lt_of_succ_lt_succ hi)

namespace Machine

/-! ### The header and the body (R211) -/

/-- The type and the position share byte 0. -/
theorem byte0_split (ty pos : Nat) :
    (ty % 16 + 16 * pos) % 256 % 16 = ty % 16 ∧ (ty % 16 + 16 * pos) % 256 / 16 = pos % 16 := by omega

/-- The three flags of byte 1. -/
theorem byte1_bits (a b c : Bool) :
    bit ((b2n a + 2 * b2n b + 4 * b2n c) % 256) 0 = a ∧ bit ((b2n a + 2 * b2n b + 4 * b2n c) % 256) 1 = b ∧
      bit ((b2n a + 2 * b2n b + 4 * b2n c) % 256) 2 = c := by
  revert a b c; decide

/-- The two flags of byte 6, and the hops above them. -/
theorem byte6_split (a b : Bool) (hops : Nat) :
    bit ((b2n a + 2 * b2n b + 16 * hops) % 256) 0 = a ∧ bit ((b2n a + 2 * b2n b + 16 * hops) % 256) 1 = b ∧
      (b2n a + 2 * b2n b + 16 * hops) % 256 / 16 = hops % 16 := by
  cases a <;> cases b <;> simp [bit, b2n, Nat.testBit_succ] <;> omega

/-- The bytes of a header hold every field of the flit, cut to its width. -/
theorem Flit.ofBytes_header (f : Flit) (b : List Byte) : Flit.ofBytes f.header b =
    { f with
      ty := f.ty % 16, pos := f.pos % 16, seqNo := f.seqNo % 2 ^ 16, ack := f.ack % 2 ^ 16, hops := f.hops % 16, slot := f.slot % 64
      dst := f.dst % 2 ^ 16, src := f.src % 2 ^ 16, entry := f.entry % 2 ^ 16, body := b.take (min 208 (f.body.length % 2 ^ 16)) } := by
  simp [Flit.ofBytes, Flit.header, fieldOf_skip, fieldOf_leBytes, fieldOf_last, byte0_split, byte1_bits, byte6_split]

@[simp] theorem Flit.length_header (f : Flit) : f.header.length = 16 := by simp [Flit.header]

/-! ### The stripe CRCs (R213) -/

/-- Each bit of a byte, shifted in, leaves the CRC in 16 bits. -/
theorem crc16Byte_lt {crc : Nat} (h : crc < 2 ^ 16) (b : Byte) : crc16Byte crc b < 2 ^ 16 := by
  have hb : b.toNat * 256 < 2 ^ 16 := by have := b.isLt; omega
  refine List.foldlRecOn (motive := (· < 2 ^ 16)) _ _ (Nat.xor_lt_two_pow h hb) (fun c hc _ _ => ?_)
  split
  · exact Nat.xor_lt_two_pow (Nat.mod_lt _ (by decide)) (by decide)
  · omega

theorem crc16_lt (bs : List Byte) : crc16 bs < 2 ^ 16 :=
  List.foldlRecOn (motive := (· < 2 ^ 16)) bs _ (by decide) (fun _ hc b _ => crc16Byte_lt hc b)

@[simp] theorem length_stripeCrcs (b : List Byte) : (stripeCrcs b).length = 16 := rfl

theorem fieldOf_stripeCrcs (b : List Byte) {s : Nat} (hs : s < 8) : fieldOf (stripeCrcs b) (2 * s) 2 = crc16 (stripeOf b s) := by
  rw [stripeCrcs, fieldOf_flatMap_leBytes 2 _ _ (by simpa using hs), List.getElem_range]
  exact Nat.mod_eq_of_lt (crc16_lt _)

/-- What follows the first 240 bytes belongs to no stripe. -/
theorem stripeOf_append {b : List Byte} (hb : b.length = 240) (c : List Byte) {s : Nat} (hs : s < 8) :
    stripeOf (b ++ c) s = stripeOf b s := by
  rw [stripeOf, stripeOf, List.flatMap_def, List.flatMap_def]
  refine congrArg List.flatten (List.map_congr_left fun k hk => ?_)
  have := List.mem_range.mp hk
  rw [List.drop_append_of_le_length (by omega), List.take_append_of_le_length (by rw [List.length_drop]; omega)]

/-- The stripes that fail are those whose CRC is not the one that stands behind the first 240 bytes. -/
theorem badStripes_append {b : List Byte} (hb : b.length = 240) (c : List Byte) :
    badStripes (b ++ c) = (List.range 8).filter (fun s => fieldOf (stripeCrcs b) (2 * s) 2 != fieldOf c (2 * s) 2) := by
  refine List.filter_congr fun s hs => ?_
  have hs := List.mem_range.mp hs
  rw [stripeOf_append hb c hs, fieldOf_stripeCrcs b hs, fieldOf_append c 2 (by omega), hb, Nat.add_sub_cancel_left]

/-! ### An injected error (R240) -/

/-- The first of the bytes with each of its bits inverted. -/
def corruptFirst (c : List Byte) : List Byte := xorBytes (c.take 1) [0xFF] ++ c.drop 1

@[simp] theorem corruptFirst_cons (x : Byte) (c : List Byte) : corruptFirst (x :: c) = (x ^^^ 0xFF) :: c := rfl

theorem xor_FF_ne (x : Byte) : x ≠ x ^^^ 0xFF := by
  intro h
  have h0 : x ^^^ x = x ^^^ x ^^^ 0xFF := by rw [BitVec.xor_assoc, ← h]
  rw [BitVec.xor_self, BitVec.zero_xor] at h0
  exact absurd h0 (by decide)

/-- Of the stripe CRCs, that of stripe 0 alone differs once the first byte is corrupted. -/
theorem fieldOf_corruptFirst_bne {c : List Byte} (hc : c.length = 16) (s : Nat) :
    (fieldOf c (2 * s) 2 != fieldOf (corruptFirst c) (2 * s) 2) = (s == 0) := by
  obtain ⟨x, y, rfl⟩ := List.exists_cons_of_length_eq_add_one hc
  cases s with
  | zero => simpa [fieldOf] using leNat_cons_ne (xor_FF_ne x) (y.take 1)
  | succ s => simp [fieldOf, Nat.mul_succ]

/-- The bytes that the stripe CRCs cover. -/
def crcCovered (h body aux : List Byte) : List Byte := padTo 16 h ++ padTo 208 body ++ padTo 16 aux

@[simp] theorem length_crcCovered (h body aux : List Byte) : (crcCovered h body aux).length = 240 := by simp [crcCovered]

theorem flitBytes_eq (h body aux : List Byte) (bad : Bool) : flitBytes h body aux bad = crcCovered h body aux ++
    (if bad then corruptFirst (stripeCrcs (crcCovered h body aux)) else stripeCrcs (crcCovered h body aux)) := rfl

theorem badStripes_flitBytes_false (h body aux : List Byte) : badStripes (flitBytes h body aux false) = [] := by
  simp [flitBytes_eq, badStripes_append]

theorem badStripes_flitBytes_true (h body aux : List Byte) : badStripes (flitBytes h body aux true) = [0] := by
  rw [flitBytes_eq, if_pos rfl, badStripes_append (length_crcCovered h body aux),
    List.filter_congr fun s _ => fieldOf_corruptFirst_bne (length_stripeCrcs _) s]
  decide

/-- Settles O23: the header keeps every field that lies in its width, the body stands at the front of its padding, and the
stripes that fail are those whose stored CRC differs. -/
theorem flitLayoutReadsBack : Obligations.FlitLayoutReadsBack := by
  unfold Obligations.FlitLayoutReadsBack
  refine ⟨fun f hty hpos hseq hack hhops hslot hdst hsrc hentry hbody => ⟨f.length_header, ?_⟩, fun h body aux =>
    ⟨by simp [flitBytes_eq], badStripes_flitBytes_false h body aux, badStripes_flitBytes_true h body aux⟩⟩
  have hlen : min 208 (f.body.length % 2 ^ 16) = f.body.length := by omega
  rw [Flit.ofBytes_header, hlen, take_padTo hbody]
  simp only [Nat.mod_eq_of_lt, hty, hpos, hseq, hack, hhops, hslot, hdst, hsrc, hentry]

end Machine
end Sys2Proof
end

section
/-!
PROOF. The width of a port (R208) and what it sends again (R214).
-/
namespace Sys2Proof.Machine

/-! ### The width of a port (R208) -/

/-- The last entry that a filter keeps of `0, …, n - 1` is the largest number below `n` that it accepts. -/
theorem getLast?_filter_range {P : Nat → Bool} {n k : Nat} (hk : k < n) (hP : P k = true) :
    ∃ w, ((List.range n).filter P).getLast? = some w ∧ w < n ∧ P w = true ∧ ∀ v < n, P v = true → v ≤ w := by
  induction n with
  | zero => omega
  | succ n ih =>
    cases hn : P n with
    | true => exact ⟨n, by simp [List.range_succ, hn], by omega, hn, fun v hv _ => by omega⟩
    | false =>
      have below {v : Nat} (hv : v < n + 1) (hPv : P v = true) : v < n := by
        have : v ≠ n := fun h => by simp [h, hn] at hPv
        omega
      obtain ⟨w, hlast, hw, hPw, hmax⟩ := ih (below hk hP)
      exact ⟨w, by simpa [List.range_succ, hn] using hlast, by omega, hPw, fun v hv hPv => hmax v (below hv hPv) hPv⟩

theorem widthLanes_mono {v w : Nat} (h : v ≤ w) : widthLanes v ≤ widthLanes w := Nat.pow_le_pow_right (by decide) h

/-- Without a good lane no width is permitted: each takes a lane. -/
theorem widthFor_no_lanes (p top : Nat) : widthFor p 0 top = none := by
  simp [widthFor, widthLanes]

/-- With a good lane, the width is the largest permitted one that does not exceed the good lanes. -/
theorem widthFor_some (p top : Nat) {g : Nat} (hg : 0 < g) :
    ∃ w, widthFor p g top = some w ∧ w < (if p = 16 then 5 else 4) ∧ widthLanes w ≤ g ∧ w ≤ top ∧
      ∀ v < (if p = 16 then 5 else 4), widthLanes v ≤ g → v ≤ top → v ≤ w := by
  obtain ⟨w, hlast, hw, hok, hmax⟩ := getLast?_filter_range (P := fun w => widthLanes w ≤ g && w ≤ top)
    (n := if p = 16 then 5 else 4) (k := 0) (by split <;> decide)
    (Bool.and_eq_true_iff.mpr ⟨decide_eq_true hg, decide_eq_true top.zero_le⟩)
  simp only [Bool.and_eq_true, decide_eq_true_eq] at hok hmax
  exact ⟨w, hlast, hw, hok.1, hok.2, fun v hv hlanes htop => hmax v hv ⟨hlanes, htop⟩⟩

/-- Settles O21: the permitted widths are x1 to x8, and x16 on port 16, and the width is the largest of them that fits. -/
theorem portWidthIsLargestPermitted : Obligations.PortWidthIsLargestPermitted := by
  unfold Obligations.PortWidthIsLargestPermitted
  refine fun p g => ⟨widthFor_no_lanes p 4, fun hg => ?_⟩
  obtain ⟨w, hwidth, hw, hlanes, htop, hmax⟩ := widthFor_some p 4 hg
  have permitted (v : Nat) : v < (if p = 16 then 5 else 4) ↔ v ≤ 4 ∧ (p ≠ 16 → v ≤ 3) := by split <;> omega
  exact ⟨w, hwidth, hlanes, ((permitted w).mp hw).2, htop, fun v hv hv3 hfits =>
    widthLanes_mono (hmax v ((permitted v).mpr ⟨hv, hv3⟩) hfits hv)⟩

/-! ### Replay (R214) -/

/-- An acknowledgement changes the replay buffer and the flits to resend, and a nak then takes the whole buffer. -/
theorem effNakReceived_eq (p k ack : Nat) : effNakReceived p k ack = (·.modSess p k (fun x =>
    { x with buf := (x.acked ack).buf, resend := (x.acked ack).buf })) := rfl

/-- Settles O20: both commands put the replay buffer in place of the flits to resend, a nak after its acknowledgement. -/
theorem unacknowledgedFlitsAreResent : Obligations.UnacknowledgedFlitsAreResent := by
  unfold Obligations.UnacknowledgedFlitsAreResent
  intro s p k ack hl
  have timeout : exec (.ackTimeout p k) s = .next (s.after (effAckTimeout p k)) := runOn_live hl _
  have nak : exec (.nakReceived p k ack) s = .next (s.after (effNakReceived p k ack)) := runOn_live hl _
  exact ⟨timeout, effNakReceived_eq p k ack ▸ nak⟩

end Sys2Proof.Machine
end

section
/-!
PROOF. Collectives: the ranks share the chunks among them (R244), and every command of the family completes.
-/
namespace Sys2Proof.Machine

/-! ### Ranks and the chunks they own (R244) -/

/-- The rank that owns a chunk: the last one whose share begins at the chunk or before it. -/
def Coll.owner (c : Coll) (k : Nat) : Nat := ((k + 1) * c.members - 1) / c.nChunks

section
variable {c : Coll} (hn : 0 < c.members)
include hn

theorem Coll.mem_owned {lo hi k : Nat} :
    k ∈ c.owned lo hi ↔ lo * c.nChunks / c.members ≤ k ∧ k < hi * c.nChunks / c.members := by
  simp only [Coll.owned, Nat.max_eq_right hn, List.mem_map, List.mem_range]
  exact ⟨fun ⟨i, _, _⟩ => by omega, fun ⟨_, _⟩ => ⟨k - lo * c.nChunks / c.members, by omega, by omega⟩⟩

/-- A chunk lies in the shares of a run of ranks exactly when its owner is one of them. -/
theorem Coll.mem_owned_iff_owner {lo hi k : Nat} (hC : 0 < c.nChunks) :
    k ∈ c.owned lo hi ↔ lo ≤ c.owner k ∧ c.owner k < hi := by
  have hpos : 0 < (k + 1) * c.members := Nat.mul_pos k.succ_pos hn
  have begins : lo * c.nChunks / c.members ≤ k ↔ lo ≤ c.owner k := by
    rw [← Nat.lt_succ_iff, Nat.div_lt_iff_lt_mul hn, Coll.owner, Nat.le_div_iff_mul_le hC]
    exact Nat.lt_iff_le_pred hpos
  have ends : k < hi * c.nChunks / c.members ↔ c.owner k < hi := by
    rw [← Nat.add_one_le_iff, Nat.le_div_iff_mul_le hn, Coll.owner, Nat.div_lt_iff_lt_mul hC]
    omega
  rw [Coll.mem_owned hn, begins, ends]

/-- A single rank's share holds the chunks that the rank is the owner of. -/
theorem Coll.mem_owned_rank {r k : Nat} (hC : 0 < c.nChunks) : k ∈ c.owned r (r + 1) ↔ c.owner k = r := by
  rw [Coll.mem_owned_iff_owner hn hC]
  omega

theorem Coll.owner_lt_members {k : Nat} (hk : k < c.nChunks) : c.owner k < c.members := by
  rw [Coll.owner, Nat.div_lt_iff_lt_mul (by omega), Nat.mul_comm c.members]
  have hle : (k + 1) * c.members ≤ c.nChunks * c.members := Nat.mul_le_mul_right _ hk
  have hpos : 0 < (k + 1) * c.members := Nat.mul_pos k.succ_pos hn
  omega

/-- Without chunks no rank owns any. -/
theorem Coll.not_mem_owned_of_nChunks {lo hi k : Nat} (hC : c.nChunks = 0) : k ∉ c.owned lo hi := by
  simp [Coll.mem_owned hn, hC]

/-- The shares of a run of ranks, a child's subtree, are those of its single ranks together. -/
theorem Coll.mem_owned_iff_exists_rank {lo hi k : Nat} :
    k ∈ c.owned lo hi ↔ ∃ r, lo ≤ r ∧ r < hi ∧ k ∈ c.owned r (r + 1) := by
  rcases Nat.eq_zero_or_pos c.nChunks with hC | hC
  · simp [Coll.not_mem_owned_of_nChunks hn hC]
  · simp [Coll.mem_owned_rank hn hC, Coll.mem_owned_iff_owner hn hC (lo := lo)]

end

/-- Settles O25: a chunk's owner is the quotient `Coll.owner`, which lies in a run of ranks exactly when the run's shares
hold the chunk. -/
theorem ranksShareTheChunks : Obligations.RanksShareTheChunks := by
  unfold Obligations.RanksShareTheChunks
  refine fun c hn => ⟨fun _ _ => Coll.mem_owned hn, fun k hk => ?_, fun _ _ _ => Coll.mem_owned_iff_exists_rank hn⟩
  have rank (q : Nat) : k ∈ c.owned q (q + 1) ↔ c.owner k = q := Coll.mem_owned_rank hn (by omega)
  exact ⟨c.owner k, Coll.owner_lt_members hn hk, (rank _).mpr rfl, fun q _ hq => ((rank q).mp hq).symm⟩

/-- Settles O51: each command of the family runs its effect while the internal reset is not asserted. -/
theorem collectiveCommandsComplete : Obligations.CollectiveCommandsComplete := by
  unfold Obligations.CollectiveCommandsComplete
  intro s hl
  exact ⟨runOn_live hl _, runOn_live hl _, fun _ _ _ => runOn_live hl _, fun _ _ => runOn_live hl _,
    fun _ _ => runOn_live hl _, fun _ _ _ => runOn_live hl _⟩

end Sys2Proof.Machine
end

section
/-!
PROOF. What every command and every step holds: a command always answers a next state, the waiting commands have no say in it,
the internal reset stops all but the commands of power, pins and reset (R465), and only a programming pulse changes the fuses,
from 0 to 1 (R440, R446).
-/
namespace Sys2Proof.Machine

/-! ### Every command is an effect (R465) -/

/-- The effect of a command that acts only while the internal reset is not asserted, as an effect at any time. -/
def onlyLive (f : Module → Module) (m : Module) : Module := if m.rst.inReset then m else f m

theorem runOn_eq_after (s : State) (f : Module → Module) : runOn s f = .next (s.after (onlyLive f)) := by
  cases hr : s.m.rst.inReset <;> simp [runOn, State.after, onlyLive, hr]

/-- Every command but a programming pulse is an effect on the module alone. -/
theorem exists_exec_eq_after (c : Instr) :
    (∃ f : Module → Module, ∀ s, exec c s = .next (s.after f)) ∨ ∃ rev ok, c = .fusePulseDone rev ok := by
  obtain ⟨-, f, hf⟩ | ⟨-, f, hf⟩ | hpulse := exec_shape c
  · exact .inl ⟨f, fun s => (hf s).trans (run_eq s f)⟩
  · exact .inl ⟨onlyLive f, fun s => (hf s).trans (runOn_eq_after s f)⟩
  · exact .inr hpulse

/-- What a programming pulse leads to: nothing while the internal reset is asserted. -/
def afterPulse (rev ok : Bool) (s : State) : State := if s.m.rst.inReset then s else effFusePulse rev ok s

theorem exec_fusePulseDone_eq_afterPulse (rev ok : Bool) (s : State) :
    exec (.fusePulseDone rev ok) s = .next (afterPulse rev ok s) := by
  rw [exec_fusePulseDone, afterPulse]
  split <;> rfl

/-- A programming pulse acts on the module and the fuses, whatever waits in the queue. -/
theorem afterPulse_pending (rev ok : Bool) (s : State) (q : List Instr) :
    afterPulse rev ok { s with pending := q } = { afterPulse rev ok s with pending := q } := by
  unfold afterPulse effFusePulse
  dsimp only
  repeat' split
  all_goals rfl

theorem pending_afterPulse (rev ok : Bool) (s : State) : (afterPulse rev ok s).pending = s.pending := by
  unfold afterPulse
  split
  · rfl
  · obtain h | ⟨b, n, m, -, -, h⟩ := effFusePulse_cases rev ok s <;> rw [h]

/-- Settles O1: the step takes the command at the front and leaves the rest of the queue. -/
theorem frontCommandActs : Obligations.FrontCommandActs := by
  unfold Obligations.FrontCommandActs
  intro c s
  rfl

/-- Settles O2: each command is an effect on the module, and the programming pulse one on module and fuses. -/
theorem everyCommandAnswersNext : Obligations.EveryCommandAnswersNext := by
  unfold Obligations.EveryCommandAnswersNext
  intro c s
  obtain ⟨f, hf⟩ | ⟨rev, ok, rfl⟩ := exists_exec_eq_after c
  · exact ⟨s.after f, hf s, State.after_pending s f⟩
  · exact ⟨afterPulse rev ok s, exec_fusePulseDone_eq_afterPulse rev ok s, pending_afterPulse rev ok s⟩

/-- Settles O3: an effect on module and fuses reads nothing of the queue. -/
theorem waitingCommandsDoNotMatter : Obligations.WaitingCommandsDoNotMatter := by
  unfold Obligations.WaitingCommandsDoNotMatter
  refine ⟨fun c s t q ht => ?_, fun s hq => by simp only [step, hq]⟩
  obtain ⟨f, hf⟩ | ⟨rev, ok, rfl⟩ := exists_exec_eq_after c
  · rw [hf] at ht ⊢
    obtain rfl := Host.Outcome.next.inj ht
    rfl
  · rw [exec_fusePulseDone_eq_afterPulse] at ht ⊢
    obtain rfl := Host.Outcome.next.inj ht
    rw [afterPulse_pending]

/-- Settles O4: a command outside those of power, pins and reset runs its effect only while the internal reset is not
asserted. -/
theorem internalResetStopsTheBlock : Obligations.InternalResetStopsTheBlock := by
  unfold Obligations.InternalResetStopsTheBlock
  intro c s hreset hacts
  obtain ⟨hact, -⟩ | ⟨-, f, hf⟩ | ⟨rev, ok, rfl⟩ := exec_shape c
  · rw [hacts] at hact
    exact absurd hact Bool.false_ne_true
  · rw [hf, runOn_reset hreset]
  · rw [exec_fusePulseDone, if_pos hreset]

/-! ### The fuses (R440, R446) -/

/-- Setting a key to the value that it has changes nothing. -/
theorem SMap.set_get_self {α : Type} [DecidableEq α] {d : Nat → α} {m : SMap α} (h : SMap.wf d m = true) (k : Nat) :
    SMap.set d m k (SMap.get d m k) = m := by
  induction m with
  | nil => simp [SMap.set, SMap.get]
  | cons e r ih =>
    obtain ⟨j, w⟩ := e
    obtain ⟨hw, -, hr⟩ := SMap.wf_cons.mp h
    by_cases hjk : j = k
    · subst hjk
      simp [SMap.set, SMap.get, hw]
    · by_cases hkj : k < j
      · simp [SMap.set, SMap.get, hjk, hkj]
      · simp [SMap.set, SMap.get, hjk, hkj, ih hr]

/-- A pulse on a bit takes no bit from the word. -/
theorem testBit_burnBit_of_testBit {v i : Nat} (h : v.testBit i = true) (b : Nat) (ok : Bool) :
    (burnBit v b ok).testBit i = true := by
  cases ok <;> simp [burnBit, h]

/-- The fuses after a pulse on bit `n` of word `w`. -/
def Otp.pulsed (o : Otp) (w n : Nat) (ok : Bool) : Otp :=
  { o with words := SMap.set (fun _ => 0) o.words w (burnBit (SMap.get (fun _ => 0) o.words w) n ok) }

/-- A pulse that programs nothing leaves the fuses as they were. -/
theorem Otp.pulsed_false {o : Otp} (h : SMap.wf (fun _ => 0) o.words = true) (w n : Nat) : o.pulsed w n false = o := by
  simp [pulsed, burnBit, SMap.set_get_self h]

theorem Otp.wf_pulsed {o : Otp} (h : SMap.wf (fun _ => 0) o.words = true) (w n : Nat) (ok : Bool) :
    SMap.wf (fun _ => 0) (o.pulsed w n ok).words = true := SMap.wf_set h _ _

/-- A pulse takes no bit from any word. -/
theorem Otp.testBit_pulsed {o : Otp} (h : SMap.wf (fun _ => 0) o.words = true) (w n : Nat) (ok : Bool) {x i : Nat}
    (hx : (SMap.get (fun _ => 0) o.words x).testBit i = true) :
    (SMap.get (fun _ => 0) (o.pulsed w n ok).words x).testBit i = true := by
  unfold pulsed
  by_cases hxw : x = w
  · subst hxw
    rw [SMap.get_set_same h]
    exact testBit_burnBit_of_testBit hx n ok
  · rwa [SMap.get_set_other h _ hxw]

/-- A programming pulse leaves the fuses, or puts its bit into the word whose burn is under way. -/
theorem afterPulse_otp_cases (rev ok : Bool) (s : State) :
    (afterPulse rev ok s).otp = s.otp ∨
    ∃ (b : Burn) (n : Nat), (if rev then s.m.sec.revBurn else s.m.sec.burn) = some b ∧ b.pulse = some n ∧
      (afterPulse rev ok s).otp = s.otp.pulsed b.word n ok := by
  unfold afterPulse
  split
  · exact .inl rfl
  · obtain h | ⟨b, n, m, hb, hn, h⟩ := effFusePulse_cases rev ok s
    · exact .inl (by rw [h])
    · exact .inr ⟨b, n, hb, hn, by rw [h]; rfl⟩

/-- A command leaves the fuses, or is a programming pulse that puts its bit into one word. -/
theorem exec_otp_cases {c : Instr} {s t : State} (h : exec c s = .next t) :
    t.otp = s.otp ∨ ∃ w n ok, t.otp = s.otp.pulsed w n ok := by
  obtain ⟨f, hf⟩ | ⟨rev, ok, rfl⟩ := exists_exec_eq_after c
  · rw [hf] at h
    obtain rfl := Host.Outcome.next.inj h
    exact .inl rfl
  · rw [exec_fusePulseDone_eq_afterPulse] at h
    obtain rfl := Host.Outcome.next.inj h
    obtain h | ⟨b, n, -, -, h⟩ := afterPulse_otp_cases rev ok s
    · exact .inl h
    · exact .inr ⟨b.word, n, ok, h⟩

/-- So does a step, whether a command waits or none does. -/
theorem step_otp_cases {s t : State} (h : step s = .next t) : t.otp = s.otp ∨ ∃ w n ok, t.otp = s.otp.pulsed w n ok := by
  unfold step at h
  split at h
  · obtain rfl := Host.Outcome.next.inj h
    exact .inl rfl
  · next c rest _ => exact exec_otp_cases (s := { s with pending := rest }) h

/-- Settles O6: the fuses after a step are those before it, or those with one pulsed bit more. -/
theorem programmedFusesStay : Obligations.ProgrammedFusesStay := by
  unfold Obligations.ProgrammedFusesStay
  intro base s t hwf hbase hstep
  obtain h | ⟨w, n, ok, h⟩ := step_otp_cases hstep
  · simpa only [State.fusesWf, FusesHold, State.fuseAt, h] using ⟨hwf, hbase⟩
  · simp only [State.fusesWf, FusesHold, State.fuseAt, h]
    exact ⟨Otp.wf_pulsed hwf w n ok, fun x i hx => Otp.testBit_pulsed hwf w n ok (hbase x i hx)⟩

/-- Settles O5: every other command is an effect on the module, and a pulse that programs nothing leaves its word. -/
theorem onlyFusePulsesProgramFuses : Obligations.OnlyFusePulsesProgramFuses := by
  unfold Obligations.OnlyFusePulsesProgramFuses
  refine ⟨fun c s t ht hc => ?_, fun rev ok s t hwf ht hne => ?_⟩
  · obtain ⟨f, hf⟩ | ⟨rev, ok, rfl⟩ := exists_exec_eq_after c
    · rw [hf] at ht
      obtain rfl := Host.Outcome.next.inj ht
      rfl
    · exact absurd rfl (hc rev ok)
  · rw [exec_fusePulseDone_eq_afterPulse] at ht
    obtain rfl := Host.Outcome.next.inj ht
    obtain h | ⟨b, n, hb, hn, h⟩ := afterPulse_otp_cases rev ok s
    · exact absurd h hne
    · cases ok with
      | false => exact absurd (h.trans (Otp.pulsed_false hwf b.word n)) hne
      | true => exact ⟨b, n, hb, hn, rfl, h⟩

/-! ### The state after reset (R467) -/

/-- The life-cycle words of the modelled part are burned or blank (log entry 8). -/
theorem fuseAt_reset_lifeCycle : ∀ w < 7, State.reset.fuseAt w = 0 ∨ State.reset.fuseAt w = 0xA5 := by decide

/-- The modelled part is FIELDED (log entry 8). -/
theorem lcDecode_reset : lcDecode State.reset.fuseAt = 2 := by decide

/-- Settles O7: the list of fuse words is in form, and its first two words alone are burned among words 0 to 3. -/
theorem resetFusesInForm : Obligations.ResetFusesInForm := by
  unfold Obligations.ResetFusesInForm
  exact ⟨by decide, fuseAt_reset_lifeCycle, by rw [lcDecode_reset]; decide⟩

/-- Settles O8: after reset one register alone differs from its reset value, and every other part is the initial one. -/
theorem resetState : Obligations.ResetState := by
  unfold Obligations.ResetState
  refine ⟨rfl, rfl, rfl, rfl, rfl, rfl, ?_⟩
  decide

end Sys2Proof.Machine
end

section
/-!
PROOF. Composition images and live rebinding: an applied or rejected slot is released (R285), a new tally starts at zero (R305),
a migration is cancelled only while PENDING and released only when DONE (R298, R299), and every command of the family completes.
-/
namespace Sys2Proof.Machine

section
variable {s : State} (hl : Live s)
include hl

theorem exec_slotRelease (k : Nat) : exec (.slotRelease k) s = .next (s.after (effSlotRelease k)) := runOn_live hl _

theorem exec_tallyReset (id : Nat) : exec (.tallyReset id) s = .next (s.after (effTallyReset id)) := runOn_live hl _

theorem exec_migCancel (d i : Nat) : exec (.migCancel d i) s = .next (s.after (effMigCancel d i)) := runOn_live hl _

theorem exec_migRelease (d i : Nat) : exec (.migRelease d i) s = .next (s.after (effMigRelease d i)) := runOn_live hl _

end

section
variable {m : Module}

theorem effSlotRelease_ended {k : Nat} (h : (m.slot k).state = .applied ∨ (m.slot k).state = .rejected) :
    effSlotRelease k m = m.setComp (fun c => { c with slots := c.slots.put k slotInit }) := by
  obtain h | h := h <;> simp [effSlotRelease, Module.modSlot, h]

theorem effSlotRelease_other {k : Nat} (happlied : (m.slot k).state ≠ .applied) (hrejected : (m.slot k).state ≠ .rejected) :
    effSlotRelease k m = m := by
  simp [effSlotRelease, happlied, hrejected]

theorem effMigCancel_pending {d i : Nat} (h : m.migState d i = 1) :
    effMigCancel d i m = m.setMem (fun x => { x with migs := x.migs.del (d * 2 + i) }) := if_pos h

theorem effMigCancel_other {d i : Nat} (h : m.migState d i ≠ 1) : effMigCancel d i m = m := if_neg h

theorem effMigRelease_done {d i : Nat} (h : m.migState d i = 4) :
    effMigRelease d i m = m.setMem (fun x =>
      { x with migs := x.migs.mod (d * 2 + i) (fun g => { g with release := true }) }) := if_pos h

theorem effMigRelease_other {d i : Nat} (h : m.migState d i ≠ 4) : effMigRelease d i m = m := if_neg h

end

/-- Settles O26: each command acts in the states of its slot or migration that the statement names, and in no other. -/
theorem slotReleaseTallyAndMigrationControl : Obligations.SlotReleaseTallyAndMigrationControl := by
  unfold Obligations.SlotReleaseTallyAndMigrationControl
  intro s k id d i hl
  rw [exec_slotRelease hl, exec_tallyReset hl, exec_migCancel hl, exec_migRelease hl]
  refine ⟨fun h => ?ended, fun ha hr => ?notEnded, rfl, fun h => ?pending, fun h => ?notPending, fun h => ?done,
    fun h => ?notDone⟩
  case ended => exact congrArg _ (State.after_congr (effSlotRelease_ended h))
  case notEnded => exact congrArg _ (State.after_eq_self (effSlotRelease_other ha hr))
  case pending => exact congrArg _ (State.after_congr (effMigCancel_pending h))
  case notPending => exact congrArg _ (State.after_eq_self (effMigCancel_other h))
  case done => exact congrArg _ (State.after_congr (effMigRelease_done h))
  case notDone => exact congrArg _ (State.after_eq_self (effMigRelease_other h))

/-- Settles O52: each command of the family runs its effect while the internal reset is not asserted. -/
theorem imageCommandsComplete : Obligations.ImageCommandsComplete := by
  unfold Obligations.ImageCommandsComplete
  intro s hl
  exact ⟨fun _ _ => runOn_live hl _, fun _ _ => runOn_live hl _, fun _ _ => runOn_live hl _, fun _ _ => runOn_live hl _,
    fun _ _ _ => runOn_live hl _, fun _ => runOn_live hl _, exec_slotRelease hl, fun _ _ => runOn_live hl _,
    fun _ => runOn_live hl _, fun _ _ _ => runOn_live hl _, exec_tallyReset hl, fun _ _ => runOn_live hl _,
    exec_migRelease hl, exec_migCancel hl, fun _ _ _ => runOn_live hl _⟩

end Sys2Proof.Machine
end

section
/-!
PROOF. Twin pairing: RESET_REQ begins a hold-off only on a PAIRED module that its own verdict names faulty (R326), and every
command of the family completes.
-/
namespace Sys2Proof.Machine

theorem exec_resetReq {s : State} (hl : Live s) : exec .resetReq s = .next (s.after effResetReq) := runOn_live hl _

/-! ### Held-off sources (R453, R455) -/

section
variable {m : Module} (hgood : m.rst.good = true)
include hgood

/-- A held-off source on a running module begins a hold-off of its code, which RST_SOURCES shows alone. -/
theorem Module.source_begins (hquiet : m.quiet = false) (code : Nat) :
    m.source code = (m.setRst (fun r => { r with hold := some (code, 3) })).setReg RST_SOURCES (2 ^ code) := by
  simp [source, hgood, hquiet]

/-- In a hold-off or in reset, a held-off source only adds its bit to RST_SOURCES. -/
theorem Module.source_joins (hquiet : m.quiet = true) (code : Nat) :
    m.source code = m.setReg RST_SOURCES (m.reg RST_SOURCES ||| 2 ^ code) := by
  simp [source, hgood, hquiet]

end

/-! ### RESET_REQ (R326) -/

section
variable {m : Module}

theorem effResetReq_faulty (hstate : m.twin.state = tsPAIRED) (hfaulty : m.twin.faulty = true) :
    effResetReq m = m.twinHeard.source 7 := by
  refine if_pos ?_
  rw [Bool.and_eq_true, beq_iff_eq]
  exact ⟨hstate, hfaulty⟩

theorem effResetReq_other (h : ¬ (m.twin.state = tsPAIRED ∧ m.twin.faulty = true)) :
    effResetReq m = m.twinHeard.count TWIN_BAD_MSG_count 1 := by
  refine if_neg ?_
  rw [Bool.and_eq_true, beq_iff_eq]
  exact h

end

/-- Settles O27: the message's sign of life changes neither the verdict nor the reset state, so that the request acts on the
module as the message found it. -/
theorem twinResetRequest : Obligations.TwinResetRequest := by
  unfold Obligations.TwinResetRequest
  intro s hl
  rw [exec_resetReq hl]
  refine ⟨fun hstate hfaulty hgood hhold => ?_, fun h => ?_⟩
  · have hquiet : s.m.twinHeard.quiet = false := Module.quiet_of_live hl hhold
    have hgood : s.m.twinHeard.rst.good = true := hgood
    exact congrArg _ (State.after_congr (by rw [effResetReq_faulty hstate hfaulty, Module.source_begins hgood hquiet]))
  · exact congrArg _ (State.after_congr (effResetReq_other h))

/-- Settles O53: each command of the family runs its effect while the internal reset is not asserted. -/
theorem twinningCommandsComplete : Obligations.TwinningCommandsComplete := by
  unfold Obligations.TwinningCommandsComplete
  intro s hl
  exact ⟨fun _ _ _ _ _ _ _ => runOn_live hl _, fun _ _ => runOn_live hl _, runOn_live hl _, fun _ _ _ _ => runOn_live hl _,
    fun _ _ _ _ => runOn_live hl _, fun _ _ _ _ _ => runOn_live hl _, fun _ _ _ => runOn_live hl _, runOn_live hl _,
    runOn_live hl _, exec_resetReq hl, fun _ _ => runOn_live hl _, fun _ => runOn_live hl _, fun _ => runOn_live hl _,
    fun _ _ => runOn_live hl _, runOn_live hl _, runOn_live hl _⟩

end Sys2Proof.Machine
end

section
/-!
PROOF. The host interface: the mailbox carries one message each way (R340), a change of the link shows in GLB_PCIE (R332), an
unmasked vector that is pending sends at once (R342), a TAIL is accepted or counted (R354), ABORT acts by the state word it finds
(R363), and every command of the family completes.
-/
namespace Sys2Proof.Machine

section
variable {s : State} (hl : Live s)
include hl

theorem exec_pcieLinkChange (gen lanes : Nat) :
    exec (.pcieLinkChange gen lanes) s = .next (s.after (effPcieLink gen lanes)) := runOn_live hl _

theorem exec_vfMboxSend (v : Nat) : exec (.vfMboxSend v) s = .next (s.after (tlp v (effVfMboxSend v))) := runOn_live hl _

theorem exec_vfMboxInAck (v : Nat) : exec (.vfMboxInAck v) s = .next (s.after (tlp v (effVfMboxInAck v))) := runOn_live hl _

theorem exec_pfMboxAck : exec .pfMboxAck s = .next (s.after (tlp 0 effPfMboxAck)) := runOn_live hl _

theorem exec_pfMboxSend : exec .pfMboxSend s = .next (s.after (tlp 0 effPfMboxSend)) := runOn_live hl _

theorem exec_atomicOpReceived : exec .atomicOpReceived s = .next (s.after (tlp 0 effAtomicOp)) := runOn_live hl _

theorem exec_msixUnmask (fn : Nat) (w : MsixWrite) :
    exec (.msixUnmask fn w) s = .next (s.after (tlp fn (effMsixUnmask fn w))) := runOn_live hl _

theorem exec_hostEnable : exec .hostEnable s = .next (s.after (tlp 0 effHostEnable)) := runOn_live hl _

theorem exec_hostLock : exec .hostLock s = .next (s.after (tlp 0 effHostLock)) := runOn_live hl _

theorem exec_tail (fn slot v upper : Nat) :
    exec (.tail fn slot v upper) s = .next (s.after (tlp fn (effTail fn slot v upper))) := runOn_live hl _

theorem exec_abort (fn slot i upper : Nat) :
    exec (.abort fn slot i upper) s = .next (s.after (tlp fn (effAbort fn slot i upper))) := runOn_live hl _

end

/-! ### TLPs of the PF and of a function whose writes are taken (R335, R343, R344) -/

/-- A TLP of the PF off accepted traffic leaves no trace: the PF is never a confidential partition's. -/
theorem tlp_pf_discarded {m : Module} (h : m.trafficOk 0 = false) (f : Module → Module) : tlp 0 f m = m :=
  tlp_of_not_trafficOk_open h (by simp [Module.fnConf]) f

/-- A TLP that the module does not accept is counted as a refused access exactly when its function is confidential. -/
theorem tlp_discarded {m : Module} {fn : Nat} (h : m.trafficOk fn = false) (f : Module → Module) :
    tlp fn f m = if m.fnConf fn then m.confRefused else m := by
  cases hconf : m.fnConf fn with
  | true => rw [tlp_of_not_trafficOk_conf h hconf, if_pos rfl]
  | false => rw [tlp_of_not_trafficOk_open h hconf, if_neg Bool.false_ne_true]

/-- A function whose writes are taken has its traffic accepted. -/
theorem Module.trafficOk_of_fnTakes {m : Module} {fn : Nat} (h : m.fnTakes fn = true) : m.trafficOk fn = true :=
  ((Bool.and_eq_true _ _).mp h).2

/-! ### Mailboxes (R340) -/

/-- What it takes for the registers of a VF to be there. -/
theorem Module.vfThere_iff (m : Module) (v : Nat) :
    m.vfThere v = true ↔ isVf v = true ∧ (vfPart m.recs v).isSome = true ∧ m.fnTakes v = true := by
  simp [vfThere, and_assoc]

section
variable {m : Module} {v : Nat}

theorem Module.trafficOk_of_vfThere (h : m.vfThere v = true) : m.trafficOk v = true :=
  trafficOk_of_fnTakes ((m.vfThere_iff v).mp h).2.2

/-- A VF whose registers are there is one that a partition names. -/
theorem Module.fnNamed_of_vfThere (h : m.vfThere v = true) : m.fnNamed v = true := by
  obtain ⟨-, hpart, -⟩ := (m.vfThere_iff v).mp h
  simp [fnNamed, hpart]

theorem effVfMboxSend_free (h : m.vfThere v = true) (hfree : m.flag (VF_MBOX_CTRL_out_busy v) = false) :
    effVfMboxSend v m = (((each (List.range 16) m (fun m i => m.setReg (mboxPf v i) (m.reg (VF_MBOX_OUT v i)))).setFld
      (mboxPend v) 1).setFld (VF_MBOX_CTRL_out_busy v) 1).signal 0 1 := by
  simp [effVfMboxSend, h, hfree]

theorem effVfMboxSend_busy (h : m.vfThere v = true) (hbusy : m.flag (VF_MBOX_CTRL_out_busy v) = true) :
    effVfMboxSend v m = m.raiseVf v (VF_EVENT_busy v) := by
  simp [effVfMboxSend, h, hbusy]

theorem effVfMboxInAck_there (h : m.vfThere v = true) : effVfMboxInAck v m = m.setFld (VF_MBOX_CTRL_in_full v) 0 := if_pos h

/-! The PF's side: the VF that GLB_MBOX_SEL selects, `v`, is there. -/

theorem effPfMboxAck_pending (h : m.vfThere v = true) (hsel : m.fld GLB_MBOX_SEL_vf = v) (hpend : m.flag (mboxPend v) = true) :
    effPfMboxAck m = ((m.setFld (mboxPend v) 0).setFld (VF_MBOX_CTRL_out_busy v) 0).raiseVf v (VF_EVENT_out_acked v) := by
  obtain ⟨hvf, -, -⟩ := (m.vfThere_iff v).mp h
  have hnamed : ((m.setFld (mboxPend v) 0).setFld (VF_MBOX_CTRL_out_busy v) 0).fnNamed v = true := Module.fnNamed_of_vfThere h
  simp [effPfMboxAck, hsel, hvf, hpend, hnamed]

theorem effPfMboxSend_free (h : m.vfThere v = true) (hsel : m.fld GLB_MBOX_SEL_vf = v)
    (hfree : m.flag (VF_MBOX_CTRL_in_full v) = false) :
    effPfMboxSend m = (((each (List.range 16) m (fun m i => m.setReg (VF_MBOX_IN v i) (m.reg (mboxOut v i)))).setFld
      (VF_MBOX_CTRL_in_full v) 1).setFld (VF_EVENT_in_msg v) 1).signal v 0 := by
  obtain ⟨hvf, -, -⟩ := (m.vfThere_iff v).mp h
  simp [effPfMboxSend, hsel, hvf, Module.fnNamed_of_vfThere h, hfree]

theorem effPfMboxSend_full (h : m.vfThere v = true) (hsel : m.fld GLB_MBOX_SEL_vf = v)
    (hfull : m.flag (VF_MBOX_CTRL_in_full v) = true) : effPfMboxSend m = m.raise GLB_EVENT_mbox_busy := by
  obtain ⟨hvf, -, -⟩ := (m.vfThere_iff v).mp h
  simp [effPfMboxSend, hsel, hvf, Module.fnNamed_of_vfThere h, hfull]

end

/-- Settles O30: each direction tests the one bit that says whether its message is still there. -/
theorem mailboxCarriesOneMessageEachWay : Obligations.MailboxCarriesOneMessageEachWay := by
  unfold Obligations.MailboxCarriesOneMessageEachWay
  intro s v hl hthere
  have hv := tlp_of_trafficOk (Module.trafficOk_of_vfThere hthere)
  rw [exec_vfMboxSend hl, exec_vfMboxInAck hl, exec_pfMboxAck hl, exec_pfMboxSend hl]
  refine ⟨fun hfree => ?sent, fun hbusy => ?refused, ?inAck, fun hpf => ⟨?ackLost, ?sendLost⟩,
    fun hpf hsel => ⟨fun hpend => ?acked, fun hfree => ?replied, fun hfull => ?replyRefused⟩⟩
  case sent => exact congrArg _ (State.after_congr ((hv _).trans (effVfMboxSend_free hthere hfree)))
  case refused => exact congrArg _ (State.after_congr ((hv _).trans (effVfMboxSend_busy hthere hbusy)))
  case inAck => exact congrArg _ (State.after_congr ((hv _).trans (effVfMboxInAck_there hthere)))
  case ackLost => exact congrArg _ (State.after_eq_self (tlp_pf_discarded hpf _))
  case sendLost => exact congrArg _ (State.after_eq_self (tlp_pf_discarded hpf _))
  case acked =>
    exact congrArg _ (State.after_congr ((tlp_of_trafficOk hpf _).trans (effPfMboxAck_pending hthere hsel hpend)))
  case replied =>
    exact congrArg _ (State.after_congr ((tlp_of_trafficOk hpf _).trans (effPfMboxSend_free hthere hsel hfree)))
  case replyRefused =>
    exact congrArg _ (State.after_congr ((tlp_of_trafficOk hpf _).trans (effPfMboxSend_full hthere hsel hfull)))

/-! ### The link (R329, R332) -/

/-- GLB_PCIE shows a link that is up. -/
def Module.showLink (m : Module) (gen w : Nat) : Module :=
  ((m.setFld GLB_PCIE_gen gen).setFld GLB_PCIE_width w).setFld GLB_PCIE_flit (b2n (gen ≥ 3))

/-- A module that shows the link has link_change set when generation or width differ from before. -/
def Module.noteLinkChange (m : Module) (old : Nat × Nat) : Module :=
  if (m.fld GLB_PCIE_gen, m.fld GLB_PCIE_width) = old then m else m.raise GLB_EVENT_link_change

theorem effPcieLink_up {m : Module} (harmed : m.pcieArmed = true) {gen lanes w : Nat} (hlow : 1 ≤ gen) (hhigh : gen ≤ 4)
    (hw : widthCode lanes = some w) :
    effPcieLink gen lanes m = (m.showLink gen w).noteLinkChange (m.fld GLB_PCIE_gen, m.fld GLB_PCIE_width) := by
  simp only [effPcieLink, harmed, hlow, hhigh, hw, decide_true, Bool.and_self, if_true, beq_iff_eq]
  rfl

/-- A width code is one of three. -/
theorem widthCode_le {lanes w : Nat} (h : widthCode lanes = some w) : w ≤ 2 := by
  unfold widthCode at h
  repeat' split at h
  all_goals cases h
  all_goals decide

section
variable {m : Module} (hwf : m.regsWf) (gen w : Nat)
include hwf

theorem Module.regsWf_showLink : (m.showLink gen w).regsWf :=
  regsWf_setFld (regsWf_setFld (regsWf_setFld hwf _ _) _ _) _ _

theorem Module.gen_showLink (hgen : gen ≤ 4) : (m.showLink gen w).fld GLB_PCIE_gen = gen := by
  have h1 := regsWf_setFld hwf GLB_PCIE_gen gen
  have h2 := regsWf_setFld h1 GLB_PCIE_width w
  rw [showLink, fld_setFld_other h2 _ _ _ (by decide) (by decide), fld_setFld_other h1 _ _ _ (by decide) (by decide),
    fld_setFld_same hwf _ _ (by decide)]
  exact Nat.mod_eq_of_lt (Nat.lt_of_le_of_lt hgen (by decide))

theorem Module.width_showLink (hw : w ≤ 2) : (m.showLink gen w).fld GLB_PCIE_width = w := by
  have h1 := regsWf_setFld hwf GLB_PCIE_gen gen
  have h2 := regsWf_setFld h1 GLB_PCIE_width w
  rw [showLink, fld_setFld_other h2 _ _ _ (by decide) (by decide), fld_setFld_same h1 _ _ (by decide)]
  exact Nat.mod_eq_of_lt (Nat.lt_of_le_of_lt hw (by decide))

theorem Module.flit_showLink : (m.showLink gen w).fld GLB_PCIE_flit = b2n (3 ≤ gen) := by
  have h2 := regsWf_setFld (regsWf_setFld hwf GLB_PCIE_gen gen) GLB_PCIE_width w
  rw [showLink, fld_setFld_same h2 _ _ (by decide)]
  cases decide (3 ≤ gen) <;> rfl

/-- Noting the change leaves GLB_PCIE. -/
theorem Module.fld_noteLinkChange (old : Nat × Nat) {g : Fld} (hg : g.off ≠ GLB_EVENT_link_change.off) :
    (m.noteLinkChange old).fld g = m.fld g := by
  unfold noteLinkChange
  split
  · rfl
  · exact fld_raise_other hwf _ _ hg

/-- A change of generation or width is noted. -/
theorem Module.flag_noteLinkChange {old : Nat × Nat} (h : (m.fld GLB_PCIE_gen, m.fld GLB_PCIE_width) ≠ old) :
    (m.noteLinkChange old).flag GLB_EVENT_link_change = true := by
  rw [noteLinkChange, if_neg h]
  exact flag_raise hwf _ (by decide) (by decide)

end

/-- Showing a link and noting its change touch registers and messages alone. -/
theorem Module.noteLinkChange_showLink_eq (m : Module) (gen w : Nat) (old : Nat × Nat) :
    (m.showLink gen w).noteLinkChange old = { m with
      regs := ((m.showLink gen w).noteLinkChange old).regs
      out := ((m.showLink gen w).noteLinkChange old).out
      msixPend := ((m.showLink gen w).noteLinkChange old).msixPend } := by
  unfold noteLinkChange
  split
  · rfl
  · rw [raise_eq]
    rfl

/-- Settles O32: the new link stands in the fields of GLB_PCIE, and raising the event leaves them. -/
theorem linkChangeIsShown : Obligations.LinkChangeIsShown := by
  unfold Obligations.LinkChangeIsShown
  intro s gen lanes w hl harmed hlow hhigh hwidth hwf
  have hshow : (s.m.showLink gen w).regsWf := Module.regsWf_showLink hwf gen w
  have hgen := Module.gen_showLink hwf gen w hhigh
  have hw := Module.width_showLink hwf gen w (widthCode_le hwidth)
  have heff := effPcieLink_up harmed hlow hhigh hwidth
  refine ⟨s.after (effPcieLink gen lanes), exec_pcieLinkChange hl gen lanes, ?_⟩
  rw [State.after_m, heff]
  refine ⟨?gen, ?width, ?flit, fun hne => ?event, ?frame⟩
  case gen => rw [Module.fld_noteLinkChange hshow _ (by decide), hgen]
  case width => rw [Module.fld_noteLinkChange hshow _ (by decide), hw]
  case flit => rw [Module.fld_noteLinkChange hshow _ (by decide), Module.flit_showLink hwf]
  case event => exact Module.flag_noteLinkChange hshow (by rwa [hgen, hw])
  case frame => rw [State.after, heff, ← Module.noteLinkChange_showLink_eq]

/-! ### MSI-X (R342) -/

/-- Message Control of a function as it was last written. -/
theorem Module.msixControl_put (m : Module) (fn : Nat) (x : Bool × Bool) :
    (m.setPcie (fun p => { p with msix := p.msix.put fn x })).msixControl fn = x := by
  simp [msixControl]

/-- A function none of whose pending vectors may send sends nothing. -/
theorem Module.msixFlush_closed {m : Module} {fn : Nat} (h : ∀ e ∈ m.msixPend, e.1 = fn → m.msixOpen fn e.2 = false) :
    m.msixFlush fn = m := by
  have hgo : m.msixPend.filter (fun e => e.1 == fn && m.msixOpen fn e.2) = [] := by
    rw [List.filter_eq_nil_iff]
    intro e he
    by_cases hfn : e.1 = fn
    · simp [h e he hfn]
    · simp [hfn]
  have hkeep : m.msixPend.filter (fun e => !([] : List (Nat × Nat)).contains e) = m.msixPend :=
    List.filter_eq_self.mpr (fun _ _ => rfl)
  simp only [msixFlush, hgo, each, List.foldl_nil, hkeep]

/-- A function exactly one of whose pending vectors may send sends that one. -/
theorem Module.msixFlush_one {m : Module} {fn vec : Nat}
    (h : m.msixPend.filter (fun e => e.1 == fn && m.msixOpen fn e.2) = [(fn, vec)]) :
    m.msixFlush fn = { m with msixPend := m.msixPend.filter (fun e => e != (fn, vec)), out := m.out ++ [.msix fn vec] } := by
  simp only [msixFlush, h, each, List.foldl_cons, List.foldl_nil, emit]
  congr 1
  refine List.filter_congr fun e _ => ?_
  rw [List.contains_cons, List.contains_nil, Bool.or_false, bne]

/-- A vector is unmasked. -/
def Module.unmask (m : Module) (fn vec : Nat) : Module := { m with unmasked := (fn, vec) :: m.unmasked }

/-- With MSI-X of a function open, a vector may send exactly when it is not masked. -/
theorem Module.msixOpen_unmask {m : Module} {fn : Nat} (hleave : m.mayLeave fn = true) (hquiet : m.quiet = false)
    (hctl : m.msixControl fn = (true, false)) (vec v : Nat) :
    (m.unmask fn vec).msixOpen fn v = true ↔ v = vec ∨ (fn, v) ∈ m.unmasked := by
  have hleave : (m.unmask fn vec).mayLeave fn = true := hleave
  have hquiet : (m.unmask fn vec).quiet = false := hquiet
  have hctl : (m.unmask fn vec).msixControl fn = (true, false) := hctl
  rw [msixOpen, hleave, hquiet, hctl]
  simp [unmask]

section
variable {m : Module} {fn vec : Nat} (hopen : ∀ v, (m.unmask fn vec).msixOpen fn v = true ↔ v = vec ∨ (fn, v) ∈ m.unmasked)
  (hother : ∀ v, (fn, v) ∈ m.msixPend → (fn, v) ∉ m.unmasked)
include hopen hother

/-- With no other vector of the function pending and unmasked, the one just unmasked may send alone. -/
theorem Module.pending_open_unmask_iff {e : Nat × Nat} (he : e ∈ m.msixPend) :
    (e.1 == fn && (m.unmask fn vec).msixOpen fn e.2) = (e == (fn, vec)) := by
  obtain ⟨f, v⟩ := e
  rw [Bool.eq_iff_iff, Bool.and_eq_true, hopen, beq_iff_eq, beq_iff_eq, Prod.mk.injEq]
  constructor
  · rintro ⟨rfl, hv⟩
    exact ⟨rfl, hv.resolve_right (hother v he)⟩
  · rintro ⟨rfl, rfl⟩
    exact ⟨rfl, .inl rfl⟩

/-- A vector unmasked with its pending bit set sends at once, and the bit clears. -/
theorem Module.msixFlush_unmask_pending (hnodup : m.msixPend.Nodup) (hpend : (fn, vec) ∈ m.msixPend) :
    (m.unmask fn vec).msixFlush fn = { m with
      unmasked := (fn, vec) :: m.unmasked, msixPend := m.msixPend.filter (fun e => e != (fn, vec)),
      out := m.out ++ [.msix fn vec] } := by
  refine msixFlush_one ?_
  change m.msixPend.filter _ = _
  rw [List.filter_congr (fun e he => pending_open_unmask_iff hopen hother he), List.filter_beq,
    List.Nodup.count hnodup, if_pos hpend, List.replicate_one]

/-- A vector unmasked without its pending bit sends nothing. -/
theorem Module.msixFlush_unmask_idle (hidle : (fn, vec) ∉ m.msixPend) :
    (m.unmask fn vec).msixFlush fn = { m with unmasked := (fn, vec) :: m.unmasked } := by
  refine msixFlush_closed fun e he hfn => ?_
  have h := pending_open_unmask_iff hopen hother (show e ∈ m.msixPend from he)
  have hne : e ≠ (fn, vec) := fun heq => hidle (heq ▸ he)
  rw [beq_eq_false_iff_ne.mpr hne] at h
  simpa [hfn] using h

end

section
variable {m : Module} {fn : Nat}

theorem effMsixUnmask_vector (hfn : fn ≤ 64) (hnamed : m.fnNamed fn = true) (ht : m.trafficOk fn = true) {vec : Nat}
    (hvec : vec < 2048) (hmasked : (fn, vec) ∉ m.unmasked) :
    effMsixUnmask fn (.vector vec) m = (m.unmask fn vec).msixFlush fn := by
  simp [effMsixUnmask, Nat.not_lt.mpr hfn, hnamed, ht, Nat.not_le.mpr hvec, hmasked, Module.unmask]

/-- Message Control written with MSI-X off or masked as a whole stores its two bits. -/
theorem effMsixUnmask_control_closed (hfn : fn ≤ 64) (hnamed : m.fnNamed fn = true) (ht : m.trafficOk fn = true)
    {en mask : Bool} (hclosed : en = false ∨ mask = true) :
    effMsixUnmask fn (.control en mask) m = m.setPcie (fun p => { p with msix := p.msix.put fn (en, mask) }) := by
  have hflush : effMsixUnmask fn (.control en mask) m = (m.setPcie (fun p => { p with msix := p.msix.put fn (en, mask) })).msixFlush fn := by
    simp [effMsixUnmask, Nat.not_lt.mpr hfn, hnamed, ht]
  refine hflush.trans (Module.msixFlush_closed fun e _ _ => ?_)
  obtain rfl | rfl := hclosed <;> simp [Module.msixOpen, Module.msixControl_put]

theorem effMsixUnmask_unnamed (hnamed : m.fnNamed fn = false) (w : MsixWrite) : effMsixUnmask fn w m = m := by
  simp [effMsixUnmask, hnamed]

/-- A function whose requests may leave is named, and its traffic is accepted. -/
theorem Module.mayLeave_iff : m.mayLeave fn = true ↔
    m.fnExists fn = true ∧ m.fnNamed fn = true ∧ m.inFlr fn = false ∧ m.trafficOk fn = true := by
  simp [mayLeave, and_assoc]

/-- A write of HOST_CTRL.enable while locked is ignored, whether or not it is accepted. -/
theorem tlp_effHostEnable_locked (hlock : m.flag HOST_CTRL_lock = true) : tlp 0 effHostEnable m = m := by
  cases ht : m.trafficOk 0 with
  | true => simp [tlp_of_trafficOk ht, effHostEnable, hlock]
  | false => exact tlp_pf_discarded ht _

end

/-- Settles O31: of the pending vectors only the one just unmasked may send, and none while MSI-X is off or masked. -/
theorem unmaskedVectorSendsAtOnce : Obligations.UnmaskedVectorSendsAtOnce := by
  unfold Obligations.UnmaskedVectorSendsAtOnce
  intro s fn vec en mask hl
  simp only [exec_msixUnmask hl, exec_atomicOpReceived hl, exec_hostLock hl, exec_hostEnable hl]
  refine ⟨fun hfn hvec hmasked hleave hquiet hctl hnodup hother => ⟨fun hpend => ?sent, fun hidle => ?idle⟩,
    fun hfn hnamed ht hclosed => ?closed, fun hnamed ht => ⟨?unnamed, ?unnamedControl⟩, fun ht w => ?discarded,
    fun ht => ⟨?atomicOp, ?lock⟩, fun ht => ⟨?atomicOpLost, ?lockLost⟩, fun hlock => ?enable⟩
  case sent =>
    obtain ⟨-, hnamed, -, ht⟩ := Module.mayLeave_iff.mp hleave
    exact congrArg _ (State.after_congr ((tlp_of_trafficOk ht _).trans ((effMsixUnmask_vector hfn hnamed ht hvec hmasked).trans
      (Module.msixFlush_unmask_pending (Module.msixOpen_unmask hleave hquiet hctl vec) hother hnodup hpend))))
  case idle =>
    obtain ⟨-, hnamed, -, ht⟩ := Module.mayLeave_iff.mp hleave
    exact congrArg _ (State.after_congr ((tlp_of_trafficOk ht _).trans ((effMsixUnmask_vector hfn hnamed ht hvec hmasked).trans
      (Module.msixFlush_unmask_idle (Module.msixOpen_unmask hleave hquiet hctl vec) hother hidle))))
  case closed =>
    exact congrArg _ (State.after_congr ((tlp_of_trafficOk ht _).trans (effMsixUnmask_control_closed hfn hnamed ht hclosed)))
  case unnamed => exact congrArg _ (State.after_eq_self ((tlp_of_trafficOk ht _).trans (effMsixUnmask_unnamed hnamed _)))
  case unnamedControl => exact congrArg _ (State.after_eq_self ((tlp_of_trafficOk ht _).trans (effMsixUnmask_unnamed hnamed _)))
  case discarded =>
    rw [State.after, tlp_discarded ht]
    split <;> rfl
  case atomicOp => exact congrArg _ (State.after_congr (tlp_of_trafficOk ht _))
  case lock => exact congrArg _ (State.after_congr (tlp_of_trafficOk ht _))
  case atomicOpLost => exact congrArg _ (State.after_eq_self (tlp_pf_discarded ht _))
  case lockLost => exact congrArg _ (State.after_eq_self (tlp_pf_discarded ht _))
  case enable => exact congrArg _ (State.after_eq_self (tlp_effHostEnable_locked hlock))

/-! ### Doorbells (R348, R353 to R355) -/

section
variable {m : Module} {fn slot : Nat}

/-- A function whose doorbells are served has its traffic accepted. -/
theorem Module.trafficOk_of_servesFn (h : m.servesFn fn = true) : m.trafficOk fn = true :=
  trafficOk_of_fnTakes ((Bool.and_eq_true _ _).mp h).2

variable (hserves : m.servesFn fn = true)
include hserves

/-- The entries up to the new tail are QUEUED, and the queue holds one device reference for each. -/
theorem effTail_accepted {v q : Nat} {k : Queue} (hslot : m.slotQueue fn slot = some (q, k)) (hv : v < 2 ^ 32)
    (hpicked : subMod 32 v k.picked ≤ 2 ^ k.log2) (htail : subMod 32 v k.tail ≤ 2 ^ k.log2) :
    effTail fn slot v 0 m = (((List.range (subMod 32 v k.tail)).foldl
      (fun m i => m.setWord q ((k.tail + i) % 2 ^ 32) cswQUEUED 0 0) m).modQueue q (fun k => { k with tail := v })).holdQueue q
        (subMod 32 v k.tail) := by
  simp only [effTail, hserves, hslot, Nat.mod_eq_of_lt hv, Nat.not_lt.mpr hpicked, Nat.not_lt.mpr htail,
    decide_false, Bool.or_self, Bool.not_true, Bool.false_eq_true, ne_eq, not_true_eq_false, if_false]

theorem effTail_counted {v q : Nat} {k : Queue} (hslot : m.slotQueue fn slot = some (q, k)) (hv : v < 2 ^ 32)
    (h : 2 ^ k.log2 < subMod 32 v k.picked ∨ 2 ^ k.log2 < subMod 32 v k.tail) : effTail fn slot v 0 m = m.dbBad := by
  simp only [effTail, hserves, hslot, Nat.mod_eq_of_lt hv, gt_iff_lt, ← Bool.decide_or, h, decide_true, Bool.not_true,
    Bool.false_eq_true, ne_eq, not_true_eq_false, if_false, if_true]

/-- ABORT with a reserved bit, or on a slot that serves no queue, is counted. -/
theorem effAbort_counted {i upper : Nat} (h : upper ≠ 0 ∨ m.slotQueue fn slot = none) : effAbort fn slot i upper m = m.dbBad := by
  by_cases hupper : upper = 0
  · simp [effAbort, hserves, hupper, h.resolve_left (not_not_intro hupper)]
  · simp [effAbort, hserves, hupper]

/-- The detail of an ALREADY_DONE reply: the status with which the command ended. -/
def abortDetail (w : Nat) : Nat := if bits w 0 3 = cswABORTED then stABORTED else bits w 8 8

/-- What ABORT does to the command of a valid index whose state word is `w`. -/
def Module.abortWord (m : Module) (q i w : Nat) : Module :=
  if bits w 0 3 = cswEMPTY then m.addReply q i stREJECTED 0xF3
  else if bits w 0 3 = cswQUEUED then m.setWord q i cswABORTED stABORTED 0
  else if bits w 0 3 = cswPICKED then
    (m.setWord q i cswABORTED stABORTED 0).setObj (fun o =>
      { o with done := o.done ++ [{ queue := q, index := i, status := stABORTED, detail := 0 }] })
  else m.addReply q i stALREADY_DONE (abortDetail w)

/-- On a slot that serves a queue whose device is not LOCKSTEP, a valid index is one of the last `2 ^ log2` before the tail. -/
theorem effAbort_eq {i q : Nat} {k : Queue} (hi : i < 2 ^ 32) (hslot : m.slotQueue fn slot = some (q, k))
    (hlockstep : m.isLockstep (m.queueVd k) = false) :
    effAbort fn slot i 0 m = if 1 ≤ subMod 32 k.tail i ∧ subMod 32 k.tail i ≤ 2 ^ k.log2
      then m.abortWord q i (m.csw (k.word i)) else m.addReply q i stREJECTED 0xF3 := by
  simp only [effAbort, hserves, hslot, Nat.mod_eq_of_lt hi, hlockstep, Bool.or_false, Bool.or_eq_true, decide_eq_true_eq,
    Bool.not_true, Bool.false_eq_true, ne_eq, not_true_eq_false, if_false]
  by_cases hvalid : 1 ≤ subMod 32 k.tail i ∧ subMod 32 k.tail i ≤ 2 ^ k.log2
  · rw [if_pos hvalid, if_neg (by omega)]
    rfl
  · rw [if_neg hvalid, if_pos (by omega)]

end

/-- Settles O28: the two distances of the new tail are the tests of the effect. -/
theorem tailIsAcceptedOrCounted : Obligations.TailIsAcceptedOrCounted := by
  unfold Obligations.TailIsAcceptedOrCounted
  intro s fn slot v q k hl hserves hslot hv
  have ht := tlp_of_trafficOk (Module.trafficOk_of_servesFn hserves)
  rw [exec_tail hl]
  refine ⟨fun hpicked htail => ?_, fun h => ?_⟩
  · exact congrArg _ (State.after_congr ((ht _).trans (effTail_accepted hserves hslot hv hpicked htail)))
  · exact congrArg _ (State.after_congr ((ht _).trans (effTail_counted hserves hslot hv h)))

/-- Settles O29: a valid index acts by the state of its word, and any other is rejected. -/
theorem abortOutcomes : Obligations.AbortOutcomes := by
  unfold Obligations.AbortOutcomes
  intro s fn slot i hl hserves hi
  have ht := tlp_of_trafficOk (Module.trafficOk_of_servesFn hserves)
  simp only [exec_abort hl]
  refine ⟨fun upper h => ?counted, fun q k hslot hlockstep => ⟨fun h => ?rejected, fun hvalid hst => ?queued,
    fun hvalid hst => ?picked, fun hvalid hst => ⟨abortDetail (s.m.csw (k.word i)), ?ended⟩⟩⟩
  case counted => exact congrArg _ (State.after_congr ((ht _).trans (effAbort_counted hserves h)))
  all_goals refine congrArg _ (State.after_congr ((ht _).trans ((effAbort_eq hserves hi hslot hlockstep).trans ?_)))
  case rejected =>
    split
    · next hvalid => exact if_pos (h.resolve_left (not_not_intro hvalid))
    · rfl
  case queued => rw [if_pos hvalid, Module.abortWord, hst]; rfl
  case picked => rw [if_pos hvalid, Module.abortWord, hst]; rfl
  case ended =>
    rw [if_pos hvalid, Module.abortWord]
    obtain hst | hst := hst <;> rw [hst] <;> rfl

theorem exec_twinPresentChange (s : State) (b : Bool) :
    exec (.twinPresentChange b) s = .next (s.after (effTwinPresent b)) := run_eq s _

/-- Settles O54: each command of the family runs its effect while the internal reset is not asserted. -/
theorem hostCommandsComplete : Obligations.HostCommandsComplete := by
  unfold Obligations.HostCommandsComplete
  intro s hl
  exact ⟨exec_pcieLinkChange hl, fun _ _ _ _ => runOn_live hl _, exec_vfMboxSend hl, exec_vfMboxInAck hl, exec_pfMboxAck hl,
    exec_pfMboxSend hl, fun _ _ _ _ _ => runOn_live hl _, exec_atomicOpReceived hl, exec_msixUnmask hl,
    fun _ => runOn_live hl _, exec_tail hl, fun _ _ _ _ => runOn_live hl _, fun _ _ _ _ => runOn_live hl _, exec_abort hl,
    fun _ _ _ => runOn_live hl _, fun _ _ => runOn_live hl _, exec_hostEnable hl, exec_hostLock hl, runOn_live hl _,
    runOn_live hl _, runOn_live hl _, runOn_live hl _, runOn_live hl _, runOn_live hl _, exec_twinPresentChange s,
    fun _ _ _ _ _ _ => runOn_live hl _⟩

end Sys2Proof.Machine
end

section
/-!
PROOF. Faults and retirement: the RESERVE core that is promoted is the nearest one left (R386), the ring's head moves within the
ring (R392), a history closes with its window (R375), and every command of the family completes.
-/
namespace Sys2Proof.Machine

section
variable {s : State} (hl : Live s)
include hl

theorem exec_ringHeadWrite (v : Nat) : exec (.ringHeadWrite v) s = .next (s.after (effRingHead v)) := runOn_live hl _

theorem exec_historyWindowClose (row unit : Nat) :
    exec (.historyWindowClose row unit) s = .next (s.after (effHistoryClose row unit)) := runOn_live hl _

end

/-! ### Sorting by a key -/

section
variable {α : Type} (key : α → Nat)

theorem insertBy_perm (x : α) (l : List α) : (insertBy key x l).Perm (x :: l) := by
  induction l with
  | nil => exact .refl _
  | cons y l ih =>
    rw [insertBy]
    split
    · exact .refl _
    · exact (ih.cons y).trans (.swap x y l)

theorem sortBy_perm (l : List α) : (sortBy key l).Perm l := by
  have hfold (acc : List α) : (l.foldl (fun acc x => insertBy key x acc) acc).Perm (l ++ acc) := by
    induction l generalizing acc with
    | nil => exact .refl _
    | cons x l ih => exact (ih _).trans (((insertBy_perm key x acc).append_left l).trans List.perm_middle)
  simpa only [sortBy, List.append_nil] using hfold []

/-- Putting an element in its place keeps the keys rising. -/
theorem insertBy_pairwise (x : α) {l : List α} (h : l.Pairwise (fun a b => key a ≤ key b)) :
    (insertBy key x l).Pairwise (fun a b => key a ≤ key b) := by
  induction l with
  | nil => simp [insertBy]
  | cons y l ih =>
    obtain ⟨hy, hl⟩ := List.pairwise_cons.mp h
    rw [insertBy]
    split
    · next hxy =>
      refine List.pairwise_cons.mpr ⟨fun z hz => ?_, h⟩
      obtain rfl | hz := List.mem_cons.mp hz
      · exact Nat.le_of_lt hxy
      · exact Nat.le_trans (Nat.le_of_lt hxy) (hy z hz)
    · next hyx =>
      refine List.pairwise_cons.mpr ⟨fun z hz => ?_, ih hl⟩
      obtain rfl | hz := List.mem_cons.mp ((insertBy_perm key x l).mem_iff.mp hz)
      · exact Nat.not_lt.mp hyx
      · exact hy z hz

theorem sortBy_pairwise (l : List α) : (sortBy key l).Pairwise (fun a b => key a ≤ key b) :=
  List.foldlRecOn (motive := List.Pairwise (fun a b => key a ≤ key b)) l _ .nil
    (fun _ hacc x _ => insertBy_pairwise key x hacc)

end

/-- In a rising list the first element of a kind is the lowest of that kind. -/
theorem find?_eq_some_lowest {l : List Nat} (hl : l.Pairwise (· ≤ ·)) {p : Nat → Bool} {a : Nat} (h : l.find? p = some a) :
    a ∈ l ∧ p a = true ∧ ∀ x ∈ l, p x = true → a ≤ x := by
  obtain ⟨ha, pre, post, rfl, hpre⟩ := List.find?_eq_some_iff_append.mp h
  refine ⟨by simp, ha, fun x hx hpx => ?_⟩
  obtain ⟨-, hpost, -⟩ := List.pairwise_append.mp hl
  obtain hx | hx := List.mem_append.mp hx
  · exact absurd hpx (by simpa using hpre x hx)
  · obtain rfl | hx := List.mem_cons.mp hx
    · exact Nat.le_refl _
    · exact (List.pairwise_cons.mp hpost).1 x hx

/-! ### Promotion (R386) -/

/-- The RESERVE cores that are left, from the lowest on. -/
def Module.reserveLeft (m : Module) : List Nat :=
  (sortBy id m.ras.reserve).filter (fun c => !m.retired 1 c && !m.ras.retire.any (·.promoted == some c))

theorem Module.mem_reserveLeft {m : Module} {c : Nat} :
    c ∈ m.reserveLeft ↔ c ∈ m.ras.reserve ∧ m.retired 1 c = false ∧ ∀ r ∈ m.ras.retire, r.promoted ≠ some c := by
  simp [reserveLeft, (sortBy_perm id m.ras.reserve).mem_iff]

theorem Module.reserveLeft_pairwise (m : Module) : m.reserveLeft.Pairwise (· ≤ ·) :=
  (sortBy_pairwise id m.ras.reserve).filter _

/-- The core in the same block first, then one on the same die, then any. -/
theorem Module.promote_eq (m : Module) (core : Nat) :
    m.promote core = ((m.reserveLeft.find? (fun c => c / 16 == core / 16)).or
      (m.reserveLeft.find? (fun c => c / 128 == core / 128))).or (m.reserveLeft.find? (fun _ => true)) := by
  have hany : m.reserveLeft.head? = m.reserveLeft.find? (fun _ => true) := by cases m.reserveLeft <;> rfl
  change (match m.reserveLeft.find? (fun c => c / 16 == core / 16) with
    | some c => some c
    | none => match m.reserveLeft.find? (fun c => c / 128 == core / 128) with
      | some c => some c
      | none => m.reserveLeft.head?) = _
  rw [hany]
  cases m.reserveLeft.find? (fun c => c / 16 == core / 16) with
  | some c => rfl
  | none => cases m.reserveLeft.find? (fun c => c / 128 == core / 128) <;> rfl

theorem Module.promote_eq_none_iff {m : Module} {core : Nat} : m.promote core = none ↔ ∀ c, c ∉ m.reserveLeft := by
  simp only [promote_eq, Option.or_eq_none_iff, List.find?_eq_none, beq_iff_eq, not_true_eq_false]
  exact ⟨fun ⟨_, h⟩ => h, fun h => ⟨⟨fun c hc => absurd hc (h c), fun c hc => absurd hc (h c)⟩, h⟩⟩

/-- The core promoted is the lowest left in the block; or, with none left there, the lowest left on the die; or, with none left
there either, the lowest left. -/
theorem Module.promote_eq_some {m : Module} {core p : Nat} (h : m.promote core = some p) : p ∈ m.reserveLeft ∧
    ((p / 16 = core / 16 ∧ ∀ c ∈ m.reserveLeft, c / 16 = core / 16 → p ≤ c) ∨
     ((∀ c ∈ m.reserveLeft, c / 16 ≠ core / 16) ∧ p / 128 = core / 128 ∧ ∀ c ∈ m.reserveLeft, c / 128 = core / 128 → p ≤ c) ∨
     ((∀ c ∈ m.reserveLeft, c / 16 ≠ core / 16 ∧ c / 128 ≠ core / 128) ∧ ∀ c ∈ m.reserveLeft, p ≤ c)) := by
  rw [promote_eq, Option.or_eq_some_iff, Option.or_eq_some_iff, Option.or_eq_none_iff] at h
  have hlow {q : Nat → Bool} (hq : m.reserveLeft.find? q = some p) := find?_eq_some_lowest m.reserveLeft_pairwise hq
  simp only [List.find?_eq_none, beq_iff_eq] at h
  obtain (hblock | ⟨hblock, hdie⟩) | ⟨⟨hblock, hdie⟩, hany⟩ := h
  · obtain ⟨hmem, hp, hleast⟩ := hlow hblock
    exact ⟨hmem, .inl ⟨beq_iff_eq.mp hp, fun c hc hb => hleast c hc (beq_iff_eq.mpr hb)⟩⟩
  · obtain ⟨hmem, hp, hleast⟩ := hlow hdie
    exact ⟨hmem, .inr (.inl ⟨hblock, beq_iff_eq.mp hp, fun c hc hd => hleast c hc (beq_iff_eq.mpr hd)⟩)⟩
  · obtain ⟨hmem, -, hleast⟩ := hlow hany
    exact ⟨hmem, .inr (.inr ⟨fun c hc => ⟨hblock c hc, hdie c hc⟩, fun c hc => hleast c hc rfl⟩)⟩

/-- Settles O33: the three searches go over the cores left from the lowest on. -/
theorem reserveCoreNearestIsPromoted : Obligations.ReserveCoreNearestIsPromoted := by
  unfold Obligations.ReserveCoreNearestIsPromoted
  intro m core free
  have hfree (c : Nat) : c ∈ m.reserveLeft ↔ free c := Module.mem_reserveLeft
  refine ⟨by simp only [Module.promote_eq_none_iff, hfree], fun p hp => ?_⟩
  have hcases := Module.promote_eq_some hp
  simp only [hfree] at hcases
  obtain ⟨hmem, hcases⟩ := hcases
  refine ⟨hmem, ?block, ?die, ?any⟩
  case block =>
    rintro ⟨c, hc, hblock⟩
    obtain h | ⟨hnone, -⟩ | ⟨hnone, -⟩ := hcases
    · exact h
    · exact absurd hblock (hnone c hc)
    · exact absurd hblock (hnone c hc).1
  case die =>
    rintro hnone ⟨c, hc, hdie⟩
    obtain ⟨hblock, -⟩ | ⟨-, h⟩ | ⟨hnone', -⟩ := hcases
    · exact absurd hblock (hnone p hmem)
    · exact h
    · exact absurd hdie (hnone' c hc).2
  case any =>
    intro hnone
    obtain ⟨hblock, -⟩ | ⟨-, hdie, -⟩ | ⟨-, h⟩ := hcases
    · exact absurd hblock (hnone p hmem).1
    · exact absurd hdie (hnone p hmem).2
    · exact h

/-! ### The ring and the histories (R375, R392) -/

section
variable {m : Module}

theorem effRingHead_within {v : Nat} (h : subMod 32 (m.reg RAS_RING_TAIL) v ≤ 65536) :
    effRingHead v m = (m.setReg RAS_RING_HEAD v).flushLost := if_pos h

theorem effRingHead_beyond {v : Nat} (h : 65536 < subMod 32 (m.reg RAS_RING_TAIL) v) : effRingHead v m = m :=
  if_neg (Nat.not_le.mpr h)

variable {row unit : Nat} {h : Hist} (hhist : m.ras.hist.get? (row * 2 ^ 16 + unit) = some h)
include hhist

theorem effHistoryClose_open (hopen : m.histOpen h = true) : effHistoryClose row unit m = m := by
  rw [effHistoryClose, hhist]
  exact if_pos hopen

theorem effHistoryClose_passed (hpassed : m.histOpen h = false) :
    effHistoryClose row unit m = m.setRas (fun r => { r with hist := r.hist.del (row * 2 ^ 16 + unit) }) := by
  rw [effHistoryClose, hhist]
  exact if_neg (Bool.eq_false_iff.mp hpassed)

end

/-- Settles O34: the bound of the head and the window of a history are what the two effects test. -/
theorem ringHeadWriteIsChecked : Obligations.RingHeadWriteIsChecked := by
  unfold Obligations.RingHeadWriteIsChecked
  intro s v row unit hl _
  rw [exec_ringHeadWrite hl, exec_historyWindowClose hl]
  refine ⟨fun h => ?within, fun h => ?beyond, fun h hhist => ⟨fun hopen => ?stays, fun hpassed => ?dropped⟩⟩
  case within => exact congrArg _ (State.after_congr (effRingHead_within h))
  case beyond => exact congrArg _ (State.after_eq_self (effRingHead_beyond h))
  case stays => exact congrArg _ (State.after_eq_self (effHistoryClose_open hhist hopen))
  case dropped => exact congrArg _ (State.after_congr (effHistoryClose_passed hhist hpassed))

/-- Settles O55: each command of the family runs its effect while the internal reset is not asserted. -/
theorem faultCommandsComplete : Obligations.FaultCommandsComplete := by
  unfold Obligations.FaultCommandsComplete
  intro s hl
  exact ⟨fun _ => runOn_live hl _, fun _ => runOn_live hl _, exec_ringHeadWrite hl, exec_historyWindowClose hl,
    runOn_live hl _, runOn_live hl _, fun _ _ _ _ _ _ _ => runOn_live hl _, fun _ _ _ _ => runOn_live hl _,
    fun _ _ _ _ => runOn_live hl _, runOn_live hl _⟩

end Sys2Proof.Machine
end

section
/-!
PROOF. Power and current: a cap is written only within its range, and the caps in force are the lowest of their sources (R410,
R418); every command of the family completes.
-/
namespace Sys2Proof.Machine

section
variable {s : State} (hl : Live s)
include hl

theorem exec_pwrCapWrite (w : Nat) : exec (.pwrCapWrite w) s = .next (s.after (effPwrCap w)) := runOn_live hl _

theorem exec_pwrPeakWrite (w : Nat) : exec (.pwrPeakWrite w) s = .next (s.after (effPwrPeak w)) := runOn_live hl _

theorem exec_capInForce : exec .capInForce s = .next (s.after effCapInForce) := runOn_live hl _

end

/-! ### The writes of the caps (R418) -/

theorem effPwrCap_eq (w : Nat) (m : Module) : effPwrCap w m = if 2000 ≤ w ∧ w ≤ 5000 then m.setReg PWR_CAP w else m := by
  simp only [effPwrCap, Bool.and_eq_true, decide_eq_true_eq]

theorem effPwrPeak_eq (w : Nat) (m : Module) :
    effPwrPeak w m = if m.fld PWR_CAP_watts ≤ w ∧ w ≤ 6500 then m.setReg PWR_PEAK w else m := by
  simp only [effPwrPeak, Bool.and_eq_true, decide_eq_true_eq]

/-! ### The caps in force (R410) -/

/-- A field of at most `len` bits reads below `2 ^ len`. -/
theorem Module.fld_lt (m : Module) (f : Fld) : m.fld f < 2 ^ f.len := Nat.mod_lt _ (Nat.two_pow_pos _)

/-- The caps that were written become the sources in force. -/
def Module.takeCaps (m : Module) : Module :=
  m.setPwr (fun x => { x with swIn := m.fld PWR_CAP_watts, peakIn := m.fld PWR_PEAK_watts, mgmtIn := x.mgmtCap })

section
variable {m : Module}

theorem Module.sustainedCap_takeCaps (hvolts : m.fld PWR_INPUT_volts ≠ 0) :
    m.takeCaps.sustainedCap = min (min (m.fld PWR_CAP_watts) m.pwr.mgmtCap)
      (min (125 * m.fld PWR_INPUT_volts / 100) (1000 * min 5 (6 - m.rst.failed.length))) := by
  have hvolts : m.takeCaps.fld PWR_INPUT_volts ≠ 0 := hvolts
  rw [sustainedCap, if_neg hvolts]
  rfl

theorem Module.peakCap_takeCaps (hvolts : m.fld PWR_INPUT_volts ≠ 0) :
    m.takeCaps.peakCap = min (m.fld PWR_PEAK_watts)
      (min (1625 * m.fld PWR_INPUT_volts / 1000) (1300 * min 5 (6 - m.rst.failed.length))) := by
  have hvolts : m.takeCaps.fld PWR_INPUT_volts ≠ 0 := hvolts
  rw [peakCap, if_neg hvolts]
  rfl

/-- The caps that were written, and with them the lowest of the sources, lie within 13 bits. -/
theorem Module.sustainedCap_takeCaps_lt : m.takeCaps.sustainedCap < 2 ^ 13 := by
  have h : m.takeCaps.sustainedCap ≤ m.fld PWR_CAP_watts := Nat.le_trans (Nat.min_le_left _ _) (Nat.min_le_left _ _)
  exact Nat.lt_of_le_of_lt h (m.fld_lt PWR_CAP_watts)

theorem Module.peakCap_takeCaps_lt : m.takeCaps.peakCap < 2 ^ 13 :=
  Nat.lt_of_le_of_lt (Nat.min_le_left _ _) (m.fld_lt PWR_PEAK_watts)

/-- PWR_CAP_EFF shows the caps of the sources in force. -/
def Module.showCaps (m : Module) : Module :=
  (m.setFld PWR_CAP_EFF_sustained m.sustainedCap).setFld PWR_CAP_EFF_peak m.peakCap

/-- Bringing the caps into force shows them, and changes beside them the bucket alone. -/
theorem Module.capsInForce_eq (m : Module) :
    ∃ b, m.capsInForce = (m.showCaps.setPwr (fun x => { x with bucket := b })).setFld PWR_BUCKET_mj (b / 1000) := ⟨_, rfl⟩

variable (hwf : m.regsWf)
include hwf

theorem Module.fld_capsInForce {g : Fld} (hg : g.off ≠ PWR_BUCKET) : m.capsInForce.fld g = m.showCaps.fld g := by
  obtain ⟨b, hb⟩ := m.capsInForce_eq
  have hshown : (m.showCaps.setPwr (fun x => { x with bucket := b })).regsWf := by
    rw [regsWf, setPwr_regs]
    exact regsWf_setFld (regsWf_setFld hwf _ _) _ _
  rw [hb, fld_setFld_other hshown _ _ _ (by decide) (.inl hg)]
  simp only [fld, reg, setPwr_regs]

/-- The sustained cap is shown whole within its 13 bits. -/
theorem Module.sustained_capsInForce (hcap : m.sustainedCap < 2 ^ 13) :
    m.capsInForce.fld PWR_CAP_EFF_sustained = m.sustainedCap := by
  rw [fld_capsInForce hwf (by decide), showCaps, fld_setFld_other (regsWf_setFld hwf _ _) _ _ _ (by decide) (by decide),
    fld_setFld_same hwf _ _ (by decide)]
  exact Nat.mod_eq_of_lt hcap

/-- So is the peak cap. -/
theorem Module.peak_capsInForce (hcap : m.peakCap < 2 ^ 13) : m.capsInForce.fld PWR_CAP_EFF_peak = m.peakCap := by
  rw [fld_capsInForce hwf (by decide), showCaps, fld_setFld_same (regsWf_setFld hwf _ _) _ _ (by decide)]
  exact Nat.mod_eq_of_lt hcap

end

/-- Settles O35: the caps that are brought into force are the minimum of the sources, which PWR_CAP_EFF shows whole. -/
theorem capsInForceAreTheLowest : Obligations.CapsInForceAreTheLowest := by
  unfold Obligations.CapsInForceAreTheLowest
  intro s w hl hwf
  rw [exec_pwrCapWrite hl, exec_pwrPeakWrite hl]
  refine ⟨fun h => ?cap, fun h => ?capIgnored, fun h => ?peak, fun h => ?peakIgnored, fun hvolts => ?inForce⟩
  case cap => exact congrArg _ (State.after_congr (by rw [effPwrCap_eq, if_pos h]))
  case capIgnored => exact congrArg _ (State.after_eq_self (by rw [effPwrCap_eq, if_neg h]))
  case peak => exact congrArg _ (State.after_congr (by rw [effPwrPeak_eq, if_pos h]))
  case peakIgnored => exact congrArg _ (State.after_eq_self (by rw [effPwrPeak_eq, if_neg h]))
  case inForce =>
    have hwf : s.m.takeCaps.regsWf := hwf
    refine ⟨s.after effCapInForce, exec_capInForce hl, ?_, ?_⟩
    · exact (Module.sustained_capsInForce hwf Module.sustainedCap_takeCaps_lt).trans (Module.sustainedCap_takeCaps hvolts)
    · exact (Module.peak_capsInForce hwf Module.peakCap_takeCaps_lt).trans (Module.peakCap_takeCaps hvolts)

/-- Settles O56: each command of the family runs its effect while the internal reset is not asserted, and those of the input
power at any time. -/
theorem powerCommandsComplete : Obligations.PowerCommandsComplete := by
  unfold Obligations.PowerCommandsComplete
  intro s hl
  exact ⟨fun _ => runOn_live hl _, runOn_live hl _, fun _ => runOn_live hl _, fun _ => runOn_live hl _,
    fun _ _ => runOn_live hl _, fun _ => run_eq s _, fun _ => run_eq s _, fun _ => run_eq s _, fun _ => runOn_live hl _,
    run_eq s _, exec_pwrCapWrite hl, exec_pwrPeakWrite hl, exec_capInForce hl⟩

end Sys2Proof.Machine
end

section
/-!
PROOF. Security and the life cycle: how the four state words decode (R441), what a new challenge and a re-lock change (R445,
R450), and every command of the family completes.
-/
namespace Sys2Proof.Machine

section
variable {s : State} (hl : Live s)
include hl

theorem exec_newChallenge (r : List Byte) : exec (.newChallenge r) s = .next (s.after (effNewChallenge r)) := runOn_live hl _

theorem exec_debugRelock : exec .debugRelock s = .next (s.after effDebugRelock) := runOn_live hl _

theorem exec_fusePulseDone_live (rev ok : Bool) : exec (.fusePulseDone rev ok) s = .next (effFusePulse rev ok s) := by
  unfold Live at hl
  rw [exec_fusePulseDone, hl, if_neg Bool.false_ne_true]

end

/-- The elements of a kind at the front of a list end before any element that is not of it. -/
theorem length_takeWhile_le {α : Type} {p : α → Bool} {l : List α} {i : Nat} (hi : i < l.length) (h : p l[i] = false) :
    (l.takeWhile p).length ≤ i := by
  induction l generalizing i with
  | nil => simp at hi
  | cons x l ih =>
    cases i with
    | zero => simpa [List.takeWhile_cons] using h
    | succ i =>
      rw [List.takeWhile_cons]
      split
      · exact Nat.succ_le_succ (ih (Nat.lt_of_succ_lt_succ hi) h)
      · exact Nat.zero_le _

/-! ### The state words (R441) -/

section
variable {w : Nat → Nat}

/-- A word that is neither blank nor burned makes the state INVALID. -/
theorem lcDecode_of_foreign (h : ∃ i < 4, w i ≠ 0 ∧ w i ≠ burned) : lcDecode w = 7 := by
  obtain ⟨i, hi, hblank, hburned⟩ := h
  have hany : ((List.range 4).map w).any (fun v => v != 0 && v != burned) = true := by
    rw [List.any_map, List.any_eq_true]
    exact ⟨i, List.mem_range.mpr hi, by simp [hblank, hburned]⟩
  simp only [lcDecode, hany, if_true]

/-- With every word blank or burned, no word is foreign. -/
theorem not_any_foreign (h : ∀ i < 4, w i = 0 ∨ w i = burned) :
    ((List.range 4).map w).any (fun v => v != 0 && v != burned) = false := by
  rw [List.any_map, List.any_eq_false]
  intro i hi
  obtain h | h := h i (List.mem_range.mp hi) <;> simp [h]

/-- The burned words at the front end before any blank word. -/
theorem length_takeWhile_burned_le {i : Nat} (hi : i < 4) (hblank : w i = 0) :
    (((List.range 4).map w).takeWhile (· == burned)).length ≤ i :=
  length_takeWhile_le (by simpa using hi) (by simp [hblank, burned])

/-- A burned word behind a blank one makes the state INVALID. -/
theorem lcDecode_of_burned_behind_blank (h : ∀ i < 4, w i = 0 ∨ w i = burned) {i j : Nat} (hj : j < 4)
    (hij : i < j) (hblank : w i = 0) (hburned : w j = burned) : lcDecode w = 7 := by
  have hn : (((List.range 4).map w).takeWhile (· == burned)).length ≤ j :=
    Nat.le_trans (length_takeWhile_burned_le (Nat.lt_trans hij hj) hblank) (Nat.le_of_lt hij)
  have hany : (((List.range 4).map w).drop (((List.range 4).map w).takeWhile (· == burned)).length).any (· == burned) = true := by
    rw [List.any_eq_true]
    refine ⟨w j, List.mem_drop_iff_getElem.mpr ⟨j - (((List.range 4).map w).takeWhile (· == burned)).length, ?_, ?_⟩, ?_⟩
    · simpa using by omega
    · simp [Nat.add_sub_of_le hn]
    · simp [hburned]
  simp only [lcDecode, not_any_foreign h, hany, Bool.false_eq_true, if_false, if_true]

/-- The state is the number of burned words, when the blank words all stand behind them. -/
theorem lcDecode_of_burned_then_blank {n : Nat} (hn : n ≤ 4) (hburned : ∀ i < n, w i = burned)
    (hblank : ∀ i < 4, n ≤ i → w i = 0) : lcDecode w = n := by
  have hws : (List.range 4).map w = List.replicate n burned ++ List.replicate (4 - n) 0 := by
    refine List.ext_getElem (by simp [hn]) fun i hi _ => ?_
    have hi : i < 4 := by simpa using hi
    by_cases hin : i < n
    · simp [hin, hburned i hin]
    · simp [List.getElem_append, hin, hblank i hi (Nat.not_lt.mp hin)]
  simp [lcDecode, hws, burned]

end

/-- Settles O37: the words are burned, blank or foreign, and the state counts the burned ones at the front. -/
theorem lifeCycleStateDecodes : Obligations.LifeCycleStateDecodes := by
  unfold Obligations.LifeCycleStateDecodes
  intro w
  refine ⟨lcDecode_of_foreign, fun h => ⟨?_, fun n hn hburned hblank => lcDecode_of_burned_then_blank hn hburned hblank⟩⟩
  rintro ⟨i, -, j, hj, hij, hblank, hburned⟩
  exact lcDecode_of_burned_behind_blank h hj hij hblank hburned

/-! ### The challenge and the debug unlock (R445, R450) -/

section
variable {m : Module}

theorem effNewChallenge_whole {r : List Byte} (hr : r.length = 16) :
    effNewChallenge r m = m.setSec (fun x => { x with challenge := some r }) := by
  have htake : (r ++ zeros 16).take 16 = r := List.take_left' hr
  rw [effNewChallenge, htake]

theorem effDebugRelock_maker (h : m.lcState = 0) : effDebugRelock m = m := if_pos h

theorem effDebugRelock_other (h : m.lcState ≠ 0) : effDebugRelock m = m.setSec (fun x => { x with debugSlot := none }) := if_neg h

end

/-- Settles O38: 16 random bytes are the challenge whole, and MAKER alone keeps its unlock. -/
theorem challengeAndRelock : Obligations.ChallengeAndRelock := by
  unfold Obligations.ChallengeAndRelock
  intro s hl
  rw [exec_debugRelock hl]
  refine ⟨fun r hr => ?_, fun h => ?_, fun h => ?_⟩
  · rw [exec_newChallenge hl]
    exact congrArg _ (State.after_congr (effNewChallenge_whole hr))
  · exact congrArg _ (State.after_congr (effDebugRelock_other h))
  · exact congrArg _ (State.after_eq_self (effDebugRelock_maker h))

/-- Settles O58: each command of the family runs its effect while the internal reset is not asserted. -/
theorem trustCommandsComplete : Obligations.TrustCommandsComplete := by
  unfold Obligations.TrustCommandsComplete
  intro s hl
  exact ⟨fun _ _ => runOn_live hl _, fun _ => runOn_live hl _, fun _ => runOn_live hl _, fun _ _ => runOn_live hl _,
    fun _ _ => runOn_live hl _, fun _ _ _ _ _ => runOn_live hl _, fun _ _ => runOn_live hl _,
    fun _ _ _ _ => runOn_live hl _, fun _ => runOn_live hl _, fun _ _ => runOn_live hl _, fun _ => runOn_live hl _,
    fun _ => runOn_live hl _, fun _ _ => runOn_live hl _, fun _ _ => runOn_live hl _, fun _ => runOn_live hl _,
    fun _ _ _ _ _ => runOn_live hl _, fun _ _ _ => runOn_live hl _, fun _ _ _ => runOn_live hl _,
    fun _ _ => runOn_live hl _, exec_newChallenge hl, exec_debugRelock hl, exec_fusePulseDone_live hl⟩

end Sys2Proof.Machine
end

section
/-!
PROOF. Reset and bring-up: a held-off source begins one hold-off or joins it (R453, R455), the internal reset clears all but what
R454 keeps, and every command of the family completes (R397, R466).
-/
namespace Sys2Proof.Machine

theorem exec_rstNAssert (s : State) : exec .rstNAssert s = .next (s.after effRstNAssert) := run_eq s _

theorem exec_perstAssert (s : State) : exec .perstAssert s = .next (s.after effPerstAssert) := run_eq s _

theorem exec_powerOn (s : State) (cleared : Bool) : exec (.powerOn cleared) s = .next (s.after (effPowerOn cleared)) :=
  run_eq s _

theorem exec_railsInRegulation (s : State) : exec .railsInRegulation s = .next (s.after effRailsInRegulation) := run_eq s _

theorem exec_internalResetAssert (s : State) (us : Nat) :
    exec (.internalResetAssert us) s = .next (s.after (effInternalResetAssert us)) := run_eq s _

theorem exec_internalResetRelease (s : State) (slot : Nat) :
    exec (.internalResetRelease slot) s = .next (s.after (effInternalResetRelease slot)) := run_eq s _

section
variable {s : State} (hl : Live s)
include hl

theorem exec_hotReset : exec .hotReset s = .next (s.after effHotReset) := runOn_live hl _

theorem exec_moduleReset (w : Nat) : exec (.moduleReset w) s = .next (s.after (effModuleReset w)) := runOn_live hl _

theorem exec_watchdogExpiry : exec .watchdogExpiry s = .next (s.after effWatchdogExpiry) := runOn_live hl _

end

/-! ### Held-off sources (R453, R455) -/

/-- On a powered module that is not in reset, a source joins the hold-off in progress or begins one. -/
theorem Module.source_eq {m : Module} (hgood : m.rst.good = true) (hreset : m.rst.inReset = false) (code : Nat) :
    m.source code = if m.rst.hold = none
      then (m.setRst (fun r => { r with hold := some (code, 3) })).setReg RST_SOURCES (2 ^ code)
      else m.setReg RST_SOURCES (m.reg RST_SOURCES ||| 2 ^ code) := by
  cases hhold : m.rst.hold with
  | none => rw [if_pos rfl, source_begins hgood (by simp [quiet, hhold, hreset])]
  | some h => rw [if_neg (by simp), source_joins hgood (by simp [quiet, hhold])]

section
variable {m : Module}

theorem effPerstAssert_module (h : m.flag RST_CFG_perst_scope = false) :
    effPerstAssert m = (m.setPins (fun p => { p with perst := true })).source 3 := if_neg (Bool.eq_false_iff.mp h)

theorem effHotReset_module (h : m.flag RST_CFG_hotrst_scope = false) : effHotReset m = m.source 4 :=
  if_neg (Bool.eq_false_iff.mp h)

theorem effModuleReset_keyed {w : Nat} (hkey : w % 256 = 0xD2) (hbit : bit w 8 = true) : effModuleReset w m = m.source 10 := by
  simp [effModuleReset, hkey, hbit]

theorem effModuleReset_ignored {w : Nat} (h : w % 256 ≠ 0xD2 ∨ bit w 8 = false) : effModuleReset w m = m := by
  obtain h | h := h <;> simp [effModuleReset, h]

end

/-- Settles O39: the pins change neither the power nor the reset state, so that each source acts as `Module.source_eq` says. -/
theorem heldOffSourcesBeginOneHoldOff : Obligations.HeldOffSourcesBeginOneHoldOff := by
  unfold Obligations.HeldOffSourcesBeginOneHoldOff
  intro s w hl hgood src
  have hsrc {m : Module} (hm : m.rst = s.m.rst) (n : Nat) : m.source n = src m n := by
    rw [Module.source_eq (hm ▸ hgood) (hm ▸ hl), hm]
  rw [exec_rstNAssert, exec_perstAssert, exec_hotReset hl, exec_watchdogExpiry hl, exec_moduleReset hl]
  refine ⟨?rstN, fun h => ?perst, fun h => ?hotReset, ?watchdog, fun hkey hbit => ?keyed, fun h => ?ignored⟩
  case rstN => exact congrArg _ (State.after_congr (hsrc (m := s.m.setPins _) rfl 2))
  case perst => exact congrArg _ (State.after_congr ((effPerstAssert_module h).trans (hsrc (m := s.m.setPins _) rfl 3)))
  case hotReset => exact congrArg _ (State.after_congr ((effHotReset_module h).trans (hsrc rfl 4)))
  case watchdog => exact congrArg _ (State.after_congr (hsrc rfl 8))
  case keyed => exact congrArg _ (State.after_congr ((effModuleReset_keyed hkey hbit).trans (hsrc rfl 10)))
  case ignored => exact congrArg _ (State.after_eq_self (effModuleReset_ignored h))

/-! ### A map cut to some of its keys -/

theorem SMap.above_filter {α : Type} {k : Nat} {m : SMap α} (h : SMap.above k m) (p : Nat × α → Bool) :
    SMap.above k (m.filter p) := fun e he => h e (List.mem_filter.mp he).1

theorem SMap.wf_filter {α : Type} [DecidableEq α] {d : Nat → α} {m : SMap α} (h : SMap.wf d m = true) (p : Nat × α → Bool) :
    SMap.wf d (m.filter p) = true := by
  induction m with
  | nil => rfl
  | cons e r ih =>
    obtain ⟨hv, ha, hr⟩ := SMap.wf_cons.mp h
    rw [List.filter_cons]
    split
    · exact SMap.wf_cons.mpr ⟨hv, SMap.above_filter ha p, ih hr⟩
    · exact ih hr

/-- A map cut to some of its keys reads those as before, and every other key as unlisted. -/
theorem SMap.get_filter {α : Type} [DecidableEq α] {d : Nat → α} {m : SMap α} (h : SMap.wf d m = true) (p : Nat → Bool) (k : Nat) :
    SMap.get d (m.filter (fun e => p e.1)) k = if p k then SMap.get d m k else d k := by
  induction m with
  | nil => simp
  | cons e r ih =>
    obtain ⟨j, v⟩ := e
    obtain ⟨-, ha, hr⟩ := SMap.wf_cons.mp h
    have ih := ih hr
    rw [List.filter_cons]
    by_cases hjk : j = k
    · subst hjk
      by_cases hp : p j = true
      · simp [hp, SMap.get]
      · simpa [hp] using ih
    · by_cases hkj : k < j
      · have hlow : SMap.get d r k = d k := SMap.get_above ha (Nat.le_of_lt hkj)
        rw [hlow, ite_self] at ih
        by_cases hp : p j = true <;> simp [hp, SMap.get, hjk, hkj, ih]
      · by_cases hp : p j = true <;> simp [hp, SMap.get, hjk, hkj, ih]

/-! ### What a reset clears and keeps (R454) -/

section
variable (m : Module) (on : Bool)

/-- ALERT_N changes the pin and what goes out. -/
theorem Module.alertPin_eq : m.alertPin on = { m with pins := (m.alertPin on).pins, out := (m.alertPin on).out } := by
  unfold alertPin
  split <;> rfl

theorem Module.alertPin_regs : (m.alertPin on).regs = m.regs := by rw [alertPin_eq]

theorem Module.alertPin_nvj : (m.alertPin on).nvj = m.nvj := by rw [alertPin_eq]

theorem Module.alertPin_hostMem : (m.alertPin on).hostMem = m.hostMem := by rw [alertPin_eq]

end

/-- The registers after a reset without loss of power: the sticky ones, and LCS_STATE. -/
theorem Module.exists_regs_cleared (m : Module) :
    ∃ v, (m.cleared false).regs = SMap.set regReset (m.regs.filter (fun e => stickyRegs.contains e.1)) LCS_STATE v := by
  rw [← m.alertPin_regs false]
  exact ⟨_, rfl⟩

theorem Module.regsWf_cleared {m : Module} (h : m.regsWf) : (m.cleared false).regsWf := by
  obtain ⟨v, hv⟩ := m.exists_regs_cleared
  rw [regsWf, hv]
  exact SMap.wf_set (SMap.wf_filter h _) _ _

/-- A sticky register reads as before. -/
theorem Module.reg_cleared {m : Module} (h : m.regsWf) {off : Nat} (hsticky : off ∈ stickyRegs) :
    (m.cleared false).reg off = m.reg off := by
  obtain ⟨v, hv⟩ := m.exists_regs_cleared
  have hne : off ≠ LCS_STATE := fun he => absurd (he ▸ hsticky) (by decide)
  have hcontains : stickyRegs.contains off = true := List.contains_iff_mem.mpr hsticky
  rw [reg, hv, SMap.get_set_other (SMap.wf_filter h _) _ hne, SMap.get_filter h, if_pos hcontains]
  rfl

/-- A record that a reset cut short changes neither the superblocks nor the firmware slots. -/
theorem Nvj.sbs_put (j : Nvj) (ok : Bool) : (j.put ok).sbs = j.sbs ∧ (j.put ok).slots = j.slots := by
  unfold put
  split
  · exact ⟨rfl, rfl⟩
  · dsimp only
    split <;> exact ⟨rfl, rfl⟩

theorem Module.nvj_cleared (m : Module) : (m.cleared false).nvj = m.nvj.afterReset false :=
  congrArg (Nvj.afterReset · false) (m.alertPin_nvj false)

theorem Module.hostMem_cleared (m : Module) : (m.cleared false).hostMem = m.hostMem := m.alertPin_hostMem false

/-- RST_CAUSE and RST_COUNT show a reset of source `src` that came in step `step`, `early` being the count of early watchdog
resets before it. -/
def Module.showReset (m : Module) (src step early : Nat) : Module :=
  let m := (m.setFld RST_CAUSE_first src).count RST_COUNT_resets 1
  if src = 8 then
    (m.setFld RST_CAUSE_wdt_step (if step ≤ 13 then step else 0)).setFld RST_CAUSE_early_wdt (if step < 13 then min 2 (early + 1) else 0)
  else m.setFld RST_CAUSE_early_wdt 0

/-- At the end of a hold-off with no pulse under way and no power-off to follow, everything but what lasts is cleared. -/
theorem effInternalResetAssert_ended {m : Module} {src : Nat} (hhold : m.rst.hold = some (src, 0)) (hpulse : m.pulseBusy = false)
    (hoff : m.rst.holdOff = false) (us : Nat) :
    effInternalResetAssert us m = ((m.setFld RST_HOLDOFF_us (max 2 (min 1000 us))).cleared false).showReset src m.rst.stepNo
      (m.fld RST_CAUSE_early_wdt) := by
  simp only [effInternalResetAssert, hhold, hpulse, hoff, Bool.false_eq_true, if_false]
  rfl

theorem Module.regsWf_count {m : Module} (h : m.regsWf) (f : Fld) (n : Nat) : (m.count f n).regsWf := regsWf_setFld h _ _

section
variable (m : Module) (src step early : Nat)

/-- Showing a reset touches the registers alone. -/
theorem Module.showReset_eq : m.showReset src step early = { m with regs := (m.showReset src step early).regs } := by
  unfold showReset
  dsimp only
  split <;> rfl

variable {m} (hwf : m.regsWf)
include hwf

theorem Module.reg_showReset_other {off : Nat} (hcause : off ≠ RST_CAUSE) (hcount : off ≠ RST_COUNT) :
    (m.showReset src step early).reg off = m.reg off := by
  have h1 := regsWf_setFld hwf RST_CAUSE_first src
  have h2 := regsWf_count h1 RST_COUNT_resets 1
  have hbefore : ((m.setFld RST_CAUSE_first src).count RST_COUNT_resets 1).reg off = m.reg off := by
    rw [count, reg_setFld_other h1 _ _ hcount, reg_setFld_other hwf _ _ hcause]
  unfold showReset
  dsimp only
  split
  · rw [reg_setFld_other (regsWf_setFld h2 _ _) _ _ hcause, reg_setFld_other h2 _ _ hcause, hbefore]
  · rw [reg_setFld_other h2 _ _ hcause, hbefore]

/-- The field of the source and the count of resets stand beside the fields that the watchdog sets. -/
theorem Module.fld_showReset {g : Fld} (hwdt : g.off ≠ RST_CAUSE ∨ g.lo + g.len ≤ 8) :
    (m.showReset src step early).fld g = ((m.setFld RST_CAUSE_first src).count RST_COUNT_resets 1).fld g := by
  have h2 := regsWf_count (regsWf_setFld hwf RST_CAUSE_first src) RST_COUNT_resets 1
  have hstep : g.off ≠ RST_CAUSE_wdt_step.off ∨ g.lo + g.len ≤ 8 ∨ 8 + 4 ≤ g.lo := hwdt.imp_right .inl
  have hearly : g.off ≠ RST_CAUSE_early_wdt.off ∨ g.lo + g.len ≤ 12 ∨ 12 + 2 ≤ g.lo :=
    hwdt.imp_right (fun h => .inl (Nat.le_trans h (by decide)))
  unfold showReset
  dsimp only
  split
  · rw [fld_setFld_other (regsWf_setFld h2 _ _) _ _ _ (by decide) hearly, fld_setFld_other h2 _ _ _ (by decide) hstep]
  · rw [fld_setFld_other h2 _ _ _ (by decide) hearly]

theorem Module.first_showReset (hsrc : src < 32) : (m.showReset src step early).fld RST_CAUSE_first = src := by
  rw [fld_showReset src step early hwf (.inr (by decide)), count,
    fld_setFld_other (regsWf_setFld hwf _ _) _ _ _ (by decide) (by decide), fld_setFld_same hwf _ _ (by decide)]
  exact Nat.mod_eq_of_lt hsrc

theorem Module.resets_showReset :
    (m.showReset src step early).fld RST_COUNT_resets = min (m.fld RST_COUNT_resets + 1) (2 ^ 32 - 1) := by
  rw [fld_showReset src step early hwf (.inl (by decide)), count, fld_setFld_same (regsWf_setFld hwf _ _) _ _ (by decide),
    fld_setFld_other hwf _ _ _ (by decide) (by decide)]
  exact Nat.mod_eq_of_lt (Nat.lt_of_le_of_lt (Nat.min_le_right _ _) (by decide))

end

/-- Settles O40: the sticky registers survive the clearing, the flash keeps slots and superblocks, and the rest is that of a
fresh module. -/
theorem moduleResetClearsAllButWhatLasts : Obligations.ModuleResetClearsAllButWhatLasts := by
  unfold Obligations.ModuleResetClearsAllButWhatLasts
  intro s us src hwf hhold hpulse hoff hsrc
  have heff := effInternalResetAssert_ended hhold hpulse hoff us
  have hheld : (s.m.setFld RST_HOLDOFF_us (max 2 (min 1000 us))).regsWf := Module.regsWf_setFld hwf _ _
  have hclear := Module.regsWf_cleared hheld
  have hreg {off : Nat} (hsticky : off ∈ stickyRegs) (hne : off ≠ RST_HOLDOFF) :
      ((s.m.setFld RST_HOLDOFF_us (max 2 (min 1000 us))).cleared false).reg off = s.m.reg off := by
    rw [Module.reg_cleared hheld hsticky, Module.reg_setFld_other hwf _ _ hne]
  obtain ⟨hsbs, hslots⟩ := s.m.nvj.sbs_put (s.m.nvj.ending == .committed)
  refine ⟨s.after (effInternalResetAssert us), exec_internalResetAssert s us, rfl, rfl, ?_⟩
  rw [State.after_m, heff]
  refine ⟨?inReset, ?hold, ?rstOwn, ?cfg, ?lastHost, ?first, ?count, ?rest⟩
  case cfg => rw [Module.reg_showReset_other _ _ _ hclear (by decide) (by decide), hreg (by decide) (by decide)]
  case lastHost => rw [Module.reg_showReset_other _ _ _ hclear (by decide) (by decide), hreg (by decide) (by decide)]
  case first => exact Module.first_showReset src _ _ hclear hsrc
  case count =>
    have hcount : ((s.m.setFld RST_HOLDOFF_us (max 2 (min 1000 us))).cleared false).fld RST_COUNT_resets =
        s.m.fld RST_COUNT_resets := congrArg (bits · 0 32) (hreg (by decide) (by decide))
    rw [Module.resets_showReset src _ _ hclear, hcount]
  all_goals rw [Module.showReset_eq]
  case inReset => rfl
  case hold => rfl
  case rstOwn => rfl
  case rest =>
    refine ⟨?slots, ?sbs, Module.hostMem_cleared _, rfl, rfl, rfl, rfl, rfl, rfl, rfl, rfl, rfl, rfl, rfl, rfl, rfl⟩
    case slots => exact (congrArg Nvj.slots (Module.nvj_cleared _)).trans hslots
    case sbs => exact (congrArg Nvj.sbs (Module.nvj_cleared _)).trans hsbs

/-! ### Power (R397, R466) -/

section
variable {m : Module}

theorem effPowerOn_starts {cleared : Bool} (hgood : m.rst.good = false) (hfailed : m.rst.failed.length ≤ 4)
    (hlatch : m.rst.latched = false ∨ cleared = true) :
    effPowerOn cleared m =
      ((m.setRst (fun r => { r with inputOk := true, pwrEn := true, latched := false })).thermFree).rstLow := by
  have hlatched : (m.rst.latched && !cleared) = false := by obtain h | h := hlatch <;> simp [h]
  have hrst : m.setRst (fun r => { r with inputOk := true, pwrEn := true, latched := r.latched && !cleared }) =
      m.setRst (fun r => { r with inputOk := true, pwrEn := true, latched := false }) := by
    simp only [Module.setRst, hlatched]
  simp [effPowerOn, hgood, hrst, Nat.not_lt.mpr hfailed]

theorem effRailsInRegulation_powered (hpowered : m.powered = true) (hgood : m.rst.good = false) :
    effRailsInRegulation m = (m.setRst (fun r => { r with good := true })).emit (.pin 1 1) := by
  simp [effRailsInRegulation, hpowered, hgood]

end

/-- Settles O59: each command of the family runs its effect, those of power and pins in reset too. -/
theorem resetCommandsComplete : Obligations.ResetCommandsComplete := by
  unfold Obligations.ResetCommandsComplete
  refine ⟨fun s hl => ?live, fun s cleared hgood hfailed hlatch => ?powerOn, fun s hgood hinput hen hlatched => ?rails⟩
  case live =>
    exact ⟨exec_powerOn s, exec_railsInRegulation s, run_eq s _, exec_rstNAssert s, exec_perstAssert s, run_eq s _,
      exec_hotReset hl, runOn_live hl _, fun _ => runOn_live hl _, runOn_live hl _, exec_moduleReset hl, fun _ => run_eq s _,
      exec_internalResetAssert s, exec_internalResetRelease s, fun _ => runOn_live hl _, exec_watchdogExpiry hl,
      fun _ _ => runOn_live hl _, fun _ _ => runOn_live hl _, runOn_live hl _⟩
  case powerOn =>
    rw [exec_powerOn]
    exact congrArg _ (State.after_congr (effPowerOn_starts hgood hfailed hlatch))
  case rails =>
    have hpowered : s.m.powered = true := by simp [Module.powered, hinput, hen, hlatched]
    rw [exec_railsInRegulation]
    exact congrArg _ (State.after_congr (effRailsInRegulation_powered hpowered hgood))

end Sys2Proof.Machine
end

section
/-!
PROOF. The journal and the DDR5 service: a superblock copy gives back what it was programmed with (R474, R475), a compaction
leaves a valid copy through every step, a record counts as committed by its commit word (R470), an OFFLINE request is refused by
name (R482), and every command of the family completes.
-/
namespace Sys2Proof.Machine

/-! ### The bytes of a superblock (R474, R475) -/

/-- The magic and the version of a superblock. -/
def superMagic : List Byte := [0x59, 0x4E, 0x56, 0x4A, 1]

/-- The bytes of a superblock before its CRC. -/
def superHead (h g : Nat) : List Byte := superMagic ++ (leBytes 1 h ++ (zeros 2 ++ (leBytes 8 g ++ zeros 44)))

theorem superBytes_eq (h g : Nat) : superBytes h g = superHead h g ++ leBytes 4 (crc32c (superHead h g)) := by
  simp only [superBytes, superHead, superMagic, List.append_assoc]

@[simp] theorem length_superHead (h g : Nat) : (superHead h g).length = 60 := by simp [superHead, superMagic]

theorem length_superBytes (h g : Nat) : (superBytes h g).length = 64 := by simp [superBytes_eq]

/-- The bytes of a superblock give back its active half and its generation. -/
theorem superOf_superBytes {h g : Nat} (hh : h < 256) (hg : g < 2 ^ 64) : superOf (superBytes h g) = some (h, g) := by
  have hmagic : (superBytes h g).take 5 = superMagic := by
    rw [superBytes_eq, superHead, List.append_assoc]
    exact List.take_left' rfl
  have htake : (superBytes h g).take 60 = superHead h g := by
    rw [superBytes_eq]
    exact List.take_left' (length_superHead h g)
  have hdrop : ((superBytes h g).drop 60).take 4 = leBytes 4 (crc32c (superHead h g)) := by
    rw [superBytes_eq, List.drop_left' (length_superHead h g)]
    exact List.take_of_length_le (by simp)
  have hhalf : fieldOf (superBytes h g) 5 1 = h := by
    rw [superBytes_eq, superHead, List.append_assoc, fieldOf_append _ 1 (by decide), List.append_assoc]
    exact (fieldOf_leBytes 1 h _).trans (Nat.mod_eq_of_lt hh)
  have hgen : fieldOf (superBytes h g) 8 8 = g := by
    rw [superBytes_eq, superHead, List.append_assoc, fieldOf_append _ 8 (by decide), List.append_assoc,
      fieldOf_skip 1 h _ 8 (by decide), List.append_assoc, fieldOf_append _ 8 (by decide), List.append_assoc]
    exact (fieldOf_leBytes 8 g _).trans (Nat.mod_eq_of_lt hg)
  have hvalid : ((superBytes h g).take 5 == [0x59, 0x4E, 0x56, 0x4A, 1] &&
      leBytes 4 (crc32c ((superBytes h g).take 60)) == ((superBytes h g).drop 60).take 4) = true := by
    rw [hmagic, htake, hdrop, Bool.and_eq_true, beq_iff_eq, beq_iff_eq]
    exact ⟨rfl, rfl⟩
  rw [superOf, if_pos hvalid, hhalf, hgen]

/-! ### The bytes of a record (R469, R470) -/

theorem ceilDiv_eight (n : Nat) : ceilDiv n 8 = (n + 7) / 8 := rfl

theorem length_recBody (ty seq : Nat) (payload : List Byte) :
    (recBody ty seq payload).length = 8 * ((12 + payload.length + 7) / 8) := by
  simp only [recBody, ceilDiv_eight, List.length_append, length_leBytes, length_zeros]
  omega

theorem JRec.length_bytes (r : JRec) : r.bytes.length = r.size := by
  simp only [bytes, size, recSize, List.length_append, length_recBody, length_leBytes]

/-- A record reads as committed exactly when its commit word was programmed. -/
theorem recCommittedBytes_bytes (r : JRec) : recCommittedBytes r.bytes = r.ok := by
  have hbytes : r.bytes = recBody r.ty r.seq r.payload ++ (leBytes 4 (crc32c (recBody r.ty r.seq r.payload)) ++
      leBytes 4 (if r.ok then 0 else 0xFFFF_FFFF)) := List.append_assoc _ _ _
  have hn : r.bytes.length - 8 = (recBody r.ty r.seq r.payload).length := by
    simp only [hbytes, List.length_append, length_leBytes]
    omega
  have htake : r.bytes.take (r.bytes.length - 8) = recBody r.ty r.seq r.payload := by rw [hn, hbytes, List.take_left]
  have hcrc : (r.bytes.drop (r.bytes.length - 8)).take 4 = leBytes 4 (crc32c (recBody r.ty r.seq r.payload)) := by
    rw [hn, hbytes, List.drop_left]
    exact List.take_left' (length_leBytes _ _)
  have hword : r.bytes.drop (r.bytes.length - 8 + 4) = leBytes 4 (if r.ok then 0 else 0xFFFF_FFFF) := by
    rw [← List.drop_drop, hn, hbytes, List.drop_left]
    exact List.drop_left' (length_leBytes _ _)
  simp only [recCommittedBytes, htake, hcrc, hword, beq_self_eq_true, Bool.true_and]
  cases r.ok <;> rfl

/-! ### The active half (R475) -/

section
variable {j : Nvj}

/-- Of two valid copies that with the higher generation counts. -/
theorem Nvj.super_of_both {a b : Nat × Nat} (ha : j.sb 0 = some a) (hb : j.sb 1 = some b) :
    j.super = some (if a.2 < b.2 then b else a) := by
  rw [super, ha, hb]

theorem Nvj.super_of_one {a : Nat × Nat} (h : (j.sb 0 = some a ∧ j.sb 1 = none) ∨ (j.sb 0 = none ∧ j.sb 1 = some a)) :
    j.super = some a := by
  obtain ⟨h0, h1⟩ | ⟨h0, h1⟩ := h <;> rw [super, h0, h1]

/-- The journal can be read exactly when one of the copies is valid. -/
theorem Nvj.isSome_super_iff : j.super.isSome = true ↔ (j.sb 0).isSome = true ∨ (j.sb 1).isSome = true := by
  rw [super]
  cases j.sb 0 <;> cases j.sb 1 <;> simp

theorem Nvj.active_gen_of_super {a : Nat × Nat} (h : j.super = some a) : j.active = a.1 ∧ j.gen = a.2 := by
  simp [active, gen, h]

/-! ### The steps of a compaction (R474) -/

/-- A journal with the same copies gives the same superblock. -/
theorem Nvj.super_congr {i : Nvj} (h : i.sbs = j.sbs) : i.super = j.super := by
  simp only [super, sb, h]

theorem Nvj.sb_setSb_zero (bs : List Byte) : (j.setSb 0 bs).sb 0 = superOf bs ∧ (j.setSb 0 bs).sb 1 = j.sb 1 := ⟨rfl, rfl⟩

theorem Nvj.sb_setSb_one (bs : List Byte) : (j.setSb 1 bs).sb 0 = j.sb 0 ∧ (j.setSb 1 bs).sb 1 = superOf bs := ⟨rfl, rfl⟩

/-- The erase of step 3 leaves copy 1, that of step 5 copy 0, and the erase of a half both copies. -/
theorem Nvj.isSome_super_cleaned {e : Nat} (h3 : e = 3 → (j.sb 1).isSome = true) (h5 : e = 5 → (j.sb 0).isSome = true)
    (h : j.super.isSome = true) : (j.cleaned e).super.isSome = true := by
  unfold cleaned
  split
  · rwa [super_congr (i := j.setHalf (1 - j.active) []) (j := j) rfl]
  split
  · next he3 => exact isSome_super_iff.mpr (.inr (by rw [(sb_setSb_zero _).2, h3 he3]))
  split
  · next he5 => exact isSome_super_iff.mpr (.inl (by rw [(sb_setSb_one _).1, h5 he5]))
  · exact h

/-- The end of an erase changes the copies as the erase does. -/
theorem Nvj.sbs_erased (j : Nvj) : j.erased.sbs = (j.cleaned (if j.resuming = 0 then j.compact else j.resuming)).sbs := by
  unfold erased
  dsimp only
  repeat' split
  all_goals rfl

/-- A program of a compaction writes no superblock copy, or copy 0 with the other half and the next generation, or copy 1 in
step 6. -/
theorem Nvj.sbs_copyStep (j : Nvj) : j.copyStep.sbs = j.sbs ∨ j.copyStep.sbs = (j.setSb 0 (superBytes (1 - j.active) (j.gen + 1))).sbs ∨
    (j.compact = 6 ∧ j.copyStep.sbs = (j.setSb 1 (superBytes j.active j.gen)).sbs) := by
  unfold copyStep
  dsimp only
  split
  · exact .inl rfl
  split
  · split <;> exact .inl rfl
  split
  · split
    · split <;> exact .inl rfl
    · split
      · exact .inl rfl
      · exact .inr (.inl rfl)
  split
  · next h6 => exact .inr (.inr ⟨h6, rfl⟩)
  · exact .inl rfl

/-- Every program of a compaction leaves a valid copy. -/
theorem Nvj.isSome_super_copyStep (hgen : j.gen + 1 < 2 ^ 64) (h6 : j.compact = 6 → (j.sb 0).isSome = true)
    (h : j.super.isSome = true) : j.copyStep.super.isSome = true := by
  obtain hsame | hzero | ⟨hstep, hone⟩ := j.sbs_copyStep
  · rwa [super_congr hsame]
  · rw [super_congr hzero]
    have hother : 1 - j.active < 256 := by omega
    exact isSome_super_iff.mpr (.inl (by rw [(sb_setSb_zero _).1, superOf_superBytes hother hgen]; rfl))
  · rw [super_congr hone]
    exact isSome_super_iff.mpr (.inl (by rw [(sb_setSb_one _).1, h6 hstep]))

end

/-- Settles O41: a valid copy is one that the round trip of its bytes gives, and no step writes or erases the last one. -/
theorem superblockNamesTheActiveHalf : Obligations.SuperblockNamesTheActiveHalf := by
  unfold Obligations.SuperblockNamesTheActiveHalf
  refine ⟨fun j a b ha hb hle => ?first, fun j a b ha hb hlt => ?second, fun j a h => ?one, fun j e he h3 h5 h => ?erase,
    fun j _ hgen h6 h => Nvj.isSome_super_copyStep hgen h6 h, fun h g hh hg => ⟨length_superBytes h g, superOf_superBytes hh hg⟩,
    fun r => ⟨r.length_bytes, recCommittedBytes_bytes r⟩⟩
  case first =>
    refine Nvj.active_gen_of_super ?_
    rw [Nvj.super_of_both ha hb, if_neg (Nat.not_lt.mpr hle)]
  case second =>
    refine Nvj.active_gen_of_super ?_
    rw [Nvj.super_of_both ha hb, if_pos hlt]
  case one => exact Nvj.active_gen_of_super (Nvj.super_of_one h)
  case erase =>
    rw [Nvj.super_congr j.sbs_erased, ← he]
    exact Nvj.isSome_super_cleaned h3 h5 h

/-! ### OFFLINE of a DDR5 channel (R482, R490) -/

theorem exec_ddrOffline {s : State} (hl : Live s) (c : Nat) : exec (.ddrOffline c) s = .next (s.after (effDdrOffline c)) :=
  runOn_live hl _

section
variable {m : Module} {c : Nat} (hwf : m.regsWf) (hc : c < 12)
include hc

/-- NVJ_DDR_CTRL names the channel whole. -/
theorem Module.ddrSelect_channel (op : Nat) :
    m.ddrSelect c op = (m.setFld NVJ_DDR_CTRL_channel c).setFld NVJ_DDR_CTRL_op op := by
  rw [ddrSelect, Nat.mod_eq_of_lt (by omega)]

include hwf

/-- The write of NVJ_DDR_CTRL leaves what NVJ_DDR_STATUS shows. -/
theorem Module.status_ddrSelect (op : Nat) : (m.ddrSelect c op).fld NVJ_DDR_STATUS_status = m.fld NVJ_DDR_STATUS_status := by
  rw [ddrSelect_channel hc, fld_setFld_other (regsWf_setFld hwf _ _) _ _ _ (by decide) (by decide),
    fld_setFld_other hwf _ _ _ (by decide) (by decide)]

theorem effDdrOffline_busy (hbusy : m.fld NVJ_DDR_STATUS_status = 1) : effDdrOffline c m = m.ddrSelect c 0 := by
  simp [effDdrOffline, Module.status_ddrSelect hwf hc, hbusy]

variable (hfree : m.fld NVJ_DDR_STATUS_status ≠ 1)
include hfree

theorem effDdrOffline_state (hon : m.ddrState c ≠ .online) (hret : m.ddrState c ≠ .retired) :
    effDdrOffline c m = (m.ddrSelect c 0).ddrEnd 3 1 := by
  have hstate : (m.ddrSelect c 0).ddrState c = m.ddrState c := rfl
  simp [effDdrOffline, Module.status_ddrSelect hwf hc, hfree, Nat.not_le.mpr hc, hstate, hon, hret]

theorem effDdrOffline_accepted (hstate : m.ddrState c = .online ∨ m.ddrState c = .retired)
    (hrecs : ∀ e ∈ recsOf m.recs 0x0301, ∀ x ∈ coRanges e.2, x.1 ≠ c)
    (hmigs : ∀ e ∈ m.mem.migs, 1 ≤ e.2.state → chanOf e.2.src ≠ 512 + c ∧ chanOf e.2.dst ≠ 512 + c) :
    effDdrOffline c m = (((m.ddrSelect c 0).setFld NVJ_DDR_STATUS_status 1).setFld NVJ_DDR_STATUS_code 0).setNvj
      (fun j => { j with offline := j.offline ++ [c] }) := by
  have hin : ((m.ddrSelect c 0).ddrState c != .online && (m.ddrSelect c 0).ddrState c != .retired) = false := by
    change (m.ddrState c != .online && m.ddrState c != .retired) = false
    obtain h | h := hstate <;> rw [h] <;> rfl
  have hassigned : ((recsOf (m.ddrSelect c 0).recs 0x0301).any (fun e => (coRanges e.2).any (fun x => x.1 == c))) = false := by
    rw [List.any_eq_false]
    intro e he
    rw [Bool.not_eq_true, List.any_eq_false]
    exact fun x hx => by simpa using hrecs e he x hx
  have hmigrating : ((m.ddrSelect c 0).mem.migs.any (fun e => e.2.state ≥ 1 &&
      (chanOf e.2.src == 512 + c || chanOf e.2.dst == 512 + c))) = false := by
    rw [List.any_eq_false]
    intro e he
    simpa using hmigs e he
  have hstart : ((m.ddrSelect c 0).fld NVJ_DDR_STATUS_status = 1 || c ≥ 12) = false := by
    simp [Module.status_ddrSelect hwf hc, hfree, hc]
  simp only [effDdrOffline, hstart, hin, hassigned, hmigrating, Bool.false_eq_true, if_false]

end

/-- Settles O42: the write of NVJ_DDR_CTRL decides nothing, and each refusal is one test of the effect. -/
theorem offlineRequestIsRefusedByName : Obligations.OfflineRequestIsRefusedByName := by
  unfold Obligations.OfflineRequestIsRefusedByName
  intro s c hl hwf hc m
  have hm : s.m.ddrSelect c 0 = m := Module.ddrSelect_channel hc 0
  rw [exec_ddrOffline hl]
  refine ⟨fun hbusy => ?busy, fun hfree hon hret => ?state, fun hfree hstate hrecs hmigs => ?accepted⟩
  case busy => exact congrArg _ (State.after_congr ((effDdrOffline_busy hwf hc hbusy).trans hm))
  case state =>
    refine congrArg _ (State.after_congr ((effDdrOffline_state hwf hc hfree hon hret).trans ?_))
    rw [hm]
    rfl
  case accepted =>
    exact congrArg _ (State.after_congr ((effDdrOffline_accepted hwf hc hfree hstate hrecs hmigs).trans (by rw [hm])))

/-- Settles O60: each command of the family runs its effect while the internal reset is not asserted. -/
theorem journalCommandsComplete : Obligations.JournalCommandsComplete := by
  unfold Obligations.JournalCommandsComplete
  intro s hl
  exact ⟨runOn_live hl _, fun _ _ => runOn_live hl _, runOn_live hl _, fun _ _ _ _ => runOn_live hl _,
    fun _ => runOn_live hl _, fun _ _ _ => runOn_live hl _, exec_ddrOffline hl, fun _ => runOn_live hl _,
    fun _ _ _ _ => runOn_live hl _, fun _ => runOn_live hl _, runOn_live hl _⟩

end Sys2Proof.Machine
end

section
/-!
PROOF. Management: the management cap takes 2,000 to 5,000 W (R486), before the firmware runs only the commands of the ROM
responder are served (R462, R487), GLB_BOARD shows the straps and the pins (R502), and every command of the family completes.
-/
namespace Sys2Proof.Machine

section
variable {s : State} (hl : Live s)
include hl

theorem exec_setNumericEffecterValue (id value : Nat) :
    exec (.setNumericEffecterValue id value) s = .next (s.after (effSetEffecter id value)) := runOn_live hl _

theorem exec_getStatus (tag : Nat) : exec (.getStatus tag) s = .next (s.after (effMgmt tag .getStatus)) := runOn_live hl _

theorem exec_readReg (tag off : Nat) : exec (.readReg tag off) s = .next (s.after (effMgmt tag (.readReg off))) :=
  runOn_live hl _

theorem exec_writeReg (tag off value : Nat) (f : WriteFacts) :
    exec (.writeReg tag off value f) s = .next (s.after (effMgmt tag (.writeReg off value f))) := runOn_live hl _

theorem exec_mgmtMemRead (tag off len : Nat) :
    exec (.mgmtMemRead tag off len) s = .next (s.after (effMgmt tag (.memRead off len))) := runOn_live hl _

theorem exec_mgmtMemWrite (tag off : Nat) (data : List Byte) :
    exec (.mgmtMemWrite tag off data) s = .next (s.after (effMgmt tag (.memWrite off data))) := runOn_live hl _

theorem exec_traceRead (tag core len : Nat) :
    exec (.traceRead tag core len) s = .next (s.after (effMgmt tag (.traceRead core len))) := runOn_live hl _

theorem exec_setProfile (tag k : Nat) (clear : Bool) :
    exec (.setProfile tag k clear) s = .next (s.after (effMgmt tag (.setProfile k clear))) := runOn_live hl _

end

/-! ### When the management firmware answers (R460, R480, R487) -/

section
variable {m : Module}

theorem Module.mgmtUp_iff : m.mgmtUp = true ↔ m.rst.inReset = false ∧ 5 < m.rst.stepNo ∧ m.nvj.trials.contains 0 = false := by
  simp [mgmtUp, and_assoc]

theorem Module.mgmtUp_of_early (h : m.rst.stepNo ≤ 5) : m.mgmtUp = false := by
  rw [← Bool.not_eq_true, mgmtUp_iff]
  omega

/-- A command that is served is answered in the module that it leaves. -/
theorem effMgmt_served {c : MgmtCmd} {o : MgmtOut} (h : m.mgmtTake c = some o) (tag : Nat) :
    effMgmt tag c m = o.m.emit (.response o.status (c.answer tag o)) := by
  rw [effMgmt, h]

theorem Module.mgmtTake_up (h : m.mgmtUp = true) (c : MgmtCmd) : m.mgmtTake c = some (m.mgmtServe c) := if_pos h

/-- The answer NOT_READY to a command. -/
def notReadyAnswer (c : MgmtCmd) (tag : Nat) : Out :=
  .response 2 (leBytes 1 (c.code + 0x80) ++ leBytes 1 tag ++ leBytes 1 2 ++ [0] ++ [])

section
variable (h : m.rst.stepNo ≤ 5)
include h

theorem Module.mgmtTake_rom {c : MgmtCmd} (hrom : c.rom = true) : m.mgmtTake c = some (m.mgmtServe c) := by
  simp [mgmtTake, mgmtUp_of_early h, Nat.not_lt.mpr h, hrom]

theorem Module.mgmtTake_notRom {c : MgmtCmd} (hrom : c.rom = false) : m.mgmtTake c = some (mgOut m mgNOT_READY) := by
  simp [mgmtTake, mgmtUp_of_early h, Nat.not_lt.mpr h, hrom]

/-- Before step 5 has ended, a command that the ROM responder does not serve is answered NOT_READY, and nothing changes. -/
theorem effMgmt_notReady {c : MgmtCmd} (hrom : c.rom = false) (tag : Nat) :
    effMgmt tag c m = m.emit (notReadyAnswer c tag) :=
  effMgmt_served (Module.mgmtTake_notRom h hrom) tag

theorem effMgmt_getStatus (tag : Nat) :
    effMgmt tag .getStatus m = m.emit (.response 0 (leBytes 1 (1 + 0x80) ++ leBytes 1 tag ++ leBytes 1 0 ++ [0] ++
      (leBytes 4 (m.regShows RST_BRINGUP) ++ leBytes 4 (m.regShows LCS_STATE) ++ leBytes 4 (m.regShows NVJ_STATUS)))) :=
  effMgmt_served (Module.mgmtTake_rom h rfl) tag

end

/-! ### The management cap (R486) -/

theorem effSetEffecter_cap (hup : m.mgmtUp = true) {v : Nat} (hlow : 2000 ≤ v) (hhigh : v ≤ 5000) :
    effSetEffecter 0x80 v m = (m.setPwr (fun p => { p with mgmtCap := v })).emit (.response 0 []) := by
  simp [effSetEffecter, Module.pldm, hup, inRange, hlow, hhigh, pldmOK]

theorem effSetEffecter_invalid (hup : m.mgmtUp = true) {v : Nat} (h : v < 2000 ∨ 5000 < v) :
    effSetEffecter 0x80 v m = m.emit (.response 2 []) := by
  have hrange : inRange v 2000 5000 = false := by
    rw [← Bool.not_eq_true, inRange, Bool.and_eq_true, decide_eq_true_eq, decide_eq_true_eq]
    omega
  simp [effSetEffecter, Module.pldm, hup, hrange, pldmINVALID_DATA]

end

/-- Settles O36: the effecter's range is the effect's own test, and of the commands named the ROM responder serves GET_STATUS
alone. -/
theorem managementCapAndRomResponder : Obligations.ManagementCapAndRomResponder := by
  unfold Obligations.ManagementCapAndRomResponder
  refine fun s hl => ⟨fun hup => ⟨fun v hlow hhigh => ?cap, fun v h => ?invalid⟩, fun hstep tag => ?rom⟩
  case cap =>
    rw [exec_setNumericEffecterValue hl]
    exact congrArg _ (State.after_congr (effSetEffecter_cap hup hlow hhigh))
  case invalid =>
    rw [exec_setNumericEffecterValue hl]
    exact congrArg _ (State.after_congr (effSetEffecter_invalid hup h))
  case rom =>
    have hnot {c : MgmtCmd} (hrom : c.rom = false) :
        Host.Outcome.next (s.after (effMgmt tag c)) = (.next (s.after (·.emit (notReadyAnswer c tag))) : Host.Outcome State Fault Refusal) :=
      congrArg _ (State.after_congr (effMgmt_notReady hstep hrom tag))
    exact ⟨fun off => (exec_readReg hl tag off).trans (hnot rfl), fun off v f => (exec_writeReg hl tag off v f).trans (hnot rfl),
      fun off n => (exec_mgmtMemRead hl tag off n).trans (hnot rfl), fun off bs => (exec_mgmtMemWrite hl tag off bs).trans (hnot rfl),
      fun c n => (exec_traceRead hl tag c n).trans (hnot rfl), fun k cl => (exec_setProfile hl tag k cl).trans (hnot rfl),
      (exec_getStatus hl tag).trans (congrArg _ (State.after_congr (effMgmt_getStatus hstep tag)))⟩

/-! ### GLB_BOARD (R502) -/

section
variable (m : Module)

/-- The word that GLB_BOARD shows. -/
def Module.boardWord : Nat :=
  m.pins.slotId % 64 + 2 ^ 6 * b2n m.pins.twinPresent + 2 ^ 7 * b2n (m.pins.alert || Config.freeNat m.free 0 % 2 == 1) +
    2 ^ 8 * b2n (m.pins.rstExt || m.pins.rstOwn)

/-- GLB_BOARD is a register of its own, no half of a 64-bit pair. -/
theorem exists_descOf_board : ∃ d, descOf GLB_BOARD = some d ∧ d.pair = 0 := by
  have h : (descOf GLB_BOARD).any (fun d => d.pair == 0) = true := by decide
  simpa [Option.any_eq_true] using h

theorem Module.regShows_board : m.regShows GLB_BOARD = m.boardWord := by
  obtain ⟨d, hd, -⟩ := exists_descOf_board
  have hview : m.viewOf GLB_BOARD = some m.boardWord := by
    change some (packWord _) = _
    simp only [packWord, boardWord, List.foldl_cons, List.foldl_nil]
    rw [Option.some.injEq]
    omega
  have hseq : ¬ (0x200_0000 ≤ GLB_BOARD ∧ GLB_BOARD < 0x204_0000) := by decide
  rw [regShows, if_neg hseq, hd, hview]
  rfl

/-- A read of GLB_BOARD uses one free value: whether another driver holds ALERT_N low. -/
theorem Module.readReg_board : m.readReg GLB_BOARD = ({ m with free := m.free + 1 }, m.boardWord) := by
  obtain ⟨d, hd, hpair⟩ := exists_descOf_board
  have hlat : ¬ (0x40_0000 ≤ GLB_BOARD ∧ GLB_BOARD < 0x50_0000 ∧ GLB_BOARD % 0x4_0000 ≥ 0x1_0000 ∧ GLB_BOARD % 8 = 4) := by decide
  simp only [readReg, hd, hpair, hlat, regShows_board, Nat.zero_ne_one, if_false, if_true]
  rfl

/-- GLB_BOARD lies in BAR0 and belongs to no partition. -/
theorem Module.regCheck_board : m.regCheck GLB_BOARD = mgOK := rfl

theorem Module.mgmtServe_readReg_board :
    m.mgmtServe (.readReg GLB_BOARD) = { m := { m with free := m.free + 1 }, status := mgOK, body := leBytes 4 m.boardWord } := by
  have hok : mgOK ≠ mgREFUSED_CONF := by decide
  have haligned : ¬ GLB_BOARD % 4 ≠ 0 := by decide
  simp only [mgmtServe, regCheck_board, readReg_board, hok, haligned, ne_eq, not_true_eq_false, if_false]

variable {m}

theorem effMgmt_readReg_board (hup : m.mgmtUp = true) (hslot : m.pins.slotId < 64) (tag : Nat) :
    effMgmt tag (.readReg GLB_BOARD) m = ({ m with free := m.free + 1 } : Module).emit (.response 0
      (leBytes 1 0x82 ++ leBytes 1 tag ++ [0, 0] ++ leBytes 4
        (m.pins.slotId + 2 ^ 6 * b2n m.pins.twinPresent + 2 ^ 7 * b2n (m.pins.alert || Config.freeNat m.free 0 % 2 == 1) +
          2 ^ 8 * b2n (m.pins.rstExt || m.pins.rstOwn)))) := by
  rw [effMgmt_served (Module.mgmtTake_up hup _), Module.mgmtServe_readReg_board, Module.boardWord, Nat.mod_eq_of_lt hslot]
  rfl

/-- The internal reset ends on a powered module, SLOT_ID is sampled and step 1 begins (R457, R460). -/
theorem effInternalResetRelease_released (hgood : m.rst.good = true) (hreset : m.rst.inReset = true) (slot : Nat) :
    effInternalResetRelease slot m = ((m.setRst (fun r => { r with inReset := false, stepNo := 1 })).setPins
      (fun p => { p with rstExt := false, rstOwn := false, slotId := slot % 64 })).emit (.pin 0 1) := by
  simp only [effInternalResetRelease, hgood, hreset, Bool.and_self, if_true]

end

/-- Settles O10: the register's view is the word of the straps and pins, and the two commands set what it shows of them. -/
theorem boardRegisterShowsThePins : Obligations.BoardRegisterShowsThePins := by
  unfold Obligations.BoardRegisterShowsThePins
  refine ⟨fun s tag hup hslot => ?read, fun s slot hslot hgood hreset => ?release, fun s b => ?twin⟩
  case read =>
    have hl : Live s := (Module.mgmtUp_iff.mp hup).1
    exact (exec_readReg hl tag 0x100).trans (congrArg _ (State.after_congr (effMgmt_readReg_board hup hslot tag)))
  case release =>
    refine ⟨_, exec_internalResetRelease s slot, ?_⟩
    rw [Live, State.after_m, effInternalResetRelease_released hgood hreset]
    exact ⟨Nat.mod_eq_of_lt hslot, rfl, rfl⟩
  case twin => exact ⟨_, exec_twinPresentChange s b, rfl⟩

/-- Settles O57: each command of the family runs its effect while the internal reset is not asserted. -/
theorem managementCommandsComplete : Obligations.ManagementCommandsComplete := by
  unfold Obligations.ManagementCommandsComplete
  intro s hl
  exact ⟨exec_setNumericEffecterValue hl, fun _ => runOn_live hl _, fun _ => runOn_live hl _, runOn_live hl _,
    fun _ => runOn_live hl _, fun _ => runOn_live hl _, fun _ _ _ => runOn_live hl _, runOn_live hl _, runOn_live hl _,
    fun _ _ => runOn_live hl _, exec_getStatus hl, exec_readReg hl, exec_writeReg hl, exec_mgmtMemRead hl,
    exec_mgmtMemWrite hl, fun _ => runOn_live hl _, fun _ _ _ _ => runOn_live hl _, fun _ _ _ => runOn_live hl _,
    exec_traceRead hl, exec_setProfile hl, fun _ _ _ _ _ _ _ _ => runOn_live hl _, fun _ => runOn_live hl _,
    fun _ _ _ => runOn_live hl _, fun _ => runOn_live hl _, fun _ _ => runOn_live hl _⟩

end Sys2Proof.Machine
end
